-- ==== Sys2Proof/Word.lean ====
section
/-! DEFINITION. The machine's words: a 64-bit register, a byte, a 32-bit lane of the vector file (R48, R52). -/

namespace Sys2Proof

/-- A 64-bit register or memory word. -/
abbrev Word := BitVec 64

/-- A byte of memory. -/
abbrev Byte := BitVec 8

/-- A lane of the vector file, an element of an accumulator row, or an instruction word. -/
abbrev Lane := BitVec 32

end Sys2Proof
end

