-- ==== Sys2Proof/Config.lean ====
section
/-! DEFINITION. What an implementation fixes and what the specification leaves open: uninterpreted constants, each named
in notes/assumptions. Nothing can be proved of their values. -/

namespace Sys2Proof.Config

/-- Cycles that pass at a step; the argument is `State.fresh` (DESIGN CHOICE, log 6). -/
opaque elapsed : Nat → Nat

/-- Which line of a full cache makes room; the argument is `State.fresh` (log 11). -/
opaque victim : Nat → Nat

/-- Which of the Drift requests on their way reach a slice in one cycle, as bits; the argument is `State.fresh` (log 76). -/
opaque arrivals : Nat → Nat

/-- PRES of a bundle whose head cannot be read; the argument is `State.fresh` (R317; log 60). -/
opaque unfetchedPres : Nat → BitVec 8

/-- The halves of bank keys that the root firmware's random source draws on a die, in order (R349): no two draws of a die agree before all have come. -/
opaque bankKeys : Nat → Equiv.Perm (BitVec 32)

/-- A key drawn by the root firmware's random source (R365, R367). -/
opaque randomKey : Nat → BitVec 256

/-- The boot nonce of a die, fresh at each reset (R366). -/
opaque bootNonce : Nat → BitVec 256

/-- The identity seed of a die, from its physically unclonable function and the helper data (R376). -/
opaque identitySeed : Nat → List (BitVec 8) → BitVec 256

/-- What an MMIO device answers; the arguments are the physical address and `State.fresh` (DESIGN CHOICE, log 10). -/
opaque mmioRead : Nat → Nat → BitVec 64

/-- Where root code starts on a die when a trap enters it (R316). The specification gives no address. -/
opaque rootVector : Nat → BitVec 64

/-- Where root hands over to the job monitor on a die (R400, stage 0x50). -/
opaque monitorEntry : Nat → BitVec 64

/-- Where a newly activated job monitor goes on with the state handed to it (R379). -/
opaque activationEntry : Nat → BitVec 64

/-- The digest of the boot ROM (R377, block 0x01). -/
opaque romDigest : BitVec 256

/-- Where the staging window stands in the HBM of die 0 of a module (R399). -/
opaque stagingBase : Nat → BitVec 36

/-- Where the firmware bundle is copied to in a die's HBM (R400, stage 0x10). -/
opaque bundleBase : Nat → BitVec 36

/-- The 64 KiB granule of a die's HBM that root makes its event area (R325). -/
opaque eventGranule : Nat → BitVec 21

/-- The parts of a firmware bundle, each with its signature (R398). -/
opaque bundleParts : List (BitVec 8) → List (List (BitVec 8) × List (BitVec 8))

/-- The fields of the configuration part (R398): 0 Ethernet mode, 1 BACKOFF, 2 domain size, 3 module number. -/
opaque configField : List (BitVec 8) → Nat → BitVec 8

/-- The leaf key of a certificate chain (R376). -/
opaque certLeaf : List (BitVec 8) → List (BitVec 8)

/-- The memory slice that holds an HBM word of a die (R406, UNIT). -/
opaque hbmSlice : Nat → BitVec 4

/-- Whether the sync engines of a die have room for one more phaser; the arguments are the numbers of its phasers and of their members (R346, log 26). -/
opaque phaserRoom : Nat → Nat → Bool

/-- AES-256-XTS under a key and the parts of a tweak, on data units of n bytes (R6, R369): a permutation of them. -/
opaque xts : BitVec 256 → List Nat → (n : Nat) → Equiv.Perm (BitVec (8 * n))

/-- The bytes of a data unit as one number, and back; the first byte is the lowest. -/
def unitNum (n : Nat) (bs : List (BitVec 8)) : BitVec (8 * n) := BitVec.ofNat (8 * n) (bs.foldr (fun b v => b.toNat + 256 * v) 0)
def unitBytes (n : Nat) (v : BitVec (8 * n)) : List (BitVec 8) := (List.range n).map (fun i => BitVec.ofNat 8 (v.toNat / 256 ^ i))

/-- AES-256-XTS encryption of a data unit: key, the parts of the tweak, the bytes of the unit, plaintext (R6, R369). -/
def xtsSeal (key : BitVec 256) (tweak : List Nat) (n : Nat) (bs : List (BitVec 8)) : List (BitVec 8) := unitBytes n (xts key tweak n (unitNum n bs))
/-- AES-256-XTS decryption of a data unit (R6, R369). -/
def xtsUnseal (key : BitVec 256) (tweak : List Nat) (n : Nat) (bs : List (BitVec 8)) : List (BitVec 8) :=
  unitBytes n ((xts key tweak n).symm (unitNum n bs))

/-- SHA-256 (R366, R371, R376, R377). -/
opaque sha256 : List (BitVec 8) → BitVec 256

/-- The AES-256-GCM keystream of a key and an IV: its byte n (R366, R374). -/
opaque gcmStream : BitVec 256 → BitVec 96 → Nat → BitVec 8

/-- AES-256-GCM encryption and decryption alike: the data XORed with the keystream, byte by byte (R366, R374). -/
def gcmCrypt (key : BitVec 256) (iv : BitVec 96) (data : List (BitVec 8)) : List (BitVec 8) := data.zipIdx.map (fun b => b.1 ^^^ gcmStream key iv b.2)

/-- GCM decryption undoes encryption. -/
theorem gcmCrypt_gcmCrypt (key : BitVec 256) (iv : BitVec 96) (data : List (BitVec 8)) : gcmCrypt key iv (gcmCrypt key iv data) = data := by
  unfold gcmCrypt
  apply List.ext_getElem (by simp)
  intro i h1 h2
  simp

/-- AES-256-GCM tag: key, IV, additional data, ciphertext (R366, R374, R384, R395). -/
opaque gcmTag : BitVec 256 → BitVec 96 → List (BitVec 8) → List (BitVec 8) → BitVec 128

/-- SLH-DSA-SHA2-128s verification: public key, message, signature (R371, R377). -/
opaque slhVerify : List (BitVec 8) → List (BitVec 8) → List (BitVec 8) → Bool

/-- The digest of Strelevo's key held in ROM, as the public key that verifies firmware parts (R377). -/
opaque strelevoKey : List (BitVec 8)

/-- SLH-DSA-SHA2-128s key generation (R376): three seed inputs; the private and the public key. -/
opaque slhKeyGen : BitVec 256 → BitVec 256 → BitVec 256 → List (BitVec 8) × List (BitVec 8)

/-- SLH-DSA-SHA2-128s signature: private key, message (R376). -/
opaque slhSign : List (BitVec 8) → List (BitVec 8) → List (BitVec 8)

/-- The link key of a direction: the die and the station that receive under it, and `State.fresh` as root loads it or two roots agree on it (R384). -/
opaque agreedLinkKey : Nat → Nat → Nat → BitVec 256

/-- How many of the packets that a die has made and that still stand in it have left their engine's queue for the station they leave by, the first
first; the argument is `State.fresh` (R354; log 90). -/
opaque stationed : Nat → Nat

end Sys2Proof.Config
end

