-- ==== Sys2Proof/Syntax.lean ====
section
/-! DEFINITION. The instructions and events of spec/opcode_table.json: one constructor of `Instr` for each row. The
fields of an instruction word are bit vectors of the width the word gives them; an event carries what the outside
world or the scheduler chooses about it. -/

namespace Sys2Proof

/-- A fabric packet (R381, R382): header fields, requested length, multicast prefix (one die mask per module, R389), payload. The
last fields are the model's: the ING of the station it came in by at the die where it stands (8: it was made there), whether a reserved field is
nonzero, the die that numbered it where that is not SRC (a copy of R267), the VC of the request a response answers, the refusals it met (R388); the
die where it stands, the ING that it arrives with at the next die it leaves for (4 to 7 by Ethernet; 8: it has come to its die), its ASEQ (R355).
Of a multicast packet under way DST is 0 beside a prefix, and the mask of dies once a bridge station has stripped it (R389). -/
structure Packet where
  op : Nat
  job : Nat
  offs : Nat
  steer : Bool
  vc : Nat
  seq : Nat
  dst : Nat
  src : Nat
  rkey : Nat
  rlen : Nat := 0
  masks : List Nat := []
  payload : List Byte
  ing : Nat := 0
  reserved : Bool := false
  via : Option Nat := none
  rvc : Nat := 0
  turned : Nat := 0
  at_ : Nat := 0
  out : Nat := 8
  aseq : Nat := 0
  deriving DecidableEq, Repr

/-- A packet as it is on the wire: nothing of where it stands. -/
def Packet.wire (p : Packet) : Packet := { p with ing := 0, turned := 0, at_ := 0, out := 8, aseq := 0 }

/-- A record of the grant layout (R386): class and slot count. -/
structure Grant where
  comm : Bool
  cls : Nat
  slots : Nat
  deriving DecidableEq, Repr

/-- A link frame as it arrives (R384): control flit fields, the packets whose last flit it carries, flits 0 to 14 with flits 1 to 14 encrypted, the
tag. -/
structure LinkFrame where
  number : Nat
  rtx : Bool
  nak : Bool
  ackf : Nat
  grants : List Grant
  packets : List Packet
  flits : List Byte
  tag : BitVec 128
  deriving DecidableEq, Repr

/-- A census (R387): the count N of flits received and one entry for every class. -/
structure Census where
  flits : Nat
  entries : List Grant
  deriving DecidableEq, Repr

/-- An Ethernet frame (R394, R395): MAC addresses, 802.1Q tag if it has one, EtherType, plaintext head, ciphertext, tag and the packet it decrypts
to. One whose FCS is wrong never comes in. -/
structure EthFrame where
  dstMac : BitVec 48 := 0
  srcMac : BitVec 48 := 0
  vlan : Option (BitVec 16) := none
  etherType : Nat
  head : Word
  counter : Word
  cipher : List Byte
  tag : BitVec 128
  packet : Packet
  deriving DecidableEq, Repr

/-- What a 4 KiB page of BAR space reaches (R380): the doorbell page of a user queue, the event page of a die, a shared granule of a
die's memory, the staging window at an offset (R399), a port's management page (R397, R399). -/
inductive BarPage where
  | queue (die q : Nat)
  | event (die : Nat)
  | granule (die pa : Nat)
  | staging (off : Nat)
  | management
  deriving DecidableEq, Repr

/-- A host request to BAR space (R380, R397): port, trusted bit, requester, bus address, the write it makes if any, and whether that is posted. -/
structure BarReq where
  port : Nat
  trusted : Bool
  rid : Nat
  addr : Nat
  write : Option Word
  posted : Bool := true
  deriving DecidableEq, Repr

/-- The SPDM requests that the module supports (R377); `none` asks for every measurement block. -/
inductive SpdmKind where
  | getVersion | getCapabilities | negotiateAlgorithms | getDigests | getCertificate | challenge
  | getMeasurements (index : Option Nat)
  deriving DecidableEq, Repr

/-- An SPDM message (R377): its request and its bytes. -/
structure SpdmMsg where
  kind : SpdmKind
  body : List Byte
  deriving DecidableEq, Repr

/-- An operation of a sync engine (R227 to R231). -/
inductive PhaserOp where
  | register (mode : Nat)
  | drop (mode m : Nat)
  | signal (mode m : Nat)
  | query
  deriving DecidableEq, Repr

/-- What a patrol read finds (R405): at a home, or as an uncorrectable error in the data-cache line in which a core holds that location, or in
the block of a core's instruction cache at a slot and a VA. -/
inductive PatrolFind where
  | clean
  | corrected
  | uncorrectable
  | line (core : Nat)
  | block (core asid va : Nat)
  deriving DecidableEq, Repr

/-- The registers, descriptors and monitor services that have no row of their own (REGISTER_WRITE, R3, R345, R346): each
constructor names what is written. -/
inductive RegTarget where
  | partition (part w : Nat)                        -- partition descriptor word, R342
  | saveArea (part : Nat)                           -- save-area word, R407
  | window (i w : Nat)                              -- window table, R334
  | region (i w : Nat)                              -- region table, R392
  | driftRegion (i w : Nat)                         -- Drift region descriptor, R278
  | commWord (key w : Nat)                          -- communicator descriptor of job × 256 + COMM, R289
  | uqBase (q : Nat) | uqSize (q : Nat)             -- a user queue in the monitor's mapping, R29
  | uqWidx (q : Nat) | uqRidx (q : Nat)
  | uqJob (q : Nat) | uqAsid (q : Nat) | uqPtroot (q : Nat) | uqOwner (q : Nat)   -- its job and the tables it is read under, R31
  | route (dst : Nat)                               -- route table, R256
  | sealMap (bulk : Bool) (granule : Nat)           -- seal map, R369
  | supervisor (job : Nat)                          -- flow [7:0], stage [10:8], cluster [18:16], R347
  | lattol (port : Nat)                             -- R399
  | backoff                                         -- R390
  | etherType                                       -- R255
  | pfc (sub : Nat)                                 -- priority flow control of an Ethernet subport, R394
  | barPage (page : Nat) (kind : BarPage)           -- [0] private, [13:8] the partition of its device interface, R380
  | pinnedKey (job : Nat) (key : BitVec 256)        -- R375
  | area (job cluster : Nat)                        -- pipeline area size, R261
  | clusterWindow (job cluster base : Nat)          -- cluster window, R11
  | bankKey (core : Nat)                            -- R349
  | clearPage (base : Nat)                          -- bytes of a page to be mapped to a job for the first time, R348
  | jobCreate (job : Nat)                           -- R348, R377
  | jobTeardown (job : Nat)                         -- R348
  | reserveToPool (job : Nat)                       -- R344 step 1
  | overflowEnd (job flow stage : Nat)              -- R344 step 2
  | overflowMove (job flow stage cluster : Nat)     -- R345
  | service (core ctx : Nat) (code : BitVec 16)     -- a service of R346 for a context
  deriving DecidableEq, Repr

/-- One row of the opcode table. Instruction rows first, in the table's order by slot; then the events. -/
inductive Instr where
  -- C slot (R97)
  | br (w : BitVec 24) | call (w : BitVec 24)
  | bz (g : BitVec 5) (w : BitVec 19) | bnz (g : BitVec 5) (w : BitVec 19)
  | blt (g : BitVec 5) (w : BitVec 19) | bge (g : BitVec 5) (w : BitVec 19)
  | bpany (p : BitVec 4) (w : BitVec 19) | bpall (p : BitVec 4) (w : BitVec 19)
  | callr (g : BitVec 5) | jr (g : BitVec 5) | ret
  | loop (n : BitVec 2) (g : BitVec 5) (w : BitVec 19)
  | loopi (n : BitVec 2) (c : BitVec 13) (e : BitVec 11)
  | lbrk (n : BitVec 2)
  | endt | endtPost (g : BitVec 5) (st : BitVec 3) | post (g : BitVec 5) (st : BitVec 3)
  | trap (c : BitVec 16) | sysc (c : BitVec 16)
  | emptyBundle (pad lend stop : Bool)
  -- A slot, register forms (R98, R99, R126, R127)
  | add (d a b : BitVec 5) (w : BitVec 2) (sat : Bool) | sub (d a b : BitVec 5) (w : BitVec 2) (sat : Bool)
  | mul (d a b : BitVec 5) (w : BitVec 2) (sat : Bool)
  | mulh (d a b : BitVec 5) (w : BitVec 2) | mulhz (d a b : BitVec 5) (w : BitVec 2)
  | divs (d a b : BitVec 5) (w : BitVec 2) (sat : Bool)
  | rems (d a b : BitVec 5) (w : BitVec 2) | remz (d a b : BitVec 5) (w : BitVec 2)
  | and (d a b : BitVec 5) | or (d a b : BitVec 5) | xor (d a b : BitVec 5) | andn (d a b : BitVec 5)
  | shl (d a b : BitVec 5) (w : BitVec 2) | shr (d a b : BitVec 5) (w : BitVec 2)
  | sra (d a b : BitVec 5) (w : BitVec 2) | rotl (d a b : BitVec 5) (w : BitVec 2)
  | min (d a b : BitVec 5) (w : BitVec 2) | max (d a b : BitVec 5) (w : BitVec 2)
  | minz (d a b : BitVec 5) (w : BitVec 2) | maxz (d a b : BitVec 5) (w : BitVec 2)
  | slt (d a b : BitVec 5) (w : BitVec 2) | sltz (d a b : BitVec 5) (w : BitVec 2) | seq (d a b : BitVec 5) (w : BitVec 2)
  | sel (d a b c : BitVec 5)
  | clz (d a : BitVec 5) (w : BitVec 2) | ctz (d a : BitVec 5) (w : BitVec 2) | popc (d a : BitVec 5) (w : BitVec 2)
  | divz (d a b : BitVec 5) (w : BitVec 2)
  -- A slot, immediate forms (R128 to R130)
  | addi (d a : BitVec 5) (i : BitVec 14) | andi (d a : BitVec 5) (i : BitVec 14)
  | ori (d a : BitVec 5) (i : BitVec 14) | xori (d a : BitVec 5) (i : BitVec 14)
  | shli (d a : BitVec 5) (h : BitVec 6) | shri (d a : BitVec 5) (h : BitVec 6) | srai (d a : BitVec 5) (h : BitVec 6)
  | li (d : BitVec 5) (i : BitVec 14) | lih (d a : BitVec 5) (i : BitVec 14)
  | bext (d a : BitVec 5) (pos len : BitVec 6) | bins (d a : BitVec 5) (pos len : BitVec 6)
  | csrr (d : BitVec 5) (n : BitVec 12) | csrw (a : BitVec 5) (n : BitVec 12)
  -- A slot, monitor level (R106, R320 to R323)
  | csrrsW (d a : BitVec 5) (n : BitVec 12) | csrrsS (d a : BitVec 5) (n : BitVec 12) | csrrsC (d a : BitVec 5) (n : BitVec 12)
  | tret | tinv (d a b : BitVec 5) | asidinv (d a : BitVec 5)
  | ctxsave (d a b : BitVec 5) | ctxrest (d a b : BitVec 5) | scrub (d a : BitVec 5) | keyld (d a b : BitVec 5)
  | gsw (d a : BitVec 5) | segmap (d a : BitVec 5) | wfe (d : BitVec 5) | mret
  -- V and W slots (R100, R101, R138); operand bytes are views unless the row says otherwise
  | vaddF (t : BitVec 2) (d a b : BitVec 8) | vsubF (t : BitVec 2) (d a b : BitVec 8) | vmulF (t : BitVec 2) (d a b : BitVec 8)
  | vfma (t : BitVec 2) (d a b : BitVec 8) | vfms (t : BitVec 2) (d a b : BitVec 8) | vfnma (t : BitVec 2) (d a b : BitVec 8)
  | vmaxF (t : BitVec 2) (d a b : BitVec 8) | vminF (t : BitVec 2) (d a b : BitVec 8)
  | vabs (t : BitVec 2) (d a : BitVec 8) | vneg (t : BitVec 2) (d a : BitVec 8)
  | vrecip (t : BitVec 2) (d a : BitVec 8) | vrsqrt (t : BitVec 2) (d a : BitVec 8) | vsqrt (t : BitVec 2) (d a : BitVec 8)
  | vexp2 (t : BitVec 2) (d a : BitVec 8) | vlog2 (t : BitVec 2) (d a : BitVec 8)
  | vaddI (t : BitVec 2) (d a b : BitVec 8) | vsubI (t : BitVec 2) (d a b : BitVec 8) | vmulI (t : BitVec 2) (d a b : BitVec 8)
  | vmulh (t : BitVec 1) (d a b : BitVec 8) | vminI (t : BitVec 1) (d a b : BitVec 8) | vmaxI (t : BitVec 1) (d a b : BitVec 8)
  | vand (d a b : BitVec 8) | vor (d a b : BitVec 8) | vxor (d a b : BitVec 8)
  | vshl (d a b : BitVec 8) | vshr (d a b : BitVec 8) | vsra (d a b : BitVec 8)
  | vcmpEq (t : BitVec 2) (d : BitVec 4) (a b : BitVec 8) | vcmpNe (t : BitVec 2) (d : BitVec 4) (a b : BitVec 8)
  | vcmpLt (t : BitVec 2) (d : BitVec 4) (a b : BitVec 8) | vcmpLe (t : BitVec 2) (d : BitVec 4) (a b : BitVec 8)
  | vsel (d a : BitVec 8) (p : BitVec 4) | vmov (d a : BitVec 8) | vbcast (d : BitVec 8) (g : BitVec 5)
  | vlane (d : BitVec 5) (a : BitVec 8) (b : BitVec 5) | vins (d : BitVec 8) (a b : BitVec 5)
  | vperm (d a b : BitVec 8) | vrot (d a : BitVec 8) (b : BitVec 5)
  | vredsum (t : BitVec 2) (d a : BitVec 8) | vredmax (t : BitVec 2) (d a : BitVec 8) | vredmin (t : BitVec 2) (d a : BitVec 8)
  | vscan (t : BitVec 2) (d a : BitVec 8)
  | vcvt (x y : BitVec 4) (d a : BitVec 8) | vcvtNt6Unpack (d a : BitVec 8) | vcvtNt6Pack (d a : BitVec 8)
  | vscale (d a b : BitVec 8) | vexpoNt8 (d a : BitVec 8) | vexpoNt6 (d a : BitVec 8)
  | pand (d a b : BitVec 4) | por (d a b : BitVec 4) | pxor (d a b : BitVec 4) | pnot (d a : BitVec 4) | pmov (d a : BitVec 4)
  | vpackP (d : BitVec 8) (hi : Bool) | vunpackP (hi : Bool) (a : BitVec 8) | pcount (d : BitVec 5) (a : BitVec 4)
  -- M slot (R102)
  | wload (p : BitVec 3) (f : BitVec 5) (c : BitVec 6) | wswap
  | mrunMac (p : BitVec 3) (f : BitVec 5) (b : BitVec 10) (c : BitVec 6) | mrunAdm (p : BitVec 3) (f : BitVec 5) (b : BitVec 10) (c : BitVec 6)
  | mrunMax (p : BitVec 3) (f : BitVec 5) (b : BitVec 10) (c : BitVec 6) | mrunMin (p : BitVec 3) (f : BitVec 5) (b : BitVec 10) (c : BitVec 6)
  | accclr (b : BitVec 10) (c : BitVec 6) | accscale (p : BitVec 3) (b : BitVec 10) (c : BitVec 6)
  | arrayDequeue (core : Nat)
  -- L slot (R103, R171)
  | ldS8 (d b : BitVec 5) (o : BitVec 13) | ldS16 (d b : BitVec 5) (o : BitVec 13) | ldS32 (d b : BitVec 5) (o : BitVec 13)
  | ldS64 (d b : BitVec 5) (o : BitVec 13) | ldZ8 (d b : BitVec 5) (o : BitVec 13) | ldZ16 (d b : BitVec 5) (o : BitVec 13)
  | ldZ32 (d b : BitVec 5) (o : BitVec 13)
  | st8 (d b : BitVec 5) (o : BitVec 13) | st16 (d b : BitVec 5) (o : BitVec 13) | st32 (d b : BitVec 5) (o : BitVec 13)
  | st64 (d b : BitVec 5) (o : BitVec 13)
  | vld (v : BitVec 6) (b : BitVec 5) (o : BitVec 13) | vldc (v : BitVec 6) (b : BitVec 5) (o : BitVec 13)
  | vst (v : BitVec 6) (b : BitVec 5) (o : BitVec 13) | vstc (v : BitVec 6) (b : BitVec 5) (o : BitVec 13)
  | vgath (v : BitVec 6) (b : BitVec 5) (i : BitVec 6) (s : BitVec 2) | vscat (v : BitVec 6) (b : BitVec 5) (i : BitVec 6) (s : BitVec 2)
  | accrd (v : BitVec 6) (b : BitVec 5) (o : BitVec 12) (hi : Bool) | accwr (v : BitVec 6) (b : BitVec 5) (o : BitVec 12) (hi : Bool)
  | pcfg (w : Bool) (p : BitVec 3) (h : BitVec 4) | prst (w : Bool) (p : BitVec 3) | prstU (w : Bool) (p : BitVec 3)
  | padv (w : Bool) (p : BitVec 3) (g : BitVec 5) (n : BitVec 13)
  | hld (h : BitVec 4) (b : BitVec 5) (o : BitVec 13) | hset (h : BitVec 4) (g : BitVec 5) (f : BitVec 6) | hst (h : BitVec 4) (b : BitVec 5) (o : BitVec 13)
  | pref (b : BitVec 5) (o : BitVec 13) | lea (d b : BitVec 5) (o : BitVec 13)
  -- X slot (R104, R191)
  | xcopy (s d : BitVec 4) (k g : BitVec 5) (ken out ord : Bool) | xgath (s d : BitVec 4) (k g : BitVec 5) (ken out ord : Bool)
  | xscat (s d : BitVec 4) (k g : BitVec 5) (ken out ord : Bool) | xfill (d : BitVec 4) (k g : BitVec 5) (ken out ord lit : Bool)
  | kinc (k g : BitVec 5) (lit : Bool) | kset (k g : BitVec 5) (lit : Bool)
  | kwaitLt (k g : BitVec 5) (lit : Bool) | kwaitGe (k g : BitVec 5) (lit : Bool)
  | xcoll (s d : BitVec 4) (k g : BitVec 5) (ken out : Bool) | xtrig (g : BitVec 5) | xabort (g : BitVec 5)
  | mtins (k g : BitVec 5) (t : BitVec 6) | mtdel (k g : BitVec 5) (t : BitVec 6) | mtrd (k g : BitVec 5) (t : BitVec 6)
  | mtregAdd (k g : BitVec 5) (t : BitVec 6) (tgt : Bool) | mtregMax (k g : BitVec 5) (t : BitVec 6) (tgt : Bool)
  | mtregMin (k g : BitVec 5) (t : BitVec 6) (tgt : Bool) | mtregCas (k g : BitVec 5) (t : BitVec 6) (tgt : Bool)
  | mtregRead (k g : BitVec 5) (t : BitVec 6) (tgt : Bool)
  | xsync
  -- Y slot (R105, R215)
  | amoAdd (a v : BitVec 5) (s : BitVec 3) (dw rel acq : Bool)
  | amoMin (a v : BitVec 5) (s : BitVec 3) (dw z rel acq : Bool) | amoMax (a v : BitVec 5) (s : BitVec 3) (dw z rel acq : Bool)
  | amoAnd (a v : BitVec 5) (s : BitVec 3) (dw rel acq : Bool) | amoOr (a v : BitVec 5) (s : BitVec 3) (dw rel acq : Bool)
  | amoXor (a v : BitVec 5) (s : BitVec 3) (dw rel acq : Bool) | amoSwap (a v : BitVec 5) (s : BitVec 3) (dw rel acq : Bool)
  | amoCas (a v c : BitVec 5) (s : BitVec 3) (dw rel acq : Bool)
  | vamoAdd (a : BitVec 5) (v : BitVec 6) (s : BitVec 3) (rel acq idx : Bool)
  | vamoMin (a : BitVec 5) (v : BitVec 6) (s : BitVec 3) (z rel acq idx : Bool) | vamoMax (a : BitVec 5) (v : BitVec 6) (s : BitVec 3) (z rel acq idx : Bool)
  | vamoAnd (a : BitVec 5) (v : BitVec 6) (s : BitVec 3) (rel acq idx : Bool) | vamoOr (a : BitVec 5) (v : BitVec 6) (s : BitVec 3) (rel acq idx : Bool)
  | vamoXor (a : BitVec 5) (v : BitVec 6) (s : BitVec 3) (rel acq idx : Bool) | vamoSwap (a : BitVec 5) (v : BitVec 6) (s : BitVec 3) (rel acq idx : Bool)
  | vamoCas (a : BitVec 5) (v : BitVec 6) (s : BitVec 3) (rel acq idx : Bool)
  | fence (s : BitVec 3) (wb inv : Bool)
  | bind (a l : BitVec 5) (b : BitVec 6) | unbind (a : BitVec 5)
  | preg (p : BitVec 5) (b : BitVec 6) (m : BitVec 2) | pdrop (b : BitVec 6) | psig (b : BitVec 6)
  | pwait (t : BitVec 5) (b : BitVec 6) | psw (b : BitVec 6) | pquery (d : BitVec 5) (b : BitVec 6) | pqueryPhase (d : BitVec 5) (b : BitVec 6)
  | waita (a v d : BitVec 5)
  | tdep (a : BitVec 5) (v : BitVec 6) (m : BitVec 5) (s : BitVec 3) | tdepPark (a : BitVec 5) (v : BitVec 6) (m : BitVec 5) (s : BitVec 3)
  | tcopy (a : BitVec 5) (v : BitVec 6) (m : BitVec 5) (s : BitVec 3) | tcopyPark (a : BitVec 5) (v : BitVec 6) (m : BitVec 5) (s : BitVec 3)
  | ttake (a : BitVec 5) (v : BitVec 6) (m : BitVec 5) (s : BitVec 3) | ttakePark (a : BitVec 5) (v : BitVec 6) (m : BitVec 5) (s : BitVec 3)
  -- Events (95_what_each_step_holds)
  | uqWidxWrite (die q : Nat) (v : Word) | uqHaltClear (die q : Nat) (mask : Word)
  | launch (die q : Nat) | fenceOnly (die q : Nat) | packetCompletion (die q idx : Nat)
  | dispatchGrant (core ctx : Nat) | idleSteal (core ctx : Nat) | launchSequence (core ctx : Nat)
  | queueGrowth (die : Nat) | preempt (die : Nat) | coresBitSet (die part core : Nat) | coresBitClear (die part core : Nat)
  | engineJobStart (core card burst : Nat) | engineJobCompletion (core card : Nat) | triggerFire (die : Nat)
  | collectiveEntryStart (die comm qp : Nat) | chunkSend (die : Nat) | entryLocalCompletion (die comm qp : Nat)
  | agreementPropose (die comm : Nat) (members : List Nat) | agreementCommit (die comm : Nat)
  | ethFrameRx (die sub : Nat) (frame : EthFrame) | pipelinePacket (die lane : Nat) | disposition (die lane : Nat)
  | sliceCopy (die slice : Nat) | sliceTake (die slice : Nat) | sliceDeposit (die slice : Nat) | sliceWithdraw (die slice pnum : Nat)
  | regionDestroy (die rgn : Nat) | driftReply (die slice : Nat)
  | syncPhaserOp (die obj : Nat) (op : PhaserOp)
  | cacheEviction (core line : Nat) (drop : Bool) | bufferDrain (die : Nat) (cluster : Option Nat) (idx : Nat)
  | pageWalk (core ctx : Nat) (va : Word) | shootdownCoreAck (core asid : Nat) (page : Option Word)
  | icacheFill (core ctx : Nat) (va : Word)
  | fabricRd (src dst vc : Nat) | fabricWr (src dst vc : Nat) | fabricAmo (src dst vc : Nat) | fabricMcwr (src dst vc : Nat)
  | fabricWrr (src dst vc : Nat) | fabricRsp (src dst vc : Nat) | fabricAck (src dst vc : Nat) | fabricNack (src dst vc : Nat)
  | fabricMgmt (src dst vc : Nat)
  | answerTimeout (src dst vc seq : Nat) | backoffResend (src dst vc seq : Nat)
  | linkFrameRx (die port : Nat) (frame : LinkFrame) | censusSend (die port : Nat) | censusReceive (die port : Nat) (c : Census)
  | hostBarRequest (md : Nat) (req : BarReq)
  | claim (md : Nat) (p0 p1 : Bool) | handoff (md port : Nat) | accept (md port : Nat) | ownerLinkLoss (md : Nat)
  | go (md kib : Nat) | reset (md : Nat) | bootVerify (die : Nat) | rootStart (die : Nat) | linkTraining (die : Nat) (ok : Bool) | monitorHandover (md : Nat)
  | spdmMessageArrive (md : Nat) (msg : SpdmMsg) | rootRequest (md : Nat) | monitorActivation (md : Nat) (image : Option (List Byte × List Byte))
  | quiescePass (die : Nat) | sweep (die : Nat) | gangSave (die : Nat) | savedReport (die : Nat) | closePass (die : Nat)
  | latePacket (die : Nat) (pkt : Packet) | restoreOpen (die : Nat) | restoreResume (die : Nat)
  | powerP1Enter (die cl : Nat) | powerP2Enter (die cl : Nat) | powerP3Enter (die : Nat) | clusterWake (die cl : Nat) | wakeComplete (die cl : Nat)
  | patrolRead (die : Nat) (addr : Nat) (found : PatrolFind)
  | registerWrite (die : Nat) (target : RegTarget) (v : Word)
  | hostLinkDown (md port : Nat) | hostLinkUp (md port : Nat) | deviceInterfaceState (md part : Nat) (run : Bool)
  deriving DecidableEq, Repr

end Sys2Proof
end

