-- ==== Sys2Proof/WellFormed.lean ====
section
/-! DEFINITION. Which instructions the code scanner accepts as operands of their kind (scan reasons 0x01, 0x02 and 0x04
that concern one instruction alone: R52, R60, R98, R102, R105, R134, R149, R158, R171, R186, R191, R215, R312, R320). -/

namespace Sys2Proof

/-- A source operand byte: a port view names q0 to q7 (R52). -/
def srcOk (b : BitVec 8) : Bool := b.toNat < 0xC8

/-- A destination operand byte: a port view names o0 to o3 (R52). -/
def dstOk (b : BitVec 8) : Bool := b.toNat < 0xC4

/-- A destination that is also read is never a port view (R134). -/
def dstRead (b : BitVec 8) : Bool := b.toNat < 0xC0

/-- A user control register (R60). -/
def csrUser (n : BitVec 12) : Bool := n.toNat ≤ 9

/-- A user control register that `csrw` may name: PORT_STATUS, AFLAGS, FAULT_INFO (R60). -/
def csrWritable (n : BitVec 12) : Bool := 6 ≤ n.toNat && n.toNat ≤ 8

/-- A register that `csrrs` may name (R60, R313). -/
def csrSystem (n : BitVec 12) : Bool := csrUser n || (0x100 ≤ n.toNat && n.toNat ≤ 0x10C)

/-- A format of `wload` and `mrun` (R158). -/
def matFmt (f : BitVec 5) : Bool := [0x00, 0x01, 0x0B, 0x08, 0x09, 0x0C].contains f.toNat

/-- A row range that stays below 1,024 (R102). -/
def rowsOk (b : BitVec 10) (c : BitVec 6) : Bool := b.toNat + c.toNat + 1 ≤ 1024

/-- A numeric conversion pair (R149). -/
def cvtPair (x y : BitVec 4) : Bool :=
  let ok (n : Nat) : Bool := n ≤ 5 || (8 ≤ n && n ≤ 12)
  ok x.toNat && ok y.toNat && x != y && !(x.toNat = 0 && y.toNat = 12) && !(x.toNat = 12 && y.toNat = 0)

/-- A field code of `hset` (R186). -/
def hsetField (f : BitVec 6) : Bool := (f.toNat ≤ 0x14 && f.toNat ≠ 0x07) || (0x18 ≤ f.toNat && f.toNat ≤ 0x1F)

/-- A scope (R105). -/
def scopeOk (s : BitVec 3) : Bool := s.toNat ≤ 4

/-- A port index of a port instruction: o0 to o3 when `w` (R181). -/
def portOk (w : Bool) (p : BitVec 3) : Bool := !w || p.toNat ≤ 3

/-- The register field of a LITF form is zero when the literal is used (R191). -/
def litOk (lit : Bool) (g : BitVec 5) : Bool := !lit || g.toNat = 0

/-- The operands of an instruction are in the ranges the scanner accepts (R107, R108). Events have no encoding and are
accepted as they are. -/
def Instr.wf : Instr → Bool
  | .loop _ _ w => 0 < w.toInt
  | .loopi _ _ e => e.toNat != 0
  | .bext _ _ p l | .bins _ _ p l => p.toNat + l.toNat + 1 ≤ 64
  | .csrr _ n => csrUser n
  | .csrw _ n => csrWritable n
  | .csrrsW _ _ n | .csrrsS _ _ n | .csrrsC _ _ n => csrSystem n
  | .vaddF t d a b | .vsubF t d a b | .vmulF t d a b | .vmaxF t d a b | .vminF t d a b =>
      t.toNat ≤ 2 && dstOk d && srcOk a && srcOk b
  | .vfma t d a b | .vfms t d a b | .vfnma t d a b => t.toNat ≤ 2 && dstRead d && srcOk a && srcOk b
  | .vabs t d a | .vneg t d a | .vrecip t d a | .vrsqrt t d a | .vsqrt t d a | .vexp2 t d a | .vlog2 t d a =>
      t.toNat ≤ 2 && dstOk d && srcOk a
  | .vaddI _ d a b | .vsubI _ d a b | .vmulI _ d a b => dstOk d && srcOk a && srcOk b
  | .vmulh _ d a b | .vminI _ d a b | .vmaxI _ d a b => dstOk d && srcOk a && srcOk b
  | .vand d a b | .vor d a b | .vxor d a b | .vshl d a b | .vshr d a b | .vsra d a b
  | .vperm d a b | .vscale d a b => dstOk d && srcOk a && srcOk b
  | .vcmpEq t _ a b | .vcmpNe t _ a b | .vcmpLt t _ a b | .vcmpLe t _ a b => t.toNat ≤ 2 && srcOk a && srcOk b
  | .vsel d a _ => dstRead d && srcOk a
  | .vmov d a | .vrot d a _ | .vcvtNt6Unpack d a | .vcvtNt6Pack d a | .vexpoNt8 d a | .vexpoNt6 d a => dstOk d && srcOk a
  | .vbcast d _ | .vins d _ _ | .vpackP d _ => dstOk d
  | .vlane _ a _ | .vunpackP _ a => srcOk a
  | .vredsum t d a | .vredmax t d a | .vredmin t d a | .vscan t d a => t.toNat ≤ 2 && dstOk d && srcOk a
  | .vcvt x y d a => cvtPair x y && dstOk d && srcOk a
  | .wload _ f _ => matFmt f
  | .mrunMac _ f b c | .mrunAdm _ f b c | .mrunMax _ f b c | .mrunMin _ f b c => matFmt f && rowsOk b c
  | .accclr b c | .accscale _ b c => rowsOk b c
  | .vgath _ _ _ s | .vscat _ _ _ s => s.toNat ≤ 2
  | .pcfg w p _ | .prst w p | .prstU w p | .padv w p _ _ => portOk w p
  | .hset _ _ f => hsetField f
  | .xcopy _ _ _ _ ken out _ | .xgath _ _ _ _ ken out _ | .xscat _ _ _ _ ken out _ => !out || ken
  | .xfill _ _ _ ken out _ _ | .xcoll _ _ _ _ ken out => !out || ken
  | .kinc _ g l | .kset _ g l | .kwaitLt _ g l | .kwaitGe _ g l => litOk l g
  | .amoAdd _ _ s _ _ _ | .amoAnd _ _ s _ _ _ | .amoOr _ _ s _ _ _ | .amoXor _ _ s _ _ _ | .amoSwap _ _ s _ _ _ => scopeOk s
  | .amoMin _ _ s _ _ _ _ | .amoMax _ _ s _ _ _ _ | .amoCas _ _ _ s _ _ _ => scopeOk s
  | .vamoAdd _ _ s _ _ _ | .vamoAnd _ _ s _ _ _ | .vamoOr _ _ s _ _ _ | .vamoXor _ _ s _ _ _ | .vamoSwap _ _ s _ _ _
  | .vamoCas _ _ s _ _ _ => scopeOk s
  | .vamoMin _ _ s _ _ _ _ | .vamoMax _ _ s _ _ _ _ => scopeOk s
  | .fence s _ _ => scopeOk s
  | .preg _ _ m => m.toNat ≤ 2
  | .tdep _ _ _ s | .tdepPark _ _ _ s | .tcopy _ _ _ s | .tcopyPark _ _ _ s | .ttake _ _ _ s | .ttakePark _ _ _ s => scopeOk s
  | _ => true

end Sys2Proof
end

