-- ==== Sys2Proof/Decode.lean ====
section
/-! DEFINITION. Slot words to instructions and back (R96 to R106). A word is scoped to its slot class; in every class a word
that the map does not assign is rejected by name. `encode` is written from the same tables. -/

namespace Sys2Proof

/-- The slot classes of a bundle (R9, R86). V and W share one map (R100). `H` is the bundle head (an empty bundle, R89). -/
inductive Slot where
  | C | A | V | M | L | X | Y | H
  deriving DecidableEq, Repr

/-- Why a word is no instruction (the scan reasons 0x01, 0x02 and 0x04 of R108): the lowest-numbered one that it breaks. -/
inductive Reject where
  | unassigned
  | reserved
  | operand
  deriving DecidableEq, Repr

/-! ## Formats -/

/-- Format CB (R97). -/
def fmtCB (op : BitVec 8) (w : BitVec 24) : Lane := w ++ op
/-- Format CC (R97). -/
def fmtCC (op : BitVec 8) (g : BitVec 5) (w : BitVec 19) : Lane := w ++ g ++ op
/-- Format CL (R97). -/
def fmtCL (op : BitVec 8) (c : BitVec 13) (e : BitVec 11) : Lane := e ++ c ++ op
/-- Formats CR and CP (R97): g or lc, then a stage. -/
def fmtCP (op : BitVec 8) (g : BitVec 5) (st : BitVec 3) : Lane := (0#16 ++ st) ++ g ++ op
/-- Format CT (R97). -/
def fmtCT (op : BitVec 8) (c : BitVec 16) : Lane := 0#8 ++ c ++ op
/-- Format AR (R98). -/
def fmtAR (op : BitVec 8) (d a b : BitVec 5) (sat : Bool) (w : BitVec 2) (c : BitVec 5) : Lane :=
  0#1 ++ c ++ w ++ BitVec.ofBool sat ++ b ++ a ++ d ++ op
/-- Format AI (R98). -/
def fmtAI (op : BitVec 8) (d a : BitVec 5) (i : BitVec 14) : Lane := i ++ a ++ d ++ op
/-- The V and W format (R100). -/
def fmtV (op : BitVec 8) (d a b : BitVec 8) : Lane := b ++ a ++ d ++ op
/-- The M format (R102). -/
def fmtM (op : BitVec 8) (p : BitVec 3) (f : BitVec 5) (b : BitVec 10) (c : BitVec 6) : Lane := c ++ b ++ f ++ p ++ op
/-- The L format (R103). -/
def fmtL (op : BitVec 8) (b : BitVec 5) (d : BitVec 6) (o : BitVec 13) : Lane := o ++ d ++ b ++ op
/-- The X format (R104). -/
def fmtX (op : BitVec 8) (s d : BitVec 4) (k g : BitVec 5) (fl : BitVec 6) : Lane := fl ++ g ++ k ++ d ++ s ++ op
/-- The Y format (R105). -/
def fmtY (op : BitVec 8) (a v c : BitVec 5) (s : BitVec 3) (fl : BitVec 6) : Lane := fl ++ s ++ c ++ v ++ a ++ op

/-- Three flag bits below three zero bits: the flags of an engine card (R191). -/
def cardFlags (ken out ord : Bool) : BitVec 6 := 0#3 ++ BitVec.ofBool ord ++ BitVec.ofBool out ++ BitVec.ofBool ken
/-- The flags of an atomic (R215). -/
def amoFlags (dw z rel acq : Bool) : BitVec 6 := 0#2 ++ BitVec.ofBool acq ++ BitVec.ofBool rel ++ BitVec.ofBool z ++ BitVec.ofBool dw
/-- The flags of a vector atomic (R215). -/
def vamoFlags (v5 : BitVec 1) (idx z rel acq : Bool) : BitVec 6 :=
  v5 ++ BitVec.ofBool idx ++ BitVec.ofBool acq ++ BitVec.ofBool rel ++ BitVec.ofBool z ++ 0#1
/-- The top bit of a six-bit index, which stands in flag bit [31] (R105). -/
def top6 (v : BitVec 6) : BitVec 1 := v.extractLsb' 5 1
/-- The low five bits of a six-bit index. -/
def low6 (v : BitVec 6) : BitVec 5 := v.extractLsb' 0 5
/-- The flag field that carries only bit 5 of an index. -/
def idxFlags (v : BitVec 6) : BitVec 6 := top6 v ++ 0#5

/-! ## The slot and the word of an instruction -/

/-- The slot class and the word of an instruction; `none` for an event, which has no encoding. -/
def encode : Instr → Option (Slot × Lane)
  | .br w => some (.C, fmtCB 0x01 w)
  | .call w => some (.C, fmtCB 0x02 w)
  | .bz g w => some (.C, fmtCC 0x08 g w)
  | .bnz g w => some (.C, fmtCC 0x09 g w)
  | .blt g w => some (.C, fmtCC 0x0A g w)
  | .bge g w => some (.C, fmtCC 0x0B g w)
  | .bpany p w => some (.C, fmtCC 0x0C (0#1 ++ p) w)
  | .bpall p w => some (.C, fmtCC 0x0D (0#1 ++ p) w)
  | .callr g => some (.C, fmtCP 0x10 g 0)
  | .jr g => some (.C, fmtCP 0x11 g 0)
  | .ret => some (.C, fmtCP 0x12 0 0)
  | .loop n g w => some (.C, fmtCC (0x08#6 ++ n) g w)
  | .loopi n c e => some (.C, fmtCL (0x09#6 ++ n) c e)
  | .lbrk n => some (.C, fmtCP 0x28 (0#3 ++ n) 0)
  | .endt => some (.C, fmtCP 0x30 0 0)
  | .endtPost g st => some (.C, fmtCP 0x31 g st)
  | .post g st => some (.C, fmtCP 0x32 g st)
  | .trap c => some (.C, fmtCT 0x38 c)
  | .sysc c => some (.C, fmtCT 0x39 c)
  | .emptyBundle p l s => some (.H, 0#20 ++ BitVec.ofBool p ++ BitVec.ofBool l ++ 0#1 ++ BitVec.ofBool s ++ 0#8)
  | .add d a b w s => some (.A, fmtAR 0x01 d a b s w 0)
  | .sub d a b w s => some (.A, fmtAR 0x02 d a b s w 0)
  | .mul d a b w s => some (.A, fmtAR 0x03 d a b s w 0)
  | .mulh d a b w => some (.A, fmtAR 0x04 d a b false w 0)
  | .mulhz d a b w => some (.A, fmtAR 0x05 d a b false w 0)
  | .divs d a b w s => some (.A, fmtAR 0x06 d a b s w 0)
  | .rems d a b w => some (.A, fmtAR 0x07 d a b false w 0)
  | .remz d a b w => some (.A, fmtAR 0x08 d a b false w 0)
  | .and d a b => some (.A, fmtAR 0x09 d a b false 0 0)
  | .or d a b => some (.A, fmtAR 0x0A d a b false 0 0)
  | .xor d a b => some (.A, fmtAR 0x0B d a b false 0 0)
  | .andn d a b => some (.A, fmtAR 0x0C d a b false 0 0)
  | .shl d a b w => some (.A, fmtAR 0x0D d a b false w 0)
  | .shr d a b w => some (.A, fmtAR 0x0E d a b false w 0)
  | .sra d a b w => some (.A, fmtAR 0x0F d a b false w 0)
  | .rotl d a b w => some (.A, fmtAR 0x10 d a b false w 0)
  | .min d a b w => some (.A, fmtAR 0x11 d a b false w 0)
  | .max d a b w => some (.A, fmtAR 0x12 d a b false w 0)
  | .minz d a b w => some (.A, fmtAR 0x13 d a b false w 0)
  | .maxz d a b w => some (.A, fmtAR 0x14 d a b false w 0)
  | .slt d a b w => some (.A, fmtAR 0x15 d a b false w 0)
  | .sltz d a b w => some (.A, fmtAR 0x16 d a b false w 0)
  | .seq d a b w => some (.A, fmtAR 0x17 d a b false w 0)
  | .sel d a b c => some (.A, fmtAR 0x18 d a b false 0 c)
  | .clz d a w => some (.A, fmtAR 0x19 d a 0 false w 0)
  | .ctz d a w => some (.A, fmtAR 0x1A d a 0 false w 0)
  | .popc d a w => some (.A, fmtAR 0x1B d a 0 false w 0)
  | .divz d a b w => some (.A, fmtAR 0x1C d a b false w 0)
  | .addi d a i => some (.A, fmtAI 0x40 d a i)
  | .andi d a i => some (.A, fmtAI 0x41 d a i)
  | .ori d a i => some (.A, fmtAI 0x42 d a i)
  | .xori d a i => some (.A, fmtAI 0x43 d a i)
  | .shli d a h => some (.A, fmtAI 0x44 d a (0#8 ++ h))
  | .shri d a h => some (.A, fmtAI 0x45 d a (0#8 ++ h))
  | .srai d a h => some (.A, fmtAI 0x46 d a (0#8 ++ h))
  | .li d i => some (.A, fmtAI 0x47 d 0 i)
  | .lih d a i => some (.A, fmtAI 0x48 d a i)
  | .bext d a p l => some (.A, fmtAI 0x49 d a (0#2 ++ l ++ p))
  | .bins d a p l => some (.A, fmtAI 0x4A d a (0#2 ++ l ++ p))
  | .csrr d n => some (.A, fmtAI 0x4B d 0 (0#2 ++ n))
  | .csrw a n => some (.A, fmtAI 0x4C 0 a (0#2 ++ n))
  | .csrrsW d a n => some (.A, fmtAI 0xF0 d a (0#2 ++ n))
  | .csrrsS d a n => some (.A, fmtAI 0xF0 d a (1#2 ++ n))
  | .csrrsC d a n => some (.A, fmtAI 0xF0 d a (2#2 ++ n))
  | .tret => some (.A, fmtAR 0xF1 0 0 0 false 0 0)
  | .tinv d a b => some (.A, fmtAR 0xF2 d a b false 0 0)
  | .asidinv d a => some (.A, fmtAR 0xF3 d a 0 false 0 0)
  | .ctxsave d a b => some (.A, fmtAR 0xF4 d a b false 0 0)
  | .ctxrest d a b => some (.A, fmtAR 0xF5 d a b false 0 0)
  | .scrub d a => some (.A, fmtAR 0xF6 d a 0 false 0 0)
  | .keyld d a b => some (.A, fmtAR 0xF7 d a b false 0 0)
  | .gsw d a => some (.A, fmtAR 0xF8 d a 0 false 0 0)
  | .segmap d a => some (.A, fmtAR 0xF9 d a 0 false 0 0)
  | .wfe d => some (.A, fmtAR 0xFA d 0 0 false 0 0)
  | .mret => some (.A, fmtAR 0xFB 0 0 0 false 0 0)
  | .vaddF t d a b => some (.V, fmtV (0x01#6 ++ t) d a b)
  | .vsubF t d a b => some (.V, fmtV (0x02#6 ++ t) d a b)
  | .vmulF t d a b => some (.V, fmtV (0x03#6 ++ t) d a b)
  | .vfma t d a b => some (.V, fmtV (0x04#6 ++ t) d a b)
  | .vfms t d a b => some (.V, fmtV (0x05#6 ++ t) d a b)
  | .vfnma t d a b => some (.V, fmtV (0x06#6 ++ t) d a b)
  | .vmaxF t d a b => some (.V, fmtV (0x07#6 ++ t) d a b)
  | .vminF t d a b => some (.V, fmtV (0x08#6 ++ t) d a b)
  | .vabs t d a => some (.V, fmtV (0x09#6 ++ t) d a 0)
  | .vneg t d a => some (.V, fmtV (0x0A#6 ++ t) d a 0)
  | .vrecip t d a => some (.V, fmtV (0x0B#6 ++ t) d a 0)
  | .vrsqrt t d a => some (.V, fmtV (0x0C#6 ++ t) d a 0)
  | .vsqrt t d a => some (.V, fmtV (0x0D#6 ++ t) d a 0)
  | .vexp2 t d a => some (.V, fmtV (0x0E#6 ++ t) d a 0)
  | .vlog2 t d a => some (.V, fmtV (0x0F#6 ++ t) d a 0)
  | .vaddI t d a b => some (.V, fmtV (0x10#6 ++ t) d a b)
  | .vsubI t d a b => some (.V, fmtV (0x11#6 ++ t) d a b)
  | .vmulI t d a b => some (.V, fmtV (0x12#6 ++ t) d a b)
  | .vmulh t d a b => some (.V, fmtV (0x26#7 ++ t) d a b)
  | .vminI t d a b => some (.V, fmtV (0x28#7 ++ t) d a b)
  | .vmaxI t d a b => some (.V, fmtV (0x2A#7 ++ t) d a b)
  | .vand d a b => some (.V, fmtV 0x58 d a b)
  | .vor d a b => some (.V, fmtV 0x5C d a b)
  | .vxor d a b => some (.V, fmtV 0x60 d a b)
  | .vshl d a b => some (.V, fmtV 0x64 d a b)
  | .vshr d a b => some (.V, fmtV 0x68 d a b)
  | .vsra d a b => some (.V, fmtV 0x6C d a b)
  | .vcmpEq t d a b => some (.V, fmtV (0x1C#6 ++ t) (0#4 ++ d) a b)
  | .vcmpNe t d a b => some (.V, fmtV (0x1D#6 ++ t) (0#4 ++ d) a b)
  | .vcmpLt t d a b => some (.V, fmtV (0x1E#6 ++ t) (0#4 ++ d) a b)
  | .vcmpLe t d a b => some (.V, fmtV (0x1F#6 ++ t) (0#4 ++ d) a b)
  | .vsel d a p => some (.V, fmtV 0x80 d a (0#4 ++ p))
  | .vmov d a => some (.V, fmtV 0x84 d a 0)
  | .vbcast d g => some (.V, fmtV 0x88 d (0#3 ++ g) 0)
  | .vlane d a b => some (.V, fmtV 0x8C (0#3 ++ d) a (0#3 ++ b))
  | .vins d a b => some (.V, fmtV 0x90 d (0#3 ++ a) (0#3 ++ b))
  | .vperm d a b => some (.V, fmtV 0x94 d a b)
  | .vrot d a b => some (.V, fmtV 0x98 d a (0#3 ++ b))
  | .vredsum t d a => some (.V, fmtV (0x28#6 ++ t) d a 0)
  | .vredmax t d a => some (.V, fmtV (0x29#6 ++ t) d a 0)
  | .vredmin t d a => some (.V, fmtV (0x2A#6 ++ t) d a 0)
  | .vscan t d a => some (.V, fmtV (0x2B#6 ++ t) d a 0)
  | .vcvt x y d a => some (.V, fmtV 0xB0 d a (x ++ y))
  | .vcvtNt6Unpack d a => some (.V, fmtV 0xB0 d a 0x0C)
  | .vcvtNt6Pack d a => some (.V, fmtV 0xB0 d a 0xC0)
  | .vscale d a b => some (.V, fmtV 0xB4 d a b)
  | .vexpoNt8 d a => some (.V, fmtV 0xB8 d a 0x0B)
  | .vexpoNt6 d a => some (.V, fmtV 0xB8 d a 0x0C)
  | .pand d a b => some (.V, fmtV 0xC0 (0#4 ++ d) (0#4 ++ a) (0#4 ++ b))
  | .por d a b => some (.V, fmtV 0xC4 (0#4 ++ d) (0#4 ++ a) (0#4 ++ b))
  | .pxor d a b => some (.V, fmtV 0xC8 (0#4 ++ d) (0#4 ++ a) (0#4 ++ b))
  | .pnot d a => some (.V, fmtV 0xCC (0#4 ++ d) (0#4 ++ a) 0)
  | .pmov d a => some (.V, fmtV 0xD0 (0#4 ++ d) (0#4 ++ a) 0)
  | .vpackP d hi => some (.V, fmtV 0xD4 d (0#4 ++ BitVec.ofBool hi ++ 0#3) 0)
  | .vunpackP hi a => some (.V, fmtV 0xD8 (0#4 ++ BitVec.ofBool hi ++ 0#3) a 0)
  | .pcount d a => some (.V, fmtV 0xDC (0#3 ++ d) (0#4 ++ a) 0)
  | .wload p f c => some (.M, fmtM 0x01 p f 0 c)
  | .wswap => some (.M, fmtM 0x02 0 0 0 0)
  | .mrunMac p f b c => some (.M, fmtM 0x10 p f b c)
  | .mrunAdm p f b c => some (.M, fmtM 0x11 p f b c)
  | .mrunMax p f b c => some (.M, fmtM 0x12 p f b c)
  | .mrunMin p f b c => some (.M, fmtM 0x13 p f b c)
  | .accclr b c => some (.M, fmtM 0x20 0 0 b c)
  | .accscale p b c => some (.M, fmtM 0x21 p 0x0A b c)
  | .ldS8 d b o => some (.L, fmtL 0x01 b (0#1 ++ d) o)
  | .ldS16 d b o => some (.L, fmtL 0x02 b (0#1 ++ d) o)
  | .ldS32 d b o => some (.L, fmtL 0x03 b (0#1 ++ d) o)
  | .ldS64 d b o => some (.L, fmtL 0x04 b (0#1 ++ d) o)
  | .ldZ8 d b o => some (.L, fmtL 0x05 b (0#1 ++ d) o)
  | .ldZ16 d b o => some (.L, fmtL 0x06 b (0#1 ++ d) o)
  | .ldZ32 d b o => some (.L, fmtL 0x07 b (0#1 ++ d) o)
  | .st8 d b o => some (.L, fmtL 0x09 b (0#1 ++ d) o)
  | .st16 d b o => some (.L, fmtL 0x0A b (0#1 ++ d) o)
  | .st32 d b o => some (.L, fmtL 0x0B b (0#1 ++ d) o)
  | .st64 d b o => some (.L, fmtL 0x0C b (0#1 ++ d) o)
  | .vld v b o => some (.L, fmtL 0x10 b v o)
  | .vldc v b o => some (.L, fmtL 0x11 b v o)
  | .vst v b o => some (.L, fmtL 0x12 b v o)
  | .vstc v b o => some (.L, fmtL 0x13 b v o)
  | .vgath v b i s => some (.L, fmtL 0x14 b v (0#5 ++ s ++ i))
  | .vscat v b i s => some (.L, fmtL 0x15 b v (0#5 ++ s ++ i))
  | .accrd v b o hi => some (.L, fmtL 0x18 b v (BitVec.ofBool hi ++ o))
  | .accwr v b o hi => some (.L, fmtL 0x19 b v (BitVec.ofBool hi ++ o))
  | .pcfg w p h => some (.L, fmtL 0x20 (0#1 ++ h) (0#2 ++ BitVec.ofBool w ++ p) 0)
  | .prst w p => some (.L, fmtL 0x21 0 (0#2 ++ BitVec.ofBool w ++ p) 0)
  | .prstU w p => some (.L, fmtL 0x21 0 (0#2 ++ BitVec.ofBool w ++ p) 1)
  | .padv w p g n => some (.L, fmtL 0x22 g (0#2 ++ BitVec.ofBool w ++ p) n)
  | .hld h b o => some (.L, fmtL 0x23 b (0#2 ++ h) o)
  | .hset h g f => some (.L, fmtL 0x24 g (0#2 ++ h) (0#7 ++ f))
  | .hst h b o => some (.L, fmtL 0x25 b (0#2 ++ h) o)
  | .pref b o => some (.L, fmtL 0x26 b 0 o)
  | .lea d b o => some (.L, fmtL 0x27 b (0#1 ++ d) o)
  | .xcopy s d k g ken out ord => some (.X, fmtX 0x01 s d k g (cardFlags ken out ord))
  | .xgath s d k g ken out ord => some (.X, fmtX 0x02 s d k g (cardFlags ken out ord))
  | .xscat s d k g ken out ord => some (.X, fmtX 0x03 s d k g (cardFlags ken out ord))
  | .xfill d k g ken out ord lit =>
      some (.X, fmtX 0x04 0 d k g (BitVec.ofBool lit ++ 0#2 ++ BitVec.ofBool ord ++ BitVec.ofBool out ++ BitVec.ofBool ken))
  | .kinc k g lit => some (.X, fmtX 0x10 0 0 k g (BitVec.ofBool lit ++ 0#5))
  | .kset k g lit => some (.X, fmtX 0x11 0 0 k g (BitVec.ofBool lit ++ 0#5))
  | .kwaitLt k g lit => some (.X, fmtX 0x12 0 0 k g (BitVec.ofBool lit ++ 0#5))
  | .kwaitGe k g lit => some (.X, fmtX 0x13 0 0 k g (BitVec.ofBool lit ++ 0#5))
  | .xcoll s d k g ken out => some (.X, fmtX 0x20 s d k g (cardFlags ken out false))
  | .xtrig g => some (.X, fmtX 0x21 0 0 0 g 0)
  | .xabort g => some (.X, fmtX 0x22 0 0 0 g 0)
  | .mtins k g t => some (.X, fmtX 0x30 0 0 k g t)
  | .mtdel k g t => some (.X, fmtX 0x31 0 0 k g t)
  | .mtrd k g t => some (.X, fmtX 0x32 0 0 k g t)
  | .mtregAdd k g t tgt => some (.X, fmtX 0x33 0 (0#3 ++ BitVec.ofBool tgt) k g t)
  | .mtregMax k g t tgt => some (.X, fmtX 0x33 1 (0#3 ++ BitVec.ofBool tgt) k g t)
  | .mtregMin k g t tgt => some (.X, fmtX 0x33 2 (0#3 ++ BitVec.ofBool tgt) k g t)
  | .mtregCas k g t tgt => some (.X, fmtX 0x33 3 (0#3 ++ BitVec.ofBool tgt) k g t)
  | .mtregRead k g t tgt => some (.X, fmtX 0x33 4 (0#3 ++ BitVec.ofBool tgt) k g t)
  | .xsync => some (.X, fmtX 0x3F 0 0 0 0 0)
  | .amoAdd a v s dw r q => some (.Y, fmtY 0x01 a v 0 s (amoFlags dw false r q))
  | .amoMin a v s dw z r q => some (.Y, fmtY 0x02 a v 0 s (amoFlags dw z r q))
  | .amoMax a v s dw z r q => some (.Y, fmtY 0x03 a v 0 s (amoFlags dw z r q))
  | .amoAnd a v s dw r q => some (.Y, fmtY 0x04 a v 0 s (amoFlags dw false r q))
  | .amoOr a v s dw r q => some (.Y, fmtY 0x05 a v 0 s (amoFlags dw false r q))
  | .amoXor a v s dw r q => some (.Y, fmtY 0x06 a v 0 s (amoFlags dw false r q))
  | .amoSwap a v s dw r q => some (.Y, fmtY 0x07 a v 0 s (amoFlags dw false r q))
  | .amoCas a v c s dw r q => some (.Y, fmtY 0x08 a v c s (amoFlags dw false r q))
  | .vamoAdd a v s r q ix => some (.Y, fmtY 0x09 a (low6 v) 0 s (vamoFlags (top6 v) ix false r q))
  | .vamoMin a v s z r q ix => some (.Y, fmtY 0x0A a (low6 v) 0 s (vamoFlags (top6 v) ix z r q))
  | .vamoMax a v s z r q ix => some (.Y, fmtY 0x0B a (low6 v) 0 s (vamoFlags (top6 v) ix z r q))
  | .vamoAnd a v s r q ix => some (.Y, fmtY 0x0C a (low6 v) 0 s (vamoFlags (top6 v) ix false r q))
  | .vamoOr a v s r q ix => some (.Y, fmtY 0x0D a (low6 v) 0 s (vamoFlags (top6 v) ix false r q))
  | .vamoXor a v s r q ix => some (.Y, fmtY 0x0E a (low6 v) 0 s (vamoFlags (top6 v) ix false r q))
  | .vamoSwap a v s r q ix => some (.Y, fmtY 0x0F a (low6 v) 0 s (vamoFlags (top6 v) ix false r q))
  | .vamoCas a v s r q ix => some (.Y, fmtY 0x10 a (low6 v) 0 s (vamoFlags (top6 v) ix false r q))
  | .fence s wb inv => some (.Y, fmtY 0x11 0 0 0 s (0#4 ++ BitVec.ofBool inv ++ BitVec.ofBool wb))
  | .bind a l b => some (.Y, fmtY 0x12 a (low6 b) l 0 (idxFlags b))
  | .unbind a => some (.Y, fmtY 0x13 a 0 0 0 0)
  | .preg p b m => some (.Y, fmtY 0x18 p (low6 b) 0 0 (top6 b ++ 0#3 ++ m))
  | .pdrop b => some (.Y, fmtY 0x19 0 (low6 b) 0 0 (idxFlags b))
  | .psig b => some (.Y, fmtY 0x1A 0 (low6 b) 0 0 (idxFlags b))
  | .pwait t b => some (.Y, fmtY 0x1B t (low6 b) 0 0 (idxFlags b))
  | .psw b => some (.Y, fmtY 0x1C 0 (low6 b) 0 0 (idxFlags b))
  | .pquery d b => some (.Y, fmtY 0x1D d (low6 b) 0 0 (idxFlags b))
  | .pqueryPhase d b => some (.Y, fmtY 0x1D d (low6 b) 0 0 (top6 b ++ 1#5))
  | .waita a v d => some (.Y, fmtY 0x20 a v d 0 0)
  | .tdep a v m s => some (.Y, fmtY 0x28 a (low6 v) m s (idxFlags v))
  | .tdepPark a v m s => some (.Y, fmtY 0x29 a (low6 v) m s (idxFlags v))
  | .tcopy a v m s => some (.Y, fmtY 0x2A a (low6 v) m s (idxFlags v))
  | .tcopyPark a v m s => some (.Y, fmtY 0x2B a (low6 v) m s (idxFlags v))
  | .ttake a v m s => some (.Y, fmtY 0x2C a (low6 v) m s (idxFlags v))
  | .ttakePark a v m s => some (.Y, fmtY 0x2D a (low6 v) m s (idxFlags v))
  | _ => none

/-! ## Decoding, one slot class at a time -/

/-- Accept an instruction when the fields it leaves unused are zero (R96). -/
def whenZero (unused : Bool) (i : Instr) : Except Reject Instr := if unused then .ok i else .error .reserved

/-- Accept an instruction when its V/W operand bytes are of their kinds: a g or p byte with bits above its index, or an unused byte that is
not zero, is of the wrong kind (R134; DEDUCED, log 73). -/
def whenKind (kinds : Bool) (i : Instr) : Except Reject Instr := if kinds then .ok i else .error .operand
/-- Accept a form of three types: the fourth type selector is unassigned (R101, R138). -/
def whenType (t : BitVec 2) (e : Except Reject Instr) : Except Reject Instr := if t == 3 then .error .unassigned else e

/-- The single-bit field at `n`. -/
def flagAt (w : Lane) (n : Nat) : Bool := w.getLsbD n

/-- C slot (R97). -/
def decodeC (w : Lane) : Except Reject Instr :=
  let g : BitVec 5 := w.extractLsb' 8 5
  let p : BitVec 4 := w.extractLsb' 8 4
  let n : BitVec 2 := w.extractLsb' 0 2
  let w19 : BitVec 19 := w.extractLsb' 13 19
  let z13 : Bool := w.extractLsb' 13 19 == 0#19
  let z12 : Bool := w.extractLsb' 12 1 == 0#1
  match (w.extractLsb' 0 8).toNat with
  | 0x01 => .ok (.br (w.extractLsb' 8 24))
  | 0x02 => .ok (.call (w.extractLsb' 8 24))
  | 0x08 => .ok (.bz g w19)
  | 0x09 => .ok (.bnz g w19)
  | 0x0A => .ok (.blt g w19)
  | 0x0B => .ok (.bge g w19)
  | 0x0C => whenZero z12 (.bpany p w19)
  | 0x0D => whenZero z12 (.bpall p w19)
  | 0x10 => whenZero z13 (.callr g)
  | 0x11 => whenZero z13 (.jr g)
  | 0x12 => whenZero (w.extractLsb' 8 24 == 0#24) .ret
  | 0x20 | 0x21 | 0x22 | 0x23 => .ok (.loop n g w19)
  | 0x24 | 0x25 | 0x26 | 0x27 => .ok (.loopi n (w.extractLsb' 8 13) (w.extractLsb' 21 11))
  | 0x28 => whenZero (w.extractLsb' 10 22 == 0#22) (.lbrk (w.extractLsb' 8 2))
  | 0x30 => whenZero (w.extractLsb' 8 24 == 0#24) .endt
  | 0x31 => whenZero (w.extractLsb' 16 16 == 0#16) (.endtPost g (w.extractLsb' 13 3))
  | 0x32 => whenZero (w.extractLsb' 16 16 == 0#16) (.post g (w.extractLsb' 13 3))
  | 0x38 => whenZero (w.extractLsb' 24 8 == 0#8) (.trap (w.extractLsb' 8 16))
  | 0x39 => whenZero (w.extractLsb' 24 8 == 0#8) (.sysc (w.extractLsb' 8 16))
  | _ => .error .unassigned

/-- A slot (R98, R99, R106). -/
def decodeA (x : Lane) : Except Reject Instr :=
  let d : BitVec 5 := x.extractLsb' 8 5
  let a : BitVec 5 := x.extractLsb' 13 5
  let b : BitVec 5 := x.extractLsb' 18 5
  let s : Bool := flagAt x 23
  let w : BitVec 2 := x.extractLsb' 24 2
  let c : BitVec 5 := x.extractLsb' 26 5
  let i : BitVec 14 := x.extractLsb' 18 14
  let h : BitVec 6 := x.extractLsb' 18 6
  let n : BitVec 12 := x.extractLsb' 18 12
  let z26 : Bool := x.extractLsb' 26 6 == 0#6          -- c and bit 31
  let zw : Bool := z26 && !s                            -- no saturation
  let zf : Bool := x.extractLsb' 23 9 == 0#9            -- whole function field
  let zi : Bool := x.extractLsb' 24 8 == 0#8
  let z30 : Bool := x.extractLsb' 30 2 == 0#2
  let zb : Bool := b == 0
  let za : Bool := a == 0
  let zd : Bool := d == 0
  match (x.extractLsb' 0 8).toNat with
  | 0x01 => whenZero z26 (.add d a b w s)
  | 0x02 => whenZero z26 (.sub d a b w s)
  | 0x03 => whenZero z26 (.mul d a b w s)
  | 0x04 => whenZero zw (.mulh d a b w)
  | 0x05 => whenZero zw (.mulhz d a b w)
  | 0x06 => whenZero z26 (.divs d a b w s)
  | 0x07 => whenZero zw (.rems d a b w)
  | 0x08 => whenZero zw (.remz d a b w)
  | 0x09 => whenZero zf (.and d a b)
  | 0x0A => whenZero zf (.or d a b)
  | 0x0B => whenZero zf (.xor d a b)
  | 0x0C => whenZero zf (.andn d a b)
  | 0x0D => whenZero zw (.shl d a b w)
  | 0x0E => whenZero zw (.shr d a b w)
  | 0x0F => whenZero zw (.sra d a b w)
  | 0x10 => whenZero zw (.rotl d a b w)
  | 0x11 => whenZero zw (.min d a b w)
  | 0x12 => whenZero zw (.max d a b w)
  | 0x13 => whenZero zw (.minz d a b w)
  | 0x14 => whenZero zw (.maxz d a b w)
  | 0x15 => whenZero zw (.slt d a b w)
  | 0x16 => whenZero zw (.sltz d a b w)
  | 0x17 => whenZero zw (.seq d a b w)
  | 0x18 => whenZero (x.extractLsb' 23 3 == 0#3 && !flagAt x 31) (.sel d a b c)
  | 0x19 => whenZero (zw && zb) (.clz d a w)
  | 0x1A => whenZero (zw && zb) (.ctz d a w)
  | 0x1B => whenZero (zw && zb) (.popc d a w)
  | 0x1C => whenZero zw (.divz d a b w)
  | 0x40 => .ok (.addi d a i)
  | 0x41 => .ok (.andi d a i)
  | 0x42 => .ok (.ori d a i)
  | 0x43 => .ok (.xori d a i)
  | 0x44 => whenZero zi (.shli d a h)
  | 0x45 => whenZero zi (.shri d a h)
  | 0x46 => whenZero zi (.srai d a h)
  | 0x47 => whenZero za (.li d i)
  | 0x48 => .ok (.lih d a i)
  | 0x49 => whenZero z30 (.bext d a h (x.extractLsb' 24 6))
  | 0x4A => whenZero z30 (.bins d a h (x.extractLsb' 24 6))
  | 0x4B => whenZero (z30 && za) (.csrr d n)
  | 0x4C => whenZero (z30 && zd) (.csrw a n)
  | 0xF0 =>
    match (x.extractLsb' 30 2).toNat with
    | 0 => .ok (.csrrsW d a n)
    | 1 => .ok (.csrrsS d a n)
    | 2 => .ok (.csrrsC d a n)
    | _ => .error .operand
  | 0xF1 => whenZero (x.extractLsb' 8 24 == 0#24) .tret
  | 0xF2 => whenZero zf (.tinv d a b)
  | 0xF3 => whenZero (zf && zb) (.asidinv d a)
  | 0xF4 => whenZero zf (.ctxsave d a b)
  | 0xF5 => whenZero zf (.ctxrest d a b)
  | 0xF6 => whenZero (zf && zb) (.scrub d a)
  | 0xF7 => whenZero zf (.keyld d a b)
  | 0xF8 => whenZero (zf && zb) (.gsw d a)
  | 0xF9 => whenZero (zf && zb) (.segmap d a)
  | 0xFA => whenZero (zf && zb && za) (.wfe d)
  | 0xFB => whenZero (x.extractLsb' 8 24 == 0#24) .mret
  | _ => .error .unassigned

/-- V and W slots (R100, R101, R138). -/
def decodeV (x : Lane) : Except Reject Instr :=
  let t : BitVec 2 := x.extractLsb' 0 2
  let t1 : BitVec 1 := x.extractLsb' 0 1
  let d : BitVec 8 := x.extractLsb' 8 8
  let a : BitVec 8 := x.extractLsb' 16 8
  let b : BitVec 8 := x.extractLsb' 24 8
  let dp : BitVec 4 := x.extractLsb' 8 4
  let ap : BitVec 4 := x.extractLsb' 16 4
  let bp : BitVec 4 := x.extractLsb' 24 4
  let dg : BitVec 5 := x.extractLsb' 8 5
  let ag : BitVec 5 := x.extractLsb' 16 5
  let bg : BitVec 5 := x.extractLsb' 24 5
  let zb : Bool := b == 0
  let zdp : Bool := x.extractLsb' 12 4 == 0#4
  let zap : Bool := x.extractLsb' 20 4 == 0#4
  let zbp : Bool := x.extractLsb' 28 4 == 0#4
  let zdg : Bool := x.extractLsb' 13 3 == 0#3
  let zag : Bool := x.extractLsb' 21 3 == 0#3
  let zbg : Bool := x.extractLsb' 29 3 == 0#3
  match (x.extractLsb' 2 6).toNat with
  | 0x01 => whenType t (.ok (.vaddF t d a b))
  | 0x02 => whenType t (.ok (.vsubF t d a b))
  | 0x03 => whenType t (.ok (.vmulF t d a b))
  | 0x04 => whenType t (.ok (.vfma t d a b))
  | 0x05 => whenType t (.ok (.vfms t d a b))
  | 0x06 => whenType t (.ok (.vfnma t d a b))
  | 0x07 => whenType t (.ok (.vmaxF t d a b))
  | 0x08 => whenType t (.ok (.vminF t d a b))
  | 0x09 => whenType t (whenKind zb (.vabs t d a))
  | 0x0A => whenType t (whenKind zb (.vneg t d a))
  | 0x0B => whenType t (whenKind zb (.vrecip t d a))
  | 0x0C => whenType t (whenKind zb (.vrsqrt t d a))
  | 0x0D => whenType t (whenKind zb (.vsqrt t d a))
  | 0x0E => whenType t (whenKind zb (.vexp2 t d a))
  | 0x0F => whenType t (whenKind zb (.vlog2 t d a))
  | 0x10 => .ok (.vaddI t d a b)
  | 0x11 => .ok (.vsubI t d a b)
  | 0x12 => .ok (.vmulI t d a b)
  | 0x13 => if flagAt x 1 then .error .unassigned else .ok (.vmulh t1 d a b)
  | 0x14 => if flagAt x 1 then .error .unassigned else .ok (.vminI t1 d a b)
  | 0x15 => if flagAt x 1 then .error .unassigned else .ok (.vmaxI t1 d a b)
  | 0x16 => if t == 0 then .ok (.vand d a b) else .error .unassigned
  | 0x17 => if t == 0 then .ok (.vor d a b) else .error .unassigned
  | 0x18 => if t == 0 then .ok (.vxor d a b) else .error .unassigned
  | 0x19 => if t == 0 then .ok (.vshl d a b) else .error .unassigned
  | 0x1A => if t == 0 then .ok (.vshr d a b) else .error .unassigned
  | 0x1B => if t == 0 then .ok (.vsra d a b) else .error .unassigned
  | 0x1C => whenType t (whenKind zdp (.vcmpEq t dp a b))
  | 0x1D => whenType t (whenKind zdp (.vcmpNe t dp a b))
  | 0x1E => whenType t (whenKind zdp (.vcmpLt t dp a b))
  | 0x1F => whenType t (whenKind zdp (.vcmpLe t dp a b))
  | 0x20 => if t == 0 then whenKind zbp (.vsel d a bp) else .error .unassigned
  | 0x21 => if t == 0 then whenKind zb (.vmov d a) else .error .unassigned
  | 0x22 => if t == 0 then whenKind (zb && zag) (.vbcast d ag) else .error .unassigned
  | 0x23 => if t == 0 then whenKind (zdg && zbg) (.vlane dg a bg) else .error .unassigned
  | 0x24 => if t == 0 then whenKind (zag && zbg) (.vins d ag bg) else .error .unassigned
  | 0x25 => if t == 0 then .ok (.vperm d a b) else .error .unassigned
  | 0x26 => if t == 0 then whenKind zbg (.vrot d a bg) else .error .unassigned
  | 0x28 => whenType t (whenKind zb (.vredsum t d a))
  | 0x29 => whenType t (whenKind zb (.vredmax t d a))
  | 0x2A => whenType t (whenKind zb (.vredmin t d a))
  | 0x2B => whenType t (whenKind zb (.vscan t d a))
  | 0x2C => if t == 0 then
      (if b == 0x0C then .ok (.vcvtNt6Unpack d a) else if b == 0xC0 then .ok (.vcvtNt6Pack d a)
       else if cvtPair (x.extractLsb' 28 4) bp then .ok (.vcvt (x.extractLsb' 28 4) bp d a) else .error .unassigned) else .error .unassigned
  | 0x2D => if t == 0 then .ok (.vscale d a b) else .error .unassigned
  | 0x2E => if t == 0 then
      (if b == 0x0B then .ok (.vexpoNt8 d a) else if b == 0x0C then .ok (.vexpoNt6 d a) else .error .operand)
      else .error .unassigned
  | 0x30 => if t == 0 then whenKind (zdp && zap && zbp) (.pand dp ap bp) else .error .unassigned
  | 0x31 => if t == 0 then whenKind (zdp && zap && zbp) (.por dp ap bp) else .error .unassigned
  | 0x32 => if t == 0 then whenKind (zdp && zap && zbp) (.pxor dp ap bp) else .error .unassigned
  | 0x33 => if t == 0 then whenKind (zdp && zap && zb) (.pnot dp ap) else .error .unassigned
  | 0x34 => if t == 0 then whenKind (zdp && zap && zb) (.pmov dp ap) else .error .unassigned
  | 0x35 => if t == 0 then (if x.extractLsb' 16 3 == 0#3 then whenKind (zap && zb) (.vpackP d (flagAt x 19)) else .error .operand) else .error .unassigned
  | 0x36 => if t == 0 then (if x.extractLsb' 8 3 == 0#3 then whenKind (zdp && zb) (.vunpackP (flagAt x 11) a) else .error .operand) else .error .unassigned
  | 0x37 => if t == 0 then whenKind (zdg && zap && zb) (.pcount dg ap) else .error .unassigned
  | _ => .error .unassigned

/-- M slot (R102). -/
def decodeM (x : Lane) : Except Reject Instr :=
  let p : BitVec 3 := x.extractLsb' 8 3
  let f : BitVec 5 := x.extractLsb' 11 5
  let b : BitVec 10 := x.extractLsb' 16 10
  let c : BitVec 6 := x.extractLsb' 26 6
  match (x.extractLsb' 0 8).toNat with
  | 0x01 => whenZero (b == 0) (.wload p f c)
  | 0x02 => if p == 0 && b == 0 && c == 0 then whenKind (f == 0) .wswap else .error .reserved
  | 0x10 => .ok (.mrunMac p f b c)
  | 0x11 => .ok (.mrunAdm p f b c)
  | 0x12 => .ok (.mrunMax p f b c)
  | 0x13 => .ok (.mrunMin p f b c)
  | 0x20 => if p == 0 then whenKind (f == 0) (.accclr b c) else .error .reserved
  | 0x21 => if f == 0x0A then .ok (.accscale p b c) else .error .operand
  | _ => .error .unassigned

/-- L slot (R103, R171). -/
def decodeL (x : Lane) : Except Reject Instr :=
  let b : BitVec 5 := x.extractLsb' 8 5
  let d : BitVec 5 := x.extractLsb' 13 5
  let v : BitVec 6 := x.extractLsb' 13 6
  let o : BitVec 13 := x.extractLsb' 19 13
  let h : BitVec 4 := x.extractLsb' 13 4
  let pt : BitVec 3 := x.extractLsb' 13 3
  let wr : Bool := flagAt x 16
  let z18 : Bool := x.extractLsb' 18 1 == 0#1
  let z17 : Bool := x.extractLsb' 17 2 == 0#2
  match (x.extractLsb' 0 8).toNat with
  | 0x01 => whenZero z18 (.ldS8 d b o)
  | 0x02 => whenZero z18 (.ldS16 d b o)
  | 0x03 => whenZero z18 (.ldS32 d b o)
  | 0x04 => whenZero z18 (.ldS64 d b o)
  | 0x05 => whenZero z18 (.ldZ8 d b o)
  | 0x06 => whenZero z18 (.ldZ16 d b o)
  | 0x07 => whenZero z18 (.ldZ32 d b o)
  | 0x09 => whenZero z18 (.st8 d b o)
  | 0x0A => whenZero z18 (.st16 d b o)
  | 0x0B => whenZero z18 (.st32 d b o)
  | 0x0C => whenZero z18 (.st64 d b o)
  | 0x10 => .ok (.vld v b o)
  | 0x11 => .ok (.vldc v b o)
  | 0x12 => .ok (.vst v b o)
  | 0x13 => .ok (.vstc v b o)
  | 0x14 => whenZero (x.extractLsb' 27 5 == 0#5) (.vgath v b (x.extractLsb' 19 6) (x.extractLsb' 25 2))
  | 0x15 => whenZero (x.extractLsb' 27 5 == 0#5) (.vscat v b (x.extractLsb' 19 6) (x.extractLsb' 25 2))
  | 0x18 => .ok (.accrd v b (x.extractLsb' 19 12) (flagAt x 31))
  | 0x19 => .ok (.accwr v b (x.extractLsb' 19 12) (flagAt x 31))
  | 0x20 => whenZero (o == 0 && z17 && !flagAt x 12) (.pcfg wr pt (x.extractLsb' 8 4))
  | 0x21 => if o == 1 then whenZero (z17 && b == 0) (.prstU wr pt) else whenZero (o == 0 && z17 && b == 0) (.prst wr pt)
  | 0x22 => whenZero z17 (.padv wr pt b o)
  | 0x23 => whenZero z17 (.hld h b o)
  | 0x24 => whenZero (z17 && x.extractLsb' 25 7 == 0#7) (.hset h b (x.extractLsb' 19 6))
  | 0x25 => whenZero z17 (.hst h b o)
  | 0x26 => whenZero (v == 0) (.pref b o)
  | 0x27 => whenZero z18 (.lea d b o)
  | _ => .error .unassigned

/-- X slot (R104, R191). -/
def decodeX (x : Lane) : Except Reject Instr :=
  let s : BitVec 4 := x.extractLsb' 8 4
  let d : BitVec 4 := x.extractLsb' 12 4
  let k : BitVec 5 := x.extractLsb' 16 5
  let g : BitVec 5 := x.extractLsb' 21 5
  let t : BitVec 6 := x.extractLsb' 26 6
  let ken : Bool := flagAt x 26
  let out : Bool := flagAt x 27
  let ord : Bool := flagAt x 28
  let lit : Bool := flagAt x 31
  let zcard : Bool := x.extractLsb' 29 3 == 0#3
  let zlit : Bool := x.extractLsb' 26 5 == 0#5 && s == 0 && d == 0
  let zsd : Bool := s == 0 && d == 0
  match (x.extractLsb' 0 8).toNat with
  | 0x01 => whenZero zcard (.xcopy s d k g ken out ord)
  | 0x02 => whenZero zcard (.xgath s d k g ken out ord)
  | 0x03 => whenZero zcard (.xscat s d k g ken out ord)
  | 0x04 => whenZero (x.extractLsb' 29 2 == 0#2 && s == 0) (.xfill d k g ken out ord lit)
  | 0x10 => whenZero (zlit && litOk lit g) (.kinc k g lit)
  | 0x11 => whenZero (zlit && litOk lit g) (.kset k g lit)
  | 0x12 => whenZero (zlit && litOk lit g) (.kwaitLt k g lit)
  | 0x13 => whenZero (zlit && litOk lit g) (.kwaitGe k g lit)
  | 0x20 => whenZero (x.extractLsb' 28 4 == 0#4) (.xcoll s d k g ken out)
  | 0x21 => whenZero (zsd && k == 0 && t == 0) (.xtrig g)
  | 0x22 => whenZero (zsd && k == 0 && t == 0) (.xabort g)
  | 0x30 => whenZero zsd (.mtins k g t)
  | 0x31 => whenZero zsd (.mtdel k g t)
  | 0x32 => whenZero zsd (.mtrd k g t)
  | 0x33 =>
    if x.extractLsb' 13 3 == 0#3 then
      match s.toNat with
      | 0 => .ok (.mtregAdd k g t (flagAt x 12))
      | 1 => .ok (.mtregMax k g t (flagAt x 12))
      | 2 => .ok (.mtregMin k g t (flagAt x 12))
      | 3 => .ok (.mtregCas k g t (flagAt x 12))
      | 4 => .ok (.mtregRead k g t (flagAt x 12))
      | _ => .error .operand
    else .error .operand
  | 0x3F => whenZero (x.extractLsb' 8 24 == 0#24) .xsync
  | _ => .error .unassigned

/-- Y slot (R105, R215). -/
def decodeY (x : Lane) : Except Reject Instr :=
  let a : BitVec 5 := x.extractLsb' 8 5
  let v : BitVec 5 := x.extractLsb' 13 5
  let c : BitVec 5 := x.extractLsb' 18 5
  let s : BitVec 3 := x.extractLsb' 23 3
  let v6 : BitVec 6 := x.extractLsb' 31 1 ++ v
  let dw : Bool := flagAt x 26
  let z : Bool := flagAt x 27
  let r : Bool := flagAt x 28
  let q : Bool := flagAt x 29
  let ix : Bool := flagAt x 30
  let zc : Bool := c == 0
  let zs : Bool := s == 0
  let zv : Bool := v == 0
  let za : Bool := a == 0
  let zamo : Bool := zc && x.extractLsb' 30 2 == 0#2
  let zfl : Bool := x.extractLsb' 26 5 == 0#5                  -- flags below bit 31
  let noZ (e : Except Reject Instr) : Except Reject Instr := match e with
    | .ok i => if z then .error .operand else .ok i
    | .error r => .error r
  match (x.extractLsb' 0 8).toNat with
  | 0x01 => noZ (whenZero zamo (.amoAdd a v s dw r q))
  | 0x02 => whenZero zamo (.amoMin a v s dw z r q)
  | 0x03 => whenZero zamo (.amoMax a v s dw z r q)
  | 0x04 => noZ (whenZero zamo (.amoAnd a v s dw r q))
  | 0x05 => noZ (whenZero zamo (.amoOr a v s dw r q))
  | 0x06 => noZ (whenZero zamo (.amoXor a v s dw r q))
  | 0x07 => noZ (whenZero zamo (.amoSwap a v s dw r q))
  | 0x08 => noZ (whenZero (x.extractLsb' 30 2 == 0#2) (.amoCas a v c s dw r q))
  | 0x09 => noZ (whenZero (zc && !dw) (.vamoAdd a v6 s r q ix))
  | 0x0A => whenZero (zc && !dw) (.vamoMin a v6 s z r q ix)
  | 0x0B => whenZero (zc && !dw) (.vamoMax a v6 s z r q ix)
  | 0x0C => noZ (whenZero (zc && !dw) (.vamoAnd a v6 s r q ix))
  | 0x0D => noZ (whenZero (zc && !dw) (.vamoOr a v6 s r q ix))
  | 0x0E => noZ (whenZero (zc && !dw) (.vamoXor a v6 s r q ix))
  | 0x0F => noZ (whenZero (zc && !dw) (.vamoSwap a v6 s r q ix))
  | 0x10 => noZ (whenZero (zc && !dw) (.vamoCas a v6 s r q ix))
  | 0x11 => whenZero (zc && zv && za && x.extractLsb' 28 4 == 0#4) (.fence s dw z)
  | 0x12 => whenZero (zs && zfl) (.bind a c v6)
  | 0x13 => whenZero (x.extractLsb' 13 19 == 0#19) (.unbind a)
  | 0x18 => whenZero (zs && zc && x.extractLsb' 28 3 == 0#3) (.preg a v6 (x.extractLsb' 26 2))
  | 0x19 => whenZero (zs && zc && za && zfl) (.pdrop v6)
  | 0x1A => whenZero (zs && zc && za && zfl) (.psig v6)
  | 0x1B => whenZero (zs && zc && zfl) (.pwait a v6)
  | 0x1C => whenZero (zs && zc && za && zfl) (.psw v6)
  | 0x1D => if dw then whenZero (zs && zc && x.extractLsb' 27 4 == 0#4) (.pqueryPhase a v6)
            else whenZero (zs && zc && x.extractLsb' 27 4 == 0#4) (.pquery a v6)
  | 0x20 => whenZero (x.extractLsb' 23 9 == 0#9) (.waita a v c)
  | 0x28 => whenZero zfl (.tdep a v6 c s)
  | 0x29 => whenZero zfl (.tdepPark a v6 c s)
  | 0x2A => whenZero zfl (.tcopy a v6 c s)
  | 0x2B => whenZero zfl (.tcopyPark a v6 c s)
  | 0x2C => whenZero zfl (.ttake a v6 c s)
  | 0x2D => whenZero zfl (.ttakePark a v6 c s)
  | _ => .error .unassigned

/-- An empty bundle's head (R86, R89). -/
def decodeH (x : Lane) : Except Reject Instr :=
  if x.extractLsb' 0 8 == 0#8 then
    whenZero (x.extractLsb' 12 20 == 0#20 && !flagAt x 9) (.emptyBundle (flagAt x 11) (flagAt x 10) (flagAt x 8))
  else .error .unassigned

/-- The instruction that a slot word stands for, or why it is none (R107). -/
def decodeSlot (c : Slot) (x : Lane) : Except Reject Instr :=
  let r := match c with
    | .C => decodeC x
    | .A => decodeA x
    | .V => decodeV x
    | .M => decodeM x
    | .L => decodeL x
    | .X => decodeX x
    | .Y => decodeY x
    | .H => decodeH x
  match r with
  | .ok i => if i.wf then .ok i else .error .operand
  | .error e => .error e

/-- A monitor-level instruction (R106). -/
def Instr.monitorOnly : Instr → Bool
  | .csrrsW .. | .csrrsS .. | .csrrsC .. | .tret | .tinv .. | .asidinv .. | .ctxsave .. | .ctxrest .. | .scrub .. | .keyld ..
  | .gsw .. | .segmap .. | .wfe .. | .mret => true
  | _ => false

/-- The classes a bare slot word is tried in when nothing says which slot it stands in (DESIGN CHOICE, log 3). -/
def slotOrder : List Slot := [.H, .A, .V, .Y, .L, .X, .C, .M]

/-- The first class of `slotOrder` in which the word is an instruction. -/
def decodeAny (x : Lane) : List Slot → Option (Slot × Instr)
  | [] => none
  | c :: cs =>
    match decodeSlot c x with
    | .ok i => some (c, i)
    | .error _ => decodeAny x cs

/-- The instruction that a word of the opcode table stands for (DESIGN CHOICE, log 3: a word alone does not name its slot class). -/
def decodeTableWord (nbits w : Nat) : Option Instr :=
  if nbits = 32 then (decodeAny (BitVec.ofNat 32 w) slotOrder).map (·.2) else none

end Sys2Proof
end

