-- ==== Sys2Proof/Machine/Map.lean ====
section
/-! DEFINITION. A sparse collection by key: a list of key and value pairs. An unlisted key reads as a value the reader names. -/

namespace Sys2Proof.Machine

/-- Pairs of key and value; keys rise when the collection is built by `put` and `set` alone. -/
abbrev SMap (α : Type) := List (Nat × α)

/-- The value at a key, or `d` where the key is not listed. -/
def SMap.get {α : Type} (d : α) : SMap α → Nat → α
  | [], _ => d
  | (a, b) :: t, k => if a = k then b else SMap.get d t k

/-- Whether a key is listed. -/
def SMap.has {α : Type} (m : SMap α) (k : Nat) : Bool := m.any (fun c => c.1 == k)

/-- The collection with `v` listed at `k`. -/
def SMap.put {α : Type} : SMap α → Nat → α → SMap α
  | [], k, v => [(k, v)]
  | (a, b) :: t, k, v =>
    if k < a then (k, v) :: (a, b) :: t
    else if k = a then (k, v) :: t
    else (a, b) :: SMap.put t k v

/-- The collection with nothing listed at `k`. -/
def SMap.del {α : Type} : SMap α → Nat → SMap α
  | [], _ => []
  | (a, b) :: t, k => if a = k then SMap.del t k else (a, b) :: SMap.del t k

/-- The collection that reads `v` at `k`, kept free of entries that equal the unlisted value `d`. -/
def SMap.set {α : Type} [DecidableEq α] (d : α) (m : SMap α) (k : Nat) (v : α) : SMap α :=
  if v = d then SMap.del m k else SMap.put m k v

/-- Keys rise strictly from above `lo` and no entry equals `d`. -/
def SMap.okFrom {α : Type} [DecidableEq α] (d : α) : Option Nat → SMap α → Bool
  | _, [] => true
  | lo, (a, b) :: t => (match lo with | none => true | some l => decide (l < a)) && decide (b ≠ d) && SMap.okFrom d (some a) t

/-- The canonical form: keys rise strictly and no entry equals the unlisted value. -/
def SMap.ok {α : Type} [DecidableEq α] (d : α) (m : SMap α) : Bool := SMap.okFrom d none m

/-- Apply a function to the value at a key (taking `d` where the key is not listed). -/
def SMap.upd {α : Type} (d : α) (m : SMap α) (k : Nat) (f : α → α) : SMap α := SMap.put m k (f (SMap.get d m k))

end Sys2Proof.Machine
end

