-- ==== Sys2Proof/Machine/State.lean ====
section
/-! DEFINITION. The state of the machine: a domain of up to 32 modules, each of eight dies (R8). Every field is plain data. -/

namespace Sys2Proof.Machine

/-! ## Contexts -/

/-- A shape record (R55). -/
structure Shape where
  w0 : Word := 0
  w1 : Word := 0
  w2 : Word := 0
  w3 : Word := 0
  w4 : Word := 0
  w5 : Word := 0
  w6 : Word := 0
  w7 : Word := 0
  deriving DecidableEq, Repr

/-- A port (R57): its private shape, its bound and exhausted bits (R61), and the number of rows it has passed. The
counters c0 to c3 of R57 are the digits of `pos` in the extents. -/
structure Port where
  shape : Shape := {}
  bound : Bool := false
  exh : Bool := false
  pos : Nat := 0
  deriving DecidableEq, Repr

/-- A loop frame (R119): the counter it belongs to, the start and the end address. -/
structure Frame where
  lc : Nat
  start : Word
  last : Word
  deriving DecidableEq, Repr

/-- A binding-table entry (R225). -/
structure Bind where
  base : Word
  len : Word
  h : Nat
  deriving DecidableEq, Repr

/-- The registers of a context that a task sees (R22, R48 to R50, R55, R57, R60, R119, R225). `ports` holds q0 to q7 at 0 to 7
and o0 to o3 at 8 to 11; `frames` lists the active loop frames, latest first. -/
structure Regs where
  g : SMap Word := []
  p : SMap Word := []
  k : SMap (BitVec 32) := []
  lc : SMap Nat := []
  frames : List Frame := []
  h : SMap Shape := []
  ports : SMap Port := []
  binds : List Bind := []
  pc : Word := 0
  tileCoord : Word := 0
  taskId : Word := 0
  jobId : Word := 0
  slim : Word := 0
  bankKey : Word := 0
  aflags : Word := 0
  faultInfo : Word := 0
  coreX : Word := 0               -- what a monitor write to CORE_ID changed (R313)
  cycX : Word := 0                -- what a monitor write to CYCLE changed (R313)
  deriving DecidableEq, Repr

/-- The system registers of a context (R313) and its scratchpad bounds (R373). -/
structure Sys where
  level : BitVec 2 := 0
  tvec : Word := 0
  tscratch : Word := 0
  trec : Word := 0
  tpol : Word := 0
  asid : Word := 0
  ptroot : Word := 0
  specdisc : Word := 0
  mepc : Word := 0
  mcause : Word := 0
  splo : Nat := 0
  sphi : Nat := 0
  deriving DecidableEq, Repr

/-- A row or lanes that a slot pushes (R58): the write port, the lanes and the lanes enabled. -/
structure Push where
  port : Nat
  lanes : List Lane
  mask : Word
  deriving DecidableEq, Repr

/-- What answers a request that left the core: read data or an old value, a refusal (NACK reason, R383), the status and
tuple of a Drift request (R234), a Drift fault kind (R314, group 0x0B), the status and value of a request to a sync engine (R227); `defer` leaves the
register of a remote load pending (R359). -/
inductive Resp where
  | data (bytes : List Byte)
  | nack (reason : Nat)
  | drift (status : Nat) (tuple : List Word)
  | defer
  | driftFault (kind : Nat)
  | sync (status : Nat) (value : Word)
  deriving DecidableEq, Repr

/-- A task record (R27): its words, its number (R47), the user-queue packet that made it (R32), and, for a resume record
(R44, R408), the save slot and the context number it needs. -/
structure TaskRec where
  coord : Word := 0
  argp : Word := 0
  home : Word := 0
  job : Nat := 0
  flow : Nat := 0
  orig : Nat := 0
  stg : Nat := 0
  inl : List Word := []
  tid : Nat := 0
  pkt : Option (Nat × Nat) := none
  resume : Option (Nat × Nat × Nat) := none
  sup : Bool := false               -- a supervisor record (R347)
  deriving DecidableEq, Repr

/-- The issue latches of a bundle (R6, R316, R318): its words, the registers and the vector file as they stood before it, the
rows it takes, and how far it has come. `lat` serves the A to M slots, `sync` the C, X and Y slots (they differ after
`tret`, R321). -/
structure Iss where
  live : Bool := false
  born : Word := 0                  -- the cycle in which it issued (R131)
  baddr : Word := 0
  head : Lane := 0
  words : List Lane := []
  lit : Lane := 0
  cmask : BitVec 8 := 0
  slot : Nat := 0
  guard : Word := 0
  lat : Regs := {}
  sync : Regs := {}
  latV : SMap Lane := []
  syncV : SMap Lane := []
  rows : SMap (List Byte) := []
  takes : SMap Nat := []
  mrows : List (List Byte × List Byte) := []
  push : List Push := []
  trapped : Bool := false
  wait : Bool := false
  xfer : Bool := false
  ended : Bool := false
  sent : Bool := false
  target : Option (BitVec 16) := none      -- the phase a `psw` that has signalled waits for (R229)
  phase : Option Nat := none        -- the phaser its wait stands at (R227)
  sy : Nat := 0                     -- its request to the sync engine of another die: 1 asks, 2 acts, 3 waits (R218)
  lmask : Word := 0
  acks : Nat := 0                   -- the lines of a remote store that its targets take (R172)
  att : Bool := false
  req : Option (Nat × Nat × Nat) := none
  resp : Option Resp := none
  skip : Bool := false              -- a loop of count zero has moved the pc past its body (R119)
  blocked : Option (Nat × Nat) := none     -- blocked posting: stage and cluster (R40)
  posting : Option (Nat × TaskRec) := none -- a post that has made its checks: the cluster and the record it writes (R124)
  postDone : Bool := false          -- its record is written (R124)
  amoOld : Option Nat := none       -- the old value of an atomic that has taken effect and whose acquire waits (R220)
  rcd : List Byte := []             -- the record a reissued bundle takes its latches from (R321)
  deriving DecidableEq, Repr

/-- What the dispatcher keeps of the task a context runs: its flow, stage and stage facts (R25, R26), its record, the order
of its grant (R44). -/
structure Task where
  job : Nat := 0
  flow : Nat := 0
  stg : Nat := 0
  vb : Bool := false
  acb : Nat := 0
  acn : Nat := 0
  fprio : Nat := 0
  pre : Bool := false
  part : Nat := 0
  grantNo : Nat := 0
  hostLaunch : Bool := false
  trc : TaskRec := {}
  deriving DecidableEq, Repr

/-- Whether a context is free, granted but not yet sequenced (R18), reserved for a 64-register grant (R39), running, stopped at a
forwarded fault (R316), or held out by Squall (R353). -/
inductive Run where
  | free | granted | reserving | running | stopped | held
  deriving DecidableEq, Repr

/-- A fault due at the boundary before the next bundle (R198, R295, R361): cause, address, AUX, SLOT. -/
structure BFault where
  cause : Nat
  addr : Word
  aux : Word
  slot : Nat := 6
  deriving DecidableEq, Repr

/-- A pending register (R359): the destination die, channel and sequence number of its request, the bytes of the reply it
takes, the register, and the VA of the load. -/
structure Pend where
  dst : Nat
  vc : Nat
  seq : Nat
  off : Nat
  len : Nat
  signed : Bool
  g : Nat
  va : Word := 0
  own : List (Nat × Byte) := []     -- bytes of the line that the core had written before
  deriving DecidableEq, Repr

/-- A task context (R22). -/
structure Ctx where
  r : Regs := {}
  y : Sys := {}
  run : Run := .free
  t : Task := {}
  held : Option Iss := none
  pend : List Pend := []
  bfaults : List BFault := []
  ticket : BitVec 32 := 0
  jobsDone : List (Nat × Nat × Nat) := []   -- completed jobs: counter (32: none), write footprint (R201)
  off : Bool := false               -- the pc is the sequential successor of a section's last bundle (R109)
  deriving DecidableEq, Repr

/-! ## Cores -/

/-- A weight latch (R159): format, valid, and for each column the raw row and its scale bytes (R75). -/
structure Latch where
  fmt : Nat := 0
  valid : Bool := false
  cols : List (List Byte × List Byte) := []
  deriving DecidableEq, Repr

/-- What an M-slot instruction in the array queue does (R165 to R169). Rows were taken at issue (R161). -/
inductive ArrOp where
  | wload (latch fmt : Nat) (rows : List (List Byte × List Byte))
  | wswap (on : Bool)
  | mrun (kind fmt base latch : Nat) (rows : List (List Byte × List Byte))
  | accclr (base count : Nat)
  | accscale (base count : Nat) (row : List Byte × List Byte)
  deriving DecidableEq, Repr

/-- An entry of the array queue (R170): the issuing context and the operation. -/
structure ArrJob where
  ctx : Nat
  op : ArrOp
  deriving DecidableEq, Repr

/-- A data-cache line (R238): the location of its first byte, the slots and VAs it was reached under (R335), its job, its bytes and
which of them are valid and dirty; and the spans of VAs that an acquire covered since it was made, by slot, lowest and highest byte: the line is
stale for an access that first reaches it by one of them (R246). -/
structure Line where
  loc : Nat
  tags : List (Nat × Nat)
  job : Nat
  bytes : List Byte
  valid : Word
  dirty : Word
  spans : List (Nat × Nat × Nat) := []
  deriving DecidableEq, Repr

/-- A translation (R326 to R334): what an address reaches. `base` is a home key, or the fabric offset for a remote window,
or a window offset for a multicast window. -/
inductive Rc where
  | scratch | cluster | ordinary | remote | mcast | drift | mmio
  deriving DecidableEq, Repr

/-- A TLB entry (R336): slot, page, region class, target and permissions. `aux` holds the die and `rkey` the key of a remote
window, or the home die and region of a Drift page, or the communicator of a multicast window. -/
structure Tlb where
  asid : Nat
  page : Nat
  bits : Nat
  rc : Rc
  base : Nat
  aux : Nat
  rkey : Nat
  r : Bool
  w : Bool
  x : Bool
  ml : Bool
  deriving DecidableEq, Repr

/-- An engine card (R193 to R200): the task that issued it, the snapshot of its shapes, its progress and its completion. -/
inductive CardOp where
  | copy | gath | scat | fill
  deriving DecidableEq, Repr

structure Card where
  id : Nat
  ctx : Nat
  tid : Nat
  job : Nat
  asid : Nat
  ptroot : Word
  splo : Nat
  sphi : Nat
  slim : Word
  taskLevel : Bool
  op : CardOp
  src : Shape
  dst : Shape
  idx : Shape
  fill : Word
  ken : Bool
  out : Bool
  ord : Bool
  k : Nat
  cw : Option Word
  ticket : BitVec 32
  started : Bool := false
  pos : Nat := 0
  rec_ : Nat := 0                   -- the record an index names (R196)
  failed : Option (Nat × Word) := none
  waiting : Option (Nat × Nat × Nat) := none     -- the read request it waits on
  data : List Byte := []            -- source bytes that a remote read brought
  words : List (Nat × Nat × Byte) := []     -- bytes moved but not yet written: location, VA, byte (R240)
  stuck : Bool := false             -- it waits on a poisoned table entry (R341)
  deriving DecidableEq, Repr

/-- A verified 512-byte block of the instruction cache (R372). -/
structure IBlock where
  asid : Nat
  va : Nat
  bytes : List Byte
  deriving DecidableEq, Repr

/-- A core (R9, R22). -/
structure Core where
  c0 : Ctx := {}
  c1 : Ctx := {}
  vfile : SMap Lane := []
  acc : SMap Lane := []
  latch0 : Latch := {}
  latch1 : Latch := {}
  active : Bool := false            -- the latch that is active under a 64-register budget (R159)
  queue : List ArrJob := []
  dcache : List Line := []
  icache : List IBlock := []
  tlb : List Tlb := []
  handles : SMap Word := []
  cards : List Card := []
  cardNo : Nat := 0
  last : Nat := 1                   -- the context that issued last (R24)
  evt : Word := 0
  evtmask : Word := 0
  evtarea : Word := 0
  idleSince : Word := 0
  tenant : Option Nat := none       -- the job whose tasks ran on the core since its last scrub (R348)
  keyed : Option Nat := none        -- the job whose bank key was loaded since then (R349)
  deriving DecidableEq, Repr

/-! ## Clusters -/

/-- A write in a buffer on its way to its home (R237), one unit of R240: its location and bytes, the core whose write it is, its job and
the VA it was made at. -/
structure BufW where
  loc : Nat
  bytes : List Byte
  core : Nat
  job : Nat
  va : Nat := 0
  deriving DecidableEq, Repr

/-- Power states of a cluster (R401). -/
inductive Power where
  | p0 | p1 | p2
  deriving DecidableEq, Repr

/-- A cluster: its buffer (R237), the walker's table entries by address (R337), its power state, the cycle at which it
was entered, the MiB that go into retention, the MiB re-encoded when a wake began, whether an event waits for it, and the cycle at which the
exit ends (R401 to R404). -/
structure Cluster where
  buffer : List BufW := []
  walker : List (Nat × Nat × Word) := []
  power : Power := .p0
  since : Word := 0
  size : Nat := 0
  due : Bool := false
  mib : Nat := 0
  waking : Bool := false
  ready : Word := 0
  deriving DecidableEq, Repr

/-! ## Dies -/

/-- A stage of a flow as mapped on a die (R26), with its Starve count (R38). -/
structure Stage where
  acn : Nat
  acb : Nat
  sprio : Nat
  stk : Nat
  acz : Bool
  vb : Bool
  entry : Word
  cap : Nat
  starve : Nat := 0
  deriving DecidableEq, Repr

/-- A flow as mapped on a die (R25). -/
structure Flow where
  job : Nat
  flow : Nat
  fprio : Nat
  pre : Bool
  stages : List Stage
  deriving DecidableEq, Repr

/-- A sub-queue (R27): capacity in records, chunks grown into it (R42), its records, head first. -/
structure SubQ where
  job : Nat
  flow : Nat
  stg : Nat
  cl : Nat
  cap : Nat
  grown : Nat := 0
  recs : List TaskRec := []
  wrote : Option (Word × Nat) := none       -- the cycle in which a record entered last, and its place in the order of R28
  deriving DecidableEq, Repr

/-- A partition descriptor (R342) with its save-area word (R407). -/
structure Part where
  w0 : Word := 0
  w1 : Word := 0
  w2 : Word := 0
  w3 : Word := 0
  save : Word := 0
  pool : Nat := 0
  used : List Nat := []             -- save slots in use (R407)
  deriving DecidableEq, Repr

/-- The overflow area of a job (R345): its records, each with the cluster of its sub-queue, LOSTREC, and the losses not yet
reported (first flow and stage, count). -/
structure Overflow where
  recs : List (Nat × TaskRec) := []
  lostrec : BitVec 32 := 0
  unreported : Option (Nat × Nat × Nat) := none
  deriving DecidableEq, Repr

/-- A packet of a user queue that is not yet complete (R31, R32): index, words, tasks created, whether it is consumed, its
clusters, tasks ended. -/
structure LivePkt where
  idx : Nat
  pkt : List Word
  tasks : Nat
  consumed : Bool
  cls : List Nat := []
  done : Nat := 0
  stale : Bool := false             -- it is read again when its queue goes on after a halt (R29)
  gone : Bool := false              -- a write of UQ_RIDX has left it behind: only a BAR packet still waits for its tasks (R31)
  deriving DecidableEq, Repr

/-- A user queue (R29, R31): its registers, its job with the slot and table it is read under, its page's owner partition, the packets
that are not yet complete. -/
structure UserQ where
  base : Word := 0
  size : Word := 0
  widx : Word := 0
  ridx : Word := 0
  status : Word := 0
  job : Nat := 0
  asid : Nat := 0
  ptroot : Word := 0
  owner : Nat := 0
  live : List LivePkt := []
  got : Option (List Byte) := none          -- the packet at RIDX as read (R31)
  req : Option (Nat × Nat × Nat) := none    -- the request that reads it from a remote window
  refused : Bool := false                   -- that request was refused
  deriving DecidableEq, Repr

/-- A mapped program segment (R370 to R373): job, level, the VA of its body, its code sections with the head map (R114) and
block tags (R371), and its scratchpad bounds. -/
structure Section where
  va : Nat
  size : Nat
  heads : List Nat
  tags : SMap (BitVec 64)
  deriving DecidableEq, Repr

structure Segment where
  job : Nat
  monitor : Bool
  va : Nat
  size : Nat
  splo : Nat
  sphi : Nat
  mapno : BitVec 32
  segid : Word
  code : List Section
  deriving DecidableEq, Repr

/-- A phaser member (R227): the core and handle that registered it, its mode and member phase. -/
structure Member where
  core : Nat
  h : Nat
  mode : Nat
  m : BitVec 16
  owed : Option (Nat × BitVec 16) := none   -- the task whose withdrawn `psw` has signalled, and its target (R229)
  deriving DecidableEq, Repr

/-- A wait at a phaser (R227, R229): the context, its target, whether a phase has met it, and the SEQ of the request that another die made for
it. -/
structure PWait where
  core : Nat
  ctx : Nat
  target : BitVec 16
  met : Bool := false
  fseq : Option Nat := none
  deriving DecidableEq, Repr

/-- A phaser object (R227): its scope instance, job, phase, members and waits. `obj` is the OBJ of its name. -/
structure Phaser where
  obj : Nat
  scope : Nat
  job : Nat
  p : BitVec 16 := 0
  members : List Member := []
  waits : List PWait := []
  deriving DecidableEq, Repr

/-- A request at a memory-slice engine (R233, R283): kind 0 copy, 1 take, 2 deposit. -/
structure DReq where
  kind : Nat
  park : Bool
  rgn : Nat
  job : Nat
  tuple : List Word
  mode : Nat
  core : Nat
  ctx : Nat
  scope : Nat
  fseq : Nat := 0
  pnum : BitVec 32 := 0
  deriving DecidableEq, Repr

/-- A stored Drift tuple (R280). -/
structure Tuple where
  rgn : Nat
  words : List Word
  age : Nat
  deriving DecidableEq, Repr

/-- A memory-slice engine (R277 to R287): inbox, stored tuples, next age, parked entries, next park number, replies to send. -/
structure Slice where
  inbox : List DReq := []
  tuples : List Tuple := []
  age : Nat := 0
  parked : List DReq := []
  pnum : BitVec 32 := 0
  outbox : List (DReq × Resp) := []
  deriving DecidableEq, Repr

/-- A predicate record (R205). -/
structure Pred where
  nn : Nat := 0
  nl : Nat := 0
  nodes : List (Bool × Nat × Nat) := []
  leaves : List (Nat × Int) := []
  act : Nat := 0
  add : BitVec 32 := 0
  kt : Nat := 0
  cl : Nat := 0
  deriving DecidableEq, Repr

/-- The counters a predicate or a completion names (R207): those of a task, which its die, job and TASK_ID tell (R47), or a detached set. -/
inductive KSet where
  | task (die job tid : Nat)
  | detached (die i : Nat)
  | none
  deriving DecidableEq, Repr

/-- An armed trigger (R209): its counters, the job and TASK_ID that armed it, its predicate and record, and, once its predicate has held, the
order in which it did (R206). -/
structure Trigger where
  ks : KSet
  owner : Nat × Nat
  pred : Pred
  trc : TaskRec
  fired : Option Nat := none
  deriving DecidableEq, Repr

/-- A detached counter set (R207): the counters of an ended task, or of a pre-empted one that takes them back (`back`). -/
structure DetSet where
  k : SMap (BitVec 32) := []
  job : Nat := 0
  tid : Nat := 0
  back : Bool := false
  used : Bool := false
  bfaults : List BFault := []       -- faults due to the task when it is resumed (R198)
  aflags : Word := 0                -- flags due to it then (R84)
  deriving DecidableEq, Repr

/-- The state of a collective work entry (R291 to R299). -/
inductive CPhase where
  | queued | started | aborted | failed
  deriving DecidableEq, Repr

/-- A collective work entry on a queue pair (R208, R291): its posting number, who posted it and under which translation, its shapes
predicate and fields; then how far it has come: the next source element, what has been read but not sent, the chunks that are final, its
status. -/
structure CEntry where
  no : Nat
  core : Nat
  ctx : Nat
  tid : Nat
  job : Nat
  asid : Nat
  ptroot : Word
  splo : Nat
  sphi : Nat
  slim : Word
  lvl : BitVec 2
  ks : KSet
  src : Shape
  dst : Shape
  pred : Pred
  op : Nat
  dest : Nat
  root : Nat
  sync : Bool
  grid : Bool
  eba : Bool
  eb : Nat
  ebaddr : Word
  reca : Word
  ken : Bool
  out : Bool
  k : Nat
  ver : Nat
  seq : Option Nat := none
  held : Bool := false             -- its predicate has held
  phase : CPhase := .queued
  began : Bool := false
  pos : Nat := 0
  words : List (Nat × Nat × Byte) := []           -- bytes of a `wr` read but not yet in a packet: window offset, VA, byte (R299)
  queue : List (Nat × Nat × Nat × List Byte) := []    -- packets of a begun chunk: die, offset or block, VA, bytes (R302)
  stuck : Bool := false            -- it waits on a poisoned table entry (R341)
  ebs : List Nat := []             -- the declared exponents read at its start
  chunksDone : List Nat := []
  status : Nat := 0
  ovf : Bool := false
  pois : Bool := false
  deriving DecidableEq, Repr

/-- A queue pair (R290): entries in posting order, the next posting number, the next SEQ (R293), when it was last served (R302). -/
structure QPair where
  entries : List CEntry := []
  next : Nat := 0
  seq : Nat := 0
  served : Nat := 0
  deriving DecidableEq, Repr

/-- A WF48 partial in a staging area (R82, R83, R294): its block, the ranks combined, the fields of its header, its sums. -/
structure Partial where
  qp : Nat
  seq : Nat
  block : Nat
  from_ : List Nat
  eb : Nat
  pois : Bool
  ovf : Bool
  q : List Int
  bad : Bool := false
  deriving DecidableEq, Repr

/-- A communicator on a member die (R289): its descriptor words, queue pairs and staging area; the headers of matched entries (R293):
queue pair, SEQ, rank, header, posting number there; their block maxima (R80) or declared exponents (R294); collectives already ended
elsewhere (queue pair, SEQ, status); the proposal that it drains for, and whether this die made it (R300); the packets that stand in its slots
until their entry starts (R303). -/
structure Comm where
  words : List Word := []
  qps : SMap QPair := []
  partials : List Partial := []
  heads : List (Nat × Nat × Nat × Nat × Nat) := []
  maxima : List (Nat × Nat × Nat × List Int) := []
  dead : List (Nat × Nat × Nat) := []
  draining : Option (List Nat × Nat) := none
  proposer : Bool := false
  owed : List Nat := []             -- the members whose acknowledgement of the proposal is to come (R300)
  parked : List Packet := []
  deriving DecidableEq, Repr

/-- An entry of a pipeline table (R262), in insertion order. -/
structure PEntry where
  prio : Nat
  key : List Byte
  mask : List Byte
  act : List Word
  deriving DecidableEq, Repr

/-- A pipeline table (R261): descriptor words, entries, stateful registers. -/
structure PTable where
  desc : List Word := []
  entries : List PEntry := []
  regs : SMap (BitVec 32) := []
  deriving DecidableEq, Repr

/-- A job's pipeline program on a die (R259 to R274): parse states, tables T = 4 × stage + slot, counter array words and
counters, slot sets, punt rings, and the counters of R275 in the order of PCNT (R346). -/
structure Program where
  job : Nat
  states : List (List Word)
  tables : SMap PTable
  carr : List Word
  cnt : SMap (BitVec 32)           -- stage × 65,536 + index
  slots : List (List Word)
  rings : List (List Word)
  counts : SMap (BitVec 32)
  touched : Option (Word × Nat) := none     -- the cycle of the last table instruction, and the core and context that issued it (R214)
  deriving DecidableEq, Repr

/-- The disposition of a packet (R267). -/
structure Disp where
  targets : List (Bool × Nat) := []
  absorb : Option (Nat × Nat × Nat × Bool) := none
  punt : Option Nat := none
  drop : Bool := false
  deriving DecidableEq, Repr

/-- A packet in the pipeline (R257, R267, R355): lane, next stage (16: disposition), PHV, the extracts made, its disposition and
how much of it is done, the cycle in which it entered (R272). -/
structure PPkt where
  pkt : Packet
  aseq : Nat
  lane : Nat
  pos : Nat
  ing : Nat
  phv : List Byte := []
  extracts : List (Nat × Nat × Nat) := []
  disp : Disp := {}
  absDone : Bool := false
  tdone : Nat := 0
  entered : Word := 0
  deriving DecidableEq, Repr

/-- A swept or late packet (R355). -/
structure SweepRec where
  aseq : Nat
  cls : Nat
  pos : Nat
  buf : Nat
  item : PPkt
  deriving DecidableEq, Repr

/-- A key slot (R365). -/
structure KeySlot where
  v : Bool := false
  kind : Nat := 0
  bind : Nat := 0
  dflt : Bool := false
  job : Nat := 0
  ctr : Word := 0
  key : BitVec 256 := 0
  deriving DecidableEq, Repr

/-- An unacknowledged request of the replay window (R390). `tag` is the slot and VA of the line it fills or writes, and `stale` says
that the data cache no longer takes its fill (R241, R246). -/
structure Replay where
  pkt : Packet
  resends : Nat := 0
  sentAt : Word := 0
  resendAt : Option Word := none
  tag : Nat × Nat := (0, 0)
  stale : Bool := false
  origin : Nat × Nat × Nat          -- what waits on it: kind (0 context, 1 card, 2 cache write, 3 collective, 4 prefetch, 5 nothing, 6 agreement,
                                    -- 7 user queue), core, context or card
  deriving DecidableEq, Repr

/-- A link to a neighbour as one die sees it (R384 to R387). Receiving: the last good frame, failures in a row, whether frames are discarded
until a resend, NAK due, the bytes of a packet whose last flit is still to come, flits received, the flit count of the last census and the
bytes of the census sent. Credit given out by class. Sending: the last frame number, the packets of the frames not yet acknowledged, of those to be sent
again, and whether the next of them is the first; credits by class; the slots sent, each with its frame and the flit at which it went; flits sent. -/
structure LinkDir where
  lastGood : Nat := 0
  fails : Nat := 0
  discarding : Bool := false
  nak : Bool := false
  part : List Byte := []
  flitsRx : Nat := 0
  censusAt : Nat := 0
  census : Option (List Byte) := none
  frame : Nat := 0
  unacked : List (Nat × List Packet) := []
  again : List (List Packet) := []
  rtx : Bool := false
  credit : List Grant := []
  given : List Grant := []
  sentAfter : List (Nat × Nat × Bool × Nat) := []
  flitsTx : Nat := 0
  down : Bool := false
  deriving DecidableEq, Repr

/-- A request that a destination no longer waits for, since its job is out (R353; log 89): source × 8 + VC, job, SEQ, and whether the numbers have gone
past it. -/
structure Skip where
  key : Nat
  job : Nat
  seq : Nat
  past : Bool := false
  deriving DecidableEq, Repr

/-- A job that Squall holds out of a die (R357): its partition, switch area and save counter, the sections of the area, kept as data, and the bytes that
were written of it (DESIGN CHOICE, log 19). `scratch` lists the bytes of the scratchpads of its cores. -/
structure Saved where
  job : Nat
  part : Nat
  area : Nat
  ctr : Word
  cores : List (Nat × Core)
  scratch : List Host.Cell
  flows : List Flow
  subqs : List SubQ
  overflow : Overflow
  pool : Nat
  used : List Nat
  comms : SMap Comm
  phasers : List Phaser
  parked : List (Nat × List Byte)   -- 128-byte entries by slice, in park order (R283)
  station : List BufW               -- writes that a full replay window kept in the die station (R358)
  window : List Replay
  replies : List (Nat × Nat × Nat × Packet)
  sets : SMap DetSet
  trigs : List Trigger
  sweep : List SweepRec
  images : List (Nat × Nat × Nat × List Byte) := []   -- the images in the area: key slot, context, home, bytes (R375)
  rest : List (Nat × List Byte) := []                 -- what else of the area has bytes: home, bytes
  deriving DecidableEq, Repr

/-- How far a switch of a job has come at a die (R350, R352, R361): its checks are being gathered, its token is to come; out: quiesced, swept,
saved, closed; in: open to the job, loaded, closed. -/
inductive Phase where
  | gather | idle | quiesced | swept | saved | opened | loaded | closed
  deriving DecidableEq, Repr

/-- What stands at a die of a switch and goes on from there (R352, R361): a token, or the word to load. -/
inductive Tok where
  | none | quiesce | close | load
  deriving DecidableEq, Repr

/-- A switch of a job at a die (R350 to R352): out or in, the dies in token order, the coordinator and the context of its system core, the descriptor's
words, what stands at the die, the status of a restore, the records swept so far; at the coordinator the answers to its questions, the reports, whether
the first token is back, whether the close token is sent. -/
structure Switch where
  job : Nat := 0
  out : Bool := true
  phase : Phase := .idle
  dies : List Nat := []
  coord : Nat := 0
  ctx : Nat := 0
  desc : List Word := []
  tok : Tok := .none
  status : Nat := 0
  recs : List SweepRec := []
  answers : List (Nat × Nat) := []
  reports : List Nat := []
  back : Bool := false
  sent : Bool := false
  deriving DecidableEq, Repr

/-- A die: dispatcher, queues, descriptors, sync engine, slices, collective engine, pipeline, keys, fabric, boot (R9, R236). -/
structure Die where
  station : List BufW := []
  parts : SMap Part := []
  flows : List Flow := []
  subqs : List SubQ := []
  overflow : SMap Overflow := []
  failed : List (Nat × Nat × Nat × Nat) := []   -- sub-queues whose growth failed: job, flow, stage, cluster (R42, R344)
  records : Nat := 0
  grants : Nat := 0
  serves : Nat := 0                         -- chunks sent (R302)
  users : SMap UserQ := []
  supers : SMap (Nat × Nat × Nat) := []     -- job: flow, stage, cluster (R347)
  areas : SMap Nat := []                    -- pipeline area bytes, job × 8 + cluster (R261)
  cwins : SMap (Nat × Nat) := []            -- cluster window base and size, job × 8 + cluster (R11)
  ckeys : SMap (BitVec 32) := []            -- cluster keys, job × 8 + cluster (R349)
  drawn : Nat := 0                          -- halves of bank keys drawn so far (R349)
  segs : List Segment := []
  jobs : SMap (Nat × Nat) := []             -- live jobs: segment count and JM (R377)
  pinned : SMap (BitVec 256) := []          -- pinned tenant keys (R375)
  mapno : BitVec 32 := 0
  phasers : List Phaser := []
  slices : SMap Slice := []
  driftR : SMap (List Word) := []           -- region descriptors (R278)
  windows : SMap (List Word) := []          -- window table (R334)
  regions : SMap (List Word) := []          -- region table (R392)
  comms : SMap Comm := []                   -- job × 256 + COMM
  sets : SMap DetSet := []
  trigs : List Trigger := []
  kdirty : Bool := false                    -- a counter has changed since the last end of a cycle (R206)
  kadds : List (Nat × Nat × Nat × BitVec 32) := []   -- what completions have added in the cycle: job, task, counter (R50)
  progs : List Program := []
  noprog : BitVec 32 := 0
  foreign : BitVec 32 := 0
  lane0 : List PPkt := []
  lane1 : List PPkt := []
  egress : List (Packet × Nat) := []        -- copies waiting to leave (target kind and subport)
  routes : SMap Nat := []                   -- route table (R256)
  keys : SMap KeySlot := []
  sealm : SMap Nat := []                     -- seal map: unit × 2^22 + granule (R369)
  wrapKey : BitVec 256 := 0                 -- boot wrapping key (R366)
  eseq : Nat := 0
  aseq : Nat := 0
  seqOut : SMap Nat := []                   -- destination × 8 + VC (R390)
  seqIn : SMap Nat := []                    -- source × 8 + VC (R391)
  window : List Replay := []
  replies : List (Nat × Nat × Nat × Packet) := []   -- source, VC, SEQ and reply (R391)
  skipped : List Skip := []
  badpkt : BitVec 32 := 0
  ethbad : BitVec 32 := 0
  ethdrop : BitVec 32 := 0
  backoff : Nat := 0
  etherType : Nat := 0x88B5
  ethMode : Nat := 0
  pfc : List Nat := []                      -- Ethernet subports with priority flow control (R394)
  links : SMap LinkDir := []                -- 0, 1 ring; 2, 3 bridge
  linkKeys : SMap (BitVec 256) := []        -- link keys by the station that receives under them: 0, 1 ring; 2, 3 bridge; 4-7 Ethernet (R365, R384)
  sw : List Switch := []
  savedJobs : List Saved := []
  closed : List Nat := []                   -- jobs the die is closed to (R360)
  late : List (Nat × SweepRec) := []
  lateLost : SMap Nat := []
  p3 : Bool := false
  cecnt : SMap (BitVec 32) := []
  ringLost : Nat := 0
  seed : BitVec 256 := 0
  stage : Nat := 0
  parts5 : List (List Byte) := []           -- the firmware parts verified on the die (R398)
  meas : List (BitVec 256) := []            -- digests of root, monitor and configuration (R377)
  deriving DecidableEq, Repr

/-- What root answers to an SPDM message (R377, R378, R400): an ERROR response, or the content the request asks for; a measurement block
is an index with its bytes, a signature is made with the alias key (R376). -/
inductive SpdmReply where
  | notReady | busy
  | version | capabilities | algorithms
  | digests (chain : BitVec 256)
  | certificate (chain : List Byte)
  | challenge (blocks : List (Nat × List Byte)) (signature : List Byte)
  | measurements (blocks : List (Nat × List Byte)) (signature : List Byte)
  deriving DecidableEq, Repr

/-- A module: host ports, ownership, boot and management registers (R378 to R380, R397 to R400). -/
structure Md where
  owner : Nat := 0
  offer : Bool := false
  lattol : Word := 0
  stage : Nat := 0                  -- BOOTSTAT [7:0]
  failing : Nat := 0                -- BOOTSTAT [15:8]
  kib : Nat := 0                    -- BOOTCTL [63:32]
  down0 : Option Word := none       -- since when the link of port 0 is down
  down1 : Option Word := none
  runIf : SMap Bool := []           -- TDISP interfaces in RUN, by partition (R380)
  pages : SMap (BarPage × Bool × Nat) := []   -- pages of BAR space: whether private, and the partition of their device interface (R380)
  answers : List (Option Word) := []    -- completions to the host: read data, or Unsupported Request
  spdm : List (SpdmMsg × Bool) := []    -- messages waiting for root, and whether they arrived during an activation (R378, R379)
  replies : List SpdmReply := []
  activating : Bool := false        -- R379
  next : List Byte := []            -- the monitor image being activated
  aliasKey : List Byte := []        -- the private alias key (R376)
  aliasCert : List Byte := []       -- the certificate of the alias key (R376)
  deriving DecidableEq, Repr

/-! ## The machine -/

/-- A place that issues bundles: a core key (die × 128 + local; 64 is the system core) and a context. -/
structure Place where
  core : Nat := 64
  ctx : Nat := 0
  deriving DecidableEq, Repr

/-- Who moves next: an issue cycle of a core, or an event of the table (DESIGN CHOICE, log 5). -/
inductive Turn where
  | core (k : Nat)
  | event (i : Instr)
  deriving DecidableEq, Repr

/-- A context waiting on an address (R232): the word, the value it must leave, and whether it has. -/
structure Watch where
  cluster : Nat
  core : Nat
  ctx : Nat
  addr : Nat
  val : Word
  fired : Bool := false
  deriving DecidableEq, Repr

/-- The state of the machine. `mem` lists the bytes of every home, by home key (R237): HBM, bulk tier and host memory at module × 2^56
+ physical address, cluster SRAM at 2^61 + cluster × 2^32 + offset, scratchpads at 2^62 + core × 2^32 + offset. `turns`, `cur`,
`iss`, `fresh` and `mmio` are the model's own (logs 5, 6, 10). -/
structure State where
  mem : List Host.Cell := []
  poison : List Nat := []           -- poisoned 8-byte words, by home key of the first byte (R405)
  cores : SMap Core := []
  clusters : SMap Cluster := []
  dies : SMap Die := []
  mds : SMap Md := []
  watches : List Watch := []
  net : List Packet := []
  nmod : Nat := 1
  cycle : Word := 0
  fresh : Nat := 0
  turns : List Turn := []
  cur : Place := {}
  iss : Iss := {}
  mmio : List (Nat × Nat × Word) := []
  deriving DecidableEq, Repr

/-- Why the machine stops. -/
inductive Fault where
  /-- Raised by the fetch when the words at the program counter are no bundle of accepted slot words: R109 says no such
  word reaches the decoder, so nothing says what it does (safe; DEDUCED, log 9). -/
  | unscanned
  deriving DecidableEq, Repr

/-- Why the model gives no next state. -/
inductive Refusal where
  /-- An instruction whose meaning is not written yet (safe). -/
  | notModelled (mnemonic : String)
  deriving DecidableEq, Repr

/-- The unlisted byte of memory (DESIGN CHOICE, log 1; R400 for SRAM, R348 for pages first mapped to a job). -/
def State.blank : Byte := 0

/-- The memory keeps its canonical form. -/
def State.memOk (s : State) : Bool := SMap.ok (0 : BitVec 8) s.mem

/-! ## Access to the parts -/

/-- The core record at a core key; unlisted cores stand as after reset, a system core at root level (R311). -/
def Core.init (k : Nat) : Core := if k % 128 = 64 then { c0 := { y := { level := 2 } }, c1 := { y := { level := 2 } } } else {}

def State.core (s : State) (k : Nat) : Core := SMap.get (Core.init k) s.cores k
def State.setCore (s : State) (k : Nat) (c : Core) : State := { s with cores := SMap.put s.cores k c }
def State.modCore (s : State) (k : Nat) (f : Core → Core) : State := s.setCore k (f (s.core k))
def Core.ctx (c : Core) (x : Nat) : Ctx := if x = 0 then c.c0 else c.c1
def Core.setCtx (c : Core) (x : Nat) (v : Ctx) : Core := if x = 0 then { c with c0 := v } else { c with c1 := v }
def State.ctxAt (s : State) (p : Place) : Ctx := (s.core p.core).ctx p.ctx
def State.setCtxAt (s : State) (p : Place) (v : Ctx) : State := s.modCore p.core (fun c => c.setCtx p.ctx v)
def State.modCtxAt (s : State) (p : Place) (f : Ctx → Ctx) : State := s.setCtxAt p (f (s.ctxAt p))
/-- The core and the context whose bundle is in issue. -/
def State.co (s : State) : Core := s.core s.cur.core
def State.cx (s : State) : Ctx := s.ctxAt s.cur
def State.modCo (s : State) (f : Core → Core) : State := s.modCore s.cur.core f
def State.modCx (s : State) (f : Ctx → Ctx) : State := s.modCtxAt s.cur f
def State.modR (s : State) (f : Regs → Regs) : State := s.modCx (fun c => { c with r := f c.r })
def State.modY (s : State) (f : Sys → Sys) : State := s.modCx (fun c => { c with y := f c.y })
def State.modIss (s : State) (f : Iss → Iss) : State := { s with iss := f s.iss }

def State.cluster (s : State) (k : Nat) : Cluster := SMap.get {} s.clusters k
def State.modCluster (s : State) (k : Nat) (f : Cluster → Cluster) : State :=
  { s with clusters := SMap.put s.clusters k (f (s.cluster k)) }
def State.die (s : State) (k : Nat) : Die := SMap.get {} s.dies k
def State.modDie (s : State) (k : Nat) (f : Die → Die) : State := { s with dies := SMap.put s.dies k (f (s.die k)) }
def State.md (s : State) (k : Nat) : Md := SMap.get {} s.mds k
def State.modMd (s : State) (k : Nat) (f : Md → Md) : State := { s with mds := SMap.put s.mds k (f (s.md k)) }

/-- The state right after reset: memory lists nothing, every SRAM is clear, cores are held, system cores are at root level,
every register is at zero (R311, R400; logs 1, 2), and the dies carry the default EtherType (R255). -/
def State.reset : State := {}

end Sys2Proof.Machine
end

