-- ==== Sys2Proof/Machine/Bits.lean ====
section
/-! DEFINITION. The helpers of R6 on bits and bytes, little-endian (R1). -/

namespace Sys2Proof.Machine

/-- Bits(v, hi, lo) of a word, as an unsigned integer (R6). -/
def bits (v : Word) (hi lo : Nat) : Nat := v.toNat / 2 ^ lo % 2 ^ (hi + 1 - lo)

/-- Bits(v, hi, lo) of a natural number. -/
def nbits (v hi lo : Nat) : Nat := v / 2 ^ lo % 2 ^ (hi + 1 - lo)

/-- One bit of a word. -/
def bit (v : Word) (i : Nat) : Bool := v.getLsbD i

/-- A word from a natural number. -/
def w64 (n : Nat) : Word := BitVec.ofNat 64 n

/-- A bit as a number. -/
def b2n (b : Bool) : Nat := if b then 1 else 0

/-- SignExt(v, n) of the low n bits of a natural number (R6). -/
def sext (v n : Nat) : Int := (BitVec.ofNat n v).toInt

/-- Wrap(x, n) (R6). -/
def wrap (x : Int) (n : Nat) : Nat := (x % (2 ^ n : Nat)).toNat

/-- Sat(x, lo, hi) (R6). -/
def sat (x lo hi : Int) : Int := if x < lo then lo else if x > hi then hi else x

/-- The n bytes of a number, the lowest first. -/
def bytesOf : Nat → Nat → List Byte
  | 0, _ => []
  | n + 1, v => BitVec.ofNat 8 v :: bytesOf n (v / 256)

/-- The number whose bytes are these, the lowest first. -/
def ofBytes : List Byte → Nat
  | [] => 0
  | b :: t => b.toNat + 256 * ofBytes t

/-- A word from eight bytes. -/
def wordOf (bs : List Byte) : Word := w64 (ofBytes bs)

/-- The 32-bit words that a list of bytes spells. -/
def lanesOf : Nat → List Byte → List Lane
  | 0, _ => []
  | n + 1, bs => BitVec.ofNat 32 (ofBytes (bs.take 4)) :: lanesOf n (bs.drop 4)

/-- The 64-bit words that a list of bytes spells. -/
def wordsOf : Nat → List Byte → List Word
  | 0, _ => []
  | n + 1, bs => wordOf (bs.take 8) :: wordsOf n (bs.drop 8)

/-- Element `i` of a list of words, zero beyond its end. -/
def wd (ws : List Word) (i : Nat) : Word := ws.getD i 0

/-- A list padded with zero bytes to a length. -/
def padTo (n : Nat) (bs : List Byte) : List Byte := (bs ++ List.replicate (n - bs.length) (0 : Byte)).take n

/-- Bytes `off` to `off + n − 1` of a list, zero beyond its end. -/
def slice (bs : List Byte) (off n : Nat) : List Byte := padTo n (bs.drop off)

/-- A list with `new` written over it at `off`. -/
def overlay (bs : List Byte) (off : Nat) (new : List Byte) : List Byte :=
  bs.take off ++ new ++ bs.drop (off + new.length)

/-- The canonical test of R171: bits 63 to 56 all equal to bit 55, or all zero. -/
def canonical (ea : Word) : Bool := bits ea 63 56 == 0 || bits ea 63 55 == 511

/-- The 56-bit VA an effective address names (R171). -/
def vaOf (ea : Word) : Nat := bits ea 55 0

/-- The numbers from `a` to `a + n − 1`. -/
def range (a n : Nat) : List Nat := (List.range n).map (· + a)

/-- Parity of the ones of a number below 2^n. -/
def parity : Nat → Nat → Bool
  | 0, _ => false
  | n + 1, v => xor (v % 2 == 1) (parity n (v / 2))

/-- The position of the lowest one among the low n bits. -/
def lowest : Nat → Nat → Option Nat
  | 0, _ => none
  | n + 1, v => if v % 2 = 1 then some 0 else (lowest n (v / 2)).map (· + 1)

/-- The number of ones among the low n bits. -/
def ones : Nat → Nat → Nat
  | 0, _ => 0
  | n + 1, v => v % 2 + ones n (v / 2)

/-- The first element that meets a test, with its index counted from `i`. -/
def findIdx {α : Type} (p : α → Bool) : Nat → List α → Option (Nat × α)
  | _, [] => none
  | i, a :: t => if p a then some (i, a) else findIdx p (i + 1) t

/-- The list with element `i` replaced. -/
def setAt {α : Type} (l : List α) (i : Nat) (v : α) : List α := l.set i v

/-- The list with `f` applied to the elements that meet a test. -/
def mapIf {α : Type} (p : α → Bool) (f : α → α) (l : List α) : List α := l.map (fun a => if p a then f a else a)

end Sys2Proof.Machine
end

