-- ==== Sys2Proof/Machine/Float.lean ====
section
/-! DEFINITION. Number formats and exact arithmetic (R65 to R84): wide values that hold every operand exactly (R76), rounding
to nearest with ties to even (R67, R73), and the exact functions of R140 by integer search. -/

namespace Sys2Proof.Machine

/-- A wide value (R76): NaN, signalling NaN (an operand only, R66), NaR, an infinity, or (−1)^neg × man × 2^exp. -/
inductive Wide where
  | nan | snan | nar
  | inf (neg : Bool)
  | fin (neg : Bool) (man : Nat) (exp : Int)
  deriving DecidableEq, Repr

/-- The flags of AFLAGS (R61) as a word: NV 1, OF 2, UF 4, NX 8, SAT 16, NAR 32. -/
abbrev Flags := Word

def fNV : Flags := 1
def fOF : Flags := 2
def fUF : Flags := 4
def fNX : Flags := 8
def fSAT : Flags := 16
def fNAR : Flags := 32

/-- The float formats (R65). -/
inductive FFmt where
  | f32 | f16 | bf16
  deriving DecidableEq, Repr

/-- Fraction bits of a float format. -/
def FFmt.frac : FFmt → Nat
  | .f32 => 23 | .f16 => 10 | .bf16 => 7
/-- Exponent bits of a float format. -/
def FFmt.ebits : FFmt → Nat
  | .f32 => 8 | .f16 => 5 | .bf16 => 8
/-- Bias of a float format. -/
def FFmt.bias (f : FFmt) : Nat := 2 ^ (f.ebits - 1) - 1
/-- Width of a float format. -/
def FFmt.width (f : FFmt) : Nat := 1 + f.ebits + f.frac
/-- Decode(F, c) for a float format (R65). -/
def fdec (f : FFmt) (c : Nat) : Wide :=
  let neg := c / 2 ^ (f.width - 1) % 2 == 1
  let e := c / 2 ^ f.frac % 2 ^ f.ebits
  let m := c % 2 ^ f.frac
  if e = 2 ^ f.ebits - 1 then
    (if m = 0 then .inf neg else if m < 2 ^ (f.frac - 1) then .snan else .nan)
  else if e = 0 then .fin neg m (1 - (f.bias : Int) - f.frac)
  else .fin neg (m + 2 ^ f.frac) ((e : Int) - f.bias - f.frac)

/-- The sign bit of a format as a code. -/
def fsign (f : FFmt) (neg : Bool) : Nat := b2n neg * 2 ^ (f.width - 1)
/-- The code of an infinity. -/
def finf (f : FFmt) (neg : Bool) : Nat := fsign f neg + (2 ^ f.ebits - 1) * 2 ^ f.frac
/-- The canonical NaN (R66). -/
def fnan (f : FFmt) : Nat := (2 ^ f.ebits - 1) * 2 ^ f.frac + 2 ^ (f.frac - 1)

/-- floor(log2 n) for n > 0 (0 for 0). -/
def ilog2 (n : Nat) : Nat := Nat.log2 n

/-- Division of man × 2^sh by a power of two, to nearest with ties to even; the Bool says the quotient is exact. -/
def roundShift (man : Nat) (drop : Nat) (sticky : Bool) : Nat × Bool :=
  let q := man / 2 ^ drop
  let r := man % 2 ^ drop
  let half := 2 ^ drop / 2
  if drop = 0 then (q, !sticky)
  else
    let up := r > half || (r = half && (sticky || q % 2 = 1))
    (if up then q + 1 else q, r = 0 && !sticky)

/-- A positive magnitude man × 2^exp (plus a sticky remainder below its last bit) rounded to a quantum 2^q: the multiple of the
quantum, and whether it is exact. -/
def roundQ (man : Nat) (exp q : Int) (sticky : Bool) : Nat × Bool :=
  if exp ≥ q then (if sticky then roundShift (man * 2 ^ ((exp - q).toNat + 2)) 2 true else (man * 2 ^ (exp - q).toNat, true))
  else roundShift man (q - exp).toNat sticky

/-- RoundNE of a finite nonzero magnitude with the flags of R67. -/
def fencMag (f : FFmt) (neg : Bool) (man : Nat) (exp : Int) (sticky : Bool) : Nat × Flags :=
  let emin : Int := 1 - (f.bias : Int)
  let top : Int := exp + ilog2 man                          -- floor(log2 of the magnitude)
  let q : Int := max (top - f.frac) (emin - f.frac)
  let (n, exact) := roundQ man exp q sticky
  -- tininess after rounding with an unbounded exponent (R67)
  let (nu, _) := roundQ man exp (top - f.frac) sticky
  let topu : Int := (top - f.frac) + ilog2 nu
  let tiny := topu < emin
  let nx := if exact then 0 else fNX
  if n = 0 then (fsign f neg, nx ||| (if exact then 0 else fUF))
  else
    let t : Int := q + ilog2 n
    if t > (f.bias : Int) then (finf f neg, fOF ||| fNX)
    else if t < emin then (fsign f neg + n, nx ||| (if tiny && !exact then fUF else 0))
    else
      let e := (t + f.bias).toNat
      let m := n / 2 ^ (ilog2 n - f.frac)                    -- n has frac + 1 bits here, or is a power of two above them
      (fsign f neg + e * 2 ^ f.frac + m % 2 ^ f.frac, nx ||| (if tiny && !exact then fUF else 0))

/-- RoundNE(x, F) for a float format, with the flags of R66 and R67. -/
def fenc (f : FFmt) : Wide → Nat × Flags
  | .nan => (fnan f, 0)
  | .snan => (fnan f, fNV)
  | .nar => (fnan f, 0)
  | .inf neg => (finf f neg, 0)
  | .fin neg man exp => if man = 0 then (fsign f neg, 0) else fencMag f neg man exp false

/-! ## Exact arithmetic on wide values -/

def Wide.isNan : Wide → Bool
  | .nan | .snan | .nar => true
  | _ => false
/-- A signalling NaN operand sets NV (R66). -/
def Wide.nv : Wide → Flags
  | .snan => fNV
  | _ => 0
def Wide.neg : Wide → Wide
  | .inf n => .inf (!n)
  | .fin n m e => .fin (!n) m e
  | x => x
def Wide.abs : Wide → Wide
  | .inf _ => .inf false
  | .fin _ m e => .fin false m e
  | x => x
def Wide.isNeg : Wide → Bool
  | .inf n => n
  | .fin n _ _ => n
  | _ => false
def Wide.isZero : Wide → Bool
  | .fin _ m _ => m == 0
  | _ => false

/-- The integer n × 2^exp read at a common exponent. -/
def alignTo (neg : Bool) (man : Nat) (exp q : Int) : Int :=
  let v : Int := (man : Int) * 2 ^ (exp - q).toNat
  if neg then -v else v

/-- The exact sum of two finite values; an exact zero sum of unlike signs is +0. -/
def faddFin (n1 : Bool) (m1 : Nat) (e1 : Int) (n2 : Bool) (m2 : Nat) (e2 : Int) : Wide :=
  if m1 = 0 && m2 = 0 then .fin (n1 && n2) 0 0
  else if m1 = 0 then .fin n2 m2 e2
  else if m2 = 0 then .fin n1 m1 e1
  else
    let q := min e1 e2
    let v := alignTo n1 m1 e1 q + alignTo n2 m2 e2 q
    if v = 0 then .fin false 0 0 else .fin (v < 0) v.natAbs q

/-- The exact sum (R66, R76), with NV for unlike infinities. -/
def wadd (a b : Wide) : Wide × Flags :=
  if a.isNan || b.isNan then (.nan, a.nv ||| b.nv)
  else match a, b with
    | .inf x, .inf y => if x = y then (.inf x, 0) else (.nan, fNV)
    | .inf x, _ => (.inf x, 0)
    | _, .inf y => (.inf y, 0)
    | .fin n1 m1 e1, .fin n2 m2 e2 => (faddFin n1 m1 e1 n2 m2 e2, 0)
    | _, _ => (.nan, 0)

/-- The exact product (R66, R76), with NV for 0 × ∞. -/
def wmul (a b : Wide) : Wide × Flags :=
  if a.isNan || b.isNan then (.nan, a.nv ||| b.nv)
  else match a, b with
    | .inf x, .inf y => (.inf (xor x y), 0)
    | .inf x, .fin n m _ => if m = 0 then (.nan, fNV) else (.inf (xor x n), 0)
    | .fin n m _, .inf y => if m = 0 then (.nan, fNV) else (.inf (xor n y), 0)
    | .fin n1 m1 e1, .fin n2 m2 e2 => (.fin (xor n1 n2) (m1 * m2) (e1 + e2), 0)
    | _, _ => (.nan, 0)

/-- Comparison of two values that are no NaN: −1, 0 or 1; −0 and +0 are equal. -/
def wcmp (a b : Wide) : Int :=
  let key (x : Wide) (q : Int) : Int := match x with
    | .fin n m e => alignTo n m e q
    | _ => 0
  match a, b with
  | .inf x, .inf y => if x = y then 0 else if x then -1 else 1
  | .inf x, _ => if x then -1 else 1
  | _, .inf y => if y then 1 else -1
  | .fin n1 m1 e1, .fin n2 m2 e2 =>
    let q := min e1 e2
    let x := key (.fin n1 m1 e1) q
    let y := key (.fin n2 m2 e2) q
    if x < y then -1 else if x = y then 0 else 1
  | _, _ => 0

/-- The larger of two values, −0 below +0; a NaN gives NaN (R77). -/
def wmax (a b : Wide) : Wide :=
  if a.isNan || b.isNan then .nan
  else if wcmp a b > 0 then a else if wcmp a b < 0 then b else if a.isNeg then b else a

/-- The smaller of two values, −0 below +0; a NaN gives NaN (R77). -/
def wmin (a b : Wide) : Wide :=
  if a.isNan || b.isNan then .nan
  else if wcmp a b < 0 then a else if wcmp a b > 0 then b else if a.isNeg then a else b

/-- An integer as a wide value. -/
def wint (x : Int) : Wide := .fin (x < 0) x.natAbs 0

/-! ## Tapered formats (R70 to R73) -/

/-- nt8 (n = 8, es = 2) and nt6 (n = 6, es = 1). -/
structure TFmt where
  n : Nat
  es : Nat
  deriving DecidableEq, Repr
def nt8 : TFmt := ⟨8, 2⟩
def nt6 : TFmt := ⟨6, 1⟩

/-- The length of the run of bits equal to `b` from bit `i − 1` of `m` downwards. -/
def runLen (b : Nat) (m : Nat) : Nat → Nat
  | 0 => 0
  | i + 1 => if m / 2 ^ i % 2 = b then runLen b m i + 1 else 0

/-- Decode(F, c) of a tapered code (R70). -/
def tdec (f : TFmt) (c : Nat) : Wide :=
  let c := c % 2 ^ f.n
  if c = 0 then .fin false 0 0
  else if c = 2 ^ (f.n - 1) then .nar
  else
    let s := c / 2 ^ (f.n - 1) == 1
    let m := c % 2 ^ (f.n - 1)
    let b := m / 2 ^ (f.n - 2) % 2
    let l := runLen b m (f.n - 1)
    let k : Int := if b = 1 then (l : Int) - 1 else -(l : Int)
    let r := (f.n - 1) - l - 1                       -- bits below the run and its terminating bit (0 if none)
    let rest := if f.n - 1 ≤ l then 0 else m % 2 ^ r
    let r := if f.n - 1 ≤ l then 0 else r
    let e := if r ≥ f.es then rest / 2 ^ (r - f.es) else rest * 2 ^ (f.es - r)
    let fb := if r ≥ f.es then r - f.es else 0
    let fr := rest % 2 ^ fb
    .fin s (2 ^ fb + fr) (k * 2 ^ f.es + e - fb)

/-- RoundNE of a tapered format on the code (R73). -/
def tencMag (f : TFmt) (neg : Bool) (man : Nat) (exp : Int) : Nat × Flags :=
  let kmax : Int := (f.n - 2 : Nat)
  let u : Int := 2 ^ f.es
  let maxe : Int := kmax * u
  let a : Wide := .fin false man exp
  let sgn := b2n neg * 2 ^ (f.n - 1)
  if wcmp a (.fin false 1 maxe) > 0 then (sgn + 2 ^ (f.n - 1) - 1, fSAT ||| fNX)
  else if wcmp a (.fin false 1 (-maxe)) < 0 then
    (if wcmp a (.fin false 1 (-maxe - 1)) > 0 then sgn + 1 else 0, fUF ||| fNX)
  else
    let lg := ilog2 man
    let t : Int := exp + lg
    let k : Int := t / u
    let e : Nat := (t - k * u).toNat
    -- the string: regime, then es exponent bits, then the lg fraction bits of man
    let (reg, rl) : Nat × Nat := if k ≥ 0 then (2 ^ (k.toNat + 2) - 2, k.toNat + 2) else (1, (-k).toNat + 1)
    let str := (reg * 2 ^ f.es + e) * 2 ^ lg + man % 2 ^ lg
    let sl := rl + f.es + lg
    let (m, exact) := if sl ≤ f.n - 1 then (str * 2 ^ (f.n - 1 - sl), true) else roundShift str (sl - (f.n - 1)) false
    let same := exact || (match tdec f m with
      | .fin _ m2 e2 => wcmp (.fin false m2 e2) a == 0
      | _ => false)
    (sgn + m, if same then 0 else fNX)

/-- RoundNE(x, F) for a tapered format (R73). -/
def tenc (f : TFmt) : Wide → Nat × Flags
  | .fin neg man exp => if man = 0 then (0, 0) else tencMag f neg man exp
  | _ => (2 ^ (f.n - 1), fNV ||| fNAR)

/-! ## Formats by code (R56) -/

/-- Decode(F, c) by format code, for every format of R76. -/
def decFmt (fmt c : Nat) : Wide :=
  match fmt with
  | 0x00 => wint (c % 2 ^ 8 : Nat)
  | 0x01 => wint (sext c 8)
  | 0x02 => wint (c % 2 ^ 16 : Nat)
  | 0x03 => wint (sext c 16)
  | 0x04 => wint (c % 2 ^ 32 : Nat)
  | 0x05 => wint (sext c 32)
  | 0x06 => wint (c % 2 ^ 64 : Nat)
  | 0x07 => wint (sext c 64)
  | 0x08 => fdec .f16 (c % 2 ^ 16)
  | 0x09 => fdec .bf16 (c % 2 ^ 16)
  | 0x0A => fdec .f32 (c % 2 ^ 32)
  | 0x0B => tdec nt8 (c % 2 ^ 8)
  | 0x0C => tdec nt6 (c % 2 ^ 6)
  | _ => .nan

/-- Rounding to an integer format: nearest, ties to even, then Sat (R67). -/
def ienc (lo hi : Int) (width : Nat) : Wide → Nat × Flags
  | .nan | .snan | .nar => (0, fNV)
  | .inf neg => (wrap (if neg then lo else hi) width, fSAT ||| fNV)
  | .fin neg man exp =>
    let (n, exact) := roundQ man exp 0 false
    let v : Int := if neg then -(n : Int) else n
    let s := sat v lo hi
    (wrap s width, (if exact then 0 else fNX) ||| (if s = v then 0 else fSAT ||| fNV))

/-- RoundNE(x, F) by format code. -/
def encFmt (fmt : Nat) (x : Wide) : Nat × Flags :=
  match fmt with
  | 0x00 => ienc 0 (2 ^ 8 - 1) 8 x
  | 0x01 => ienc (-2 ^ 7) (2 ^ 7 - 1) 8 x
  | 0x02 => ienc 0 (2 ^ 16 - 1) 16 x
  | 0x03 => ienc (-2 ^ 15) (2 ^ 15 - 1) 16 x
  | 0x04 => ienc 0 (2 ^ 32 - 1) 32 x
  | 0x05 => ienc (-2 ^ 31) (2 ^ 31 - 1) 32 x
  | 0x06 => ienc 0 (2 ^ 64 - 1) 64 x
  | 0x07 => ienc (-2 ^ 63) (2 ^ 63 - 1) 64 x
  | 0x08 => fenc .f16 x
  | 0x09 => fenc .bf16 x
  | 0x0A => fenc .f32 x
  | 0x0B => tenc nt8 x
  | 0x0C => tenc nt6 x
  | _ => (0, 0)

/-- The bytes of one element by format code (R56); nt6 elements are read by groups (R69). -/
def fmtBytes (fmt : Nat) : Nat :=
  match fmt with
  | 0x00 | 0x01 | 0x0B => 1
  | 0x02 | 0x03 | 0x08 | 0x09 => 2
  | 0x04 | 0x05 | 0x0A => 4
  | 0x06 | 0x07 => 8
  | _ => 1

/-- Element `i` of a row of bytes in a format (R69). -/
def elemOf (fmt : Nat) (row : List Byte) (i : Nat) : Nat :=
  if fmt = 0x0C then ofBytes (slice row (i / 4 * 3) 3) / 2 ^ (6 * (i % 4)) % 64
  else ofBytes (slice row (i * fmtBytes fmt) (fmtBytes fmt))

/-- A value scaled by a block-scale byte (R74, R75). -/
def blockScale (b : Byte) (x : Wide) : Wide :=
  if b.toNat = 255 then .nar
  else match x with
    | .fin n m e => .fin n m (e + b.toNat - 127)
    | .nan | .snan | .nar => .nar
    | .inf n => .inf n

/-! ## The exact functions of R140, to a sticky remainder -/

/-- floor(sqrt n) by bits from 2^i downwards. -/
def isqrtGo (n : Nat) : Nat → Nat → Nat
  | 0, r => r
  | i + 1, r => if (r + 2 ^ i) * (r + 2 ^ i) ≤ n then isqrtGo n i (r + 2 ^ i) else isqrtGo n i r
/-- floor(sqrt n). -/
def isqrt (n : Nat) : Nat := isqrtGo n (ilog2 n / 2 + 1) 0

/-- 1 / (man × 2^exp) as a magnitude of 80 bits and a sticky remainder. -/
def recipMag (man : Nat) (exp : Int) : Nat × Int × Bool :=
  let p := ilog2 man + 80
  (2 ^ p / man, -(p : Int) - exp, 2 ^ p % man ≠ 0)

/-- sqrt(man × 2^exp). -/
def sqrtMag (man : Nat) (exp : Int) : Nat × Int × Bool :=
  let (m, e) : Nat × Int := if exp % 2 = 0 then (man, exp) else (man * 2, exp - 1)
  let m2 := m * 2 ^ 160
  let r := isqrt m2
  (r, e / 2 - 80, r * r ≠ m2)

/-- 1 / sqrt(man × 2^exp): the floor of sqrt(2^(2p) / man). -/
def rsqrtMag (man : Nat) (exp : Int) : Nat × Int × Bool :=
  let (m, e) : Nat × Int := if exp % 2 = 0 then (man, exp) else (man * 2, exp - 1)
  let p := ilog2 m + 80
  let n := 2 ^ (2 * p) / m
  let r := isqrt n
  (r, -(p : Int) - e / 2, !(r * r * m == 2 ^ (2 * p)))

/-- 2^(1/2^i) as a fixed-point number of 256 fraction bits, by repeated square roots; `x` starts at 2. The fraction `fr` of `n` bits is
consumed from its top bit; the product of the factors is kept to 256 bits, rounded down. -/
def exp2Go (fr : Nat) : Nat → Nat → Nat → Nat
  | 0, _, acc => acc
  | i + 1, x, acc =>
    let x' := isqrt (x * 2 ^ 256)
    exp2Go fr i x' (if fr / 2 ^ i % 2 = 1 then acc * x' / 2 ^ 256 else acc)

/-- 2^f for a fraction f = fr / 2^n, as a fixed-point number of 256 bits (UNVERIFIED, log 14). -/
def exp2Frac (fr n : Nat) : Nat := exp2Go fr n (2 * 2 ^ 256) (2 ^ 256)

/-- Digits of log2 of x / 2^p, 1 ≤ x / 2^p < 2, by repeated squaring; `p` bits of precision. -/
def log2Go (p : Nat) : Nat → Nat → Nat → Nat
  | 0, _, acc => acc
  | i + 1, x, acc =>
    let y := x * x / 2 ^ p
    if y ≥ 2 ^ (p + 1) then log2Go p i (y / 2) (2 * acc + 1) else log2Go p i y (2 * acc)

/-- floor(2^n × log2(man / 2^lg)) for the fraction of a magnitude, to n digits (UNVERIFIED, log 14). -/
def log2Frac (man lg n : Nat) : Nat := log2Go 400 n (man * 2 ^ 400 / 2 ^ lg) 0

end Sys2Proof.Machine
end

