-- ==== Sys2Proof/Machine/Memory.lean ====
section
/-! DEFINITION. Memory at its homes (R237), translation (R326 to R341), the data cache and the buffers behind it (R237 to R239). -/

namespace Sys2Proof.Machine

/-! ## Homes -/

/-- The home key of a physical address of a module (R333). -/
def homePa (md pa : Nat) : Nat := md * 2 ^ 56 + pa
/-- The home key of a byte of cluster SRAM; the cluster key is die × 8 + cluster. -/
def homeCluster (cl off : Nat) : Nat := 2 ^ 61 + cl * 2 ^ 32 + off
/-- The home key of a byte of a core's private scratchpad. -/
def homeScratch (core off : Nat) : Nat := 2 ^ 62 + core * 2 ^ 32 + off
/-- The location of a byte behind a remote window (R334): no home of this die, but a name for the data cache. -/
def remKey (die rkey off : Nat) : Nat := 2 ^ 90 + (die * 2 ^ 32 + rkey) * 2 ^ 48 + off
/-- Whether a location lies behind a remote window. -/
def isRemote (loc : Nat) : Bool := 2 ^ 90 ≤ loc

/-- The die ID that holds a home (R333). -/
def homeDie (a : Nat) : Nat :=
  if a ≥ 2 ^ 62 then (a - 2 ^ 62) / 2 ^ 32 / 128
  else if a ≥ 2 ^ 61 then (a - 2 ^ 61) / 2 ^ 32 / 8
  else a / 2 ^ 56 * 8 + a / 2 ^ 45 % 8

/-- The die of a core key and its number there; a system core belongs to no cluster (R8). -/
def coreDie (k : Nat) : Nat := k / 128
def coreLocal (k : Nat) : Nat := k % 128
def isSystem (k : Nat) : Bool := k % 128 == 64
/-- The cluster key of a core; a system core's walker and waits have a key of their own (R236). -/
def coreCluster (k : Nat) : Nat := if k % 128 = 64 then 2 ^ 20 + k / 128 else k / 128 * 8 + k % 128 / 8
/-- CORE_ID layout (R60): context, then die[8:6] cluster[5:3] core[2:0] within the module. A system core has no core ID (R8); here its
CORE_ID reads the core number 0 of its die (DESIGN CHOICE, log 74). -/
def coreId (k ctx : Nat) : Nat := ctx * 512 + k / 128 % 8 * 64 + k % 64

/-- A cluster is in P0 (R401, R403). A system core never leaves P0. -/
def State.awakeCl (s : State) (cl : Nat) : Bool :=
  2 ^ 20 ≤ cl || ((s.cluster cl).power == .p0 && !(s.cluster cl).waking && !(s.die (cl / 8)).p3)
/-- An event waits for a cluster, which is to wake (R403). -/
def State.callCl (s : State) (cl : Nat) : State :=
  if s.awakeCl cl then s else s.modCluster cl (fun c => { c with due := true })

/-- A cluster among these is not in P0. -/
def State.asleep (s : State) (cls : List Nat) : Bool := cls.any (fun c => !s.awakeCl c)
/-- An event waits for these clusters. -/
def State.callAll (s : State) (cls : List Nat) : State := cls.foldl State.callCl s

/-- One byte at its home. -/
def State.byte (s : State) (a : Nat) : Byte := SMap.get State.blank s.mem a
/-- Write one byte at its home, keeping the canonical form. -/
def State.setByte (s : State) (a : Nat) (v : Byte) : State := { s with mem := SMap.set State.blank s.mem a v }
/-- Bytes at their homes. -/
def State.bytesAt (s : State) (a n : Nat) : List Byte := (range a n).map s.byte
/-- Write bytes at their homes, one after another. -/
def State.setBytes (s : State) (a : Nat) : List Byte → State
  | [] => s
  | b :: t => (s.setByte a b).setBytes (a + 1) t

/-- The poison of words wholly written is cleared (R405). -/
def State.cleanse (s : State) (a n : Nat) : State :=
  { s with poison := s.poison.filter (fun w => !(a ≤ w && w + 8 ≤ a + n)) }
/-- Whether a poisoned word meets the bytes (R405). -/
def State.poisoned (s : State) (a n : Nat) : Bool := s.poison.any (fun w => w < a + n && a < w + 8)

/-- Waits on an address whose word now differs from the value awaited (R232). -/
def State.wake (s : State) (a n : Nat) : State :=
  { s with watches := s.watches.map (fun w =>
      if w.addr < a + n && a < w.addr + 8 && wordOf (s.bytesAt w.addr 8) != w.val then { w with fired := true } else w) }

/-- A write that takes effect at its home (R239, R241): bytes, poison, waits. -/
def State.homeWrite (s : State) (a : Nat) (bs : List Byte) : State :=
  ((s.setBytes a bs).cleanse a bs.length).wake a bs.length

/-- Zeros are written to a span (R348): its bytes read zero, and none of them is poisoned. -/
def State.clearSpan (s : State) (a n : Nat) : State :=
  let inside (b : Nat) : Bool := a ≤ b && b < a + n
  { s with mem := s.mem.filter (fun c => !inside c.1), poison := s.poison.filter (fun w => !inside w) }

/-! ## Sealing (R10, R369) -/

/-- `mem` holds plaintext, what a home's agents see under the key that its data unit has now (DESIGN CHOICE, log 7). A home belongs to the unit at this
base, of this many bytes, under these parts of a tweak: 16 bytes of cluster SRAM, 64 bytes of HBM or bulk tier. -/
def sealUnit (a : Nat) : Nat × Nat × List Nat :=
  if 2 ^ 61 ≤ a then (a / 16 * 16, 16, [(a - 2 ^ 61) / 2 ^ 32 / 8, (a - 2 ^ 61) / 2 ^ 32 % 8, a % 2 ^ 32 / 16])
  else (a / 64 * 64, 64, [a % 2 ^ 56 / 64])

/-- The key slot that seals a granule of HBM or bulk tier, 0xFFF for shared, 0xFFE for unassigned (R369). -/
def State.sealSlot (s : State) (home : Nat) : Nat :=
  let pa := home % 2 ^ 56
  SMap.get 0xFFE (s.die (homeDie home)).sealm (nbits pa 51 48 * 2 ^ 22 + nbits pa 44 0 / 65536)

/-- The key under which the store of a home holds it (R369): the job key of a cluster window, the key of a granule's slot, zeros where that slot is
empty (R368); none for scratchpads, host memory and granules in plaintext. -/
def State.keyAt (s : State) (a : Nat) : Option (BitVec 256) :=
  let d := s.die (homeDie a)
  if 2 ^ 62 ≤ a then none
  else if 2 ^ 61 ≤ a then
    let off := a % 2 ^ 32
    let cl := (a - 2 ^ 61) / 2 ^ 32 % 8
    match d.cwins.find? (fun w => w.1 % 8 == cl && w.2.1 ≤ off && off < w.2.1 + w.2.2) with
    | some w => (d.keys.find? (fun k => k.1 != 0 && k.2.v && k.2.kind == 0 && k.2.job == w.1 / 8)).map (·.2.key)
    | none => none
  else if nbits (a % 2 ^ 56) 51 48 ≥ 2 || 0xFFE ≤ s.sealSlot a then none
  else some (SMap.get {} d.keys (s.sealSlot a)).key

/-- The spans of a die's stores that are sealed as one: the granules that its seal map names, the cluster windows; each with its base, how many data units,
and their size. -/
def Die.spans (d : Die) (die : Nat) : List (Nat × Nat × Nat) :=
  d.sealm.map (fun g => (homePa (die / 8) (die % 8 * 2 ^ 45 + g.1 / 2 ^ 22 * 2 ^ 48 + g.1 % 2 ^ 22 * 65536), 1024, 64)) ++
  d.cwins.map (fun w => (homeCluster (die * 8 + w.1 % 8) (w.2.1 / 16 * 16), w.2.2 / 16, 16))

/-- What a unit reads as once its key has changed: its ciphertext stays (R368, R369). -/
def recode (old new : Option (BitVec 256)) (u : Nat) (bs : List Byte) : List Byte :=
  let (_, n, tweak) := sealUnit u
  let c := match old with | some k => Config.xtsSeal k tweak n bs | none => bs
  match new with | some k => Config.xtsUnseal k tweak n c | none => c

/-- The data units that have another key than in an earlier state. -/
def State.rekeyed (s old : State) : List Nat :=
  let all (x : State) : List (Nat × Nat × Nat) := x.dies.flatMap (fun d => d.2.spans d.1)
  ((all old ++ all s).filter (fun p => old.keyAt p.1 != s.keyAt p.1)).flatMap (fun p => (range 0 p.2.1).map (fun i => p.1 + p.2.2 * i))

/-- Keys, the seal map or the windows have changed since a state: the units that keep their ciphertext under another key read as that key decrypts it (R368,
R369), those that nothing has written too (log 7). -/
def State.reseal (s old : State) : State :=
  (s.rekeyed old).foldl (fun t u => t.setBytes u (recode (old.keyAt u) (s.keyAt u) u (s.bytesAt u (sealUnit u).2.1))) s

/-! ## Translation -/

/-- Access kinds (R332). -/
inductive Acc where
  | rd | wr | at | ex
  deriving DecidableEq, Repr

/-- Whom an access is made for (R335): the core and context, job, slot, table, level and scratchpad bounds. -/
structure XCtx where
  core : Nat
  ctx : Nat
  job : Nat
  asid : Nat
  ptroot : Word
  level : BitVec 2
  splo : Nat
  sphi : Nat
  slim : Word
  deriving DecidableEq, Repr

/-- The translation context of a place. -/
def State.xctxAt (s : State) (p : Place) : XCtx :=
  let c := s.ctxAt p
  { core := p.core, ctx := p.ctx, job := bits c.r.jobId 9 0, asid := bits c.y.asid 8 0, ptroot := c.y.ptroot,
    level := c.y.level, splo := c.y.splo, sphi := c.y.sphi, slim := c.r.slim }
/-- The translation context of the bundle in issue. -/
def State.xc (s : State) : XCtx := s.xctxAt s.cur

/-- What an access reaches: class, location, and the die or region and key of its class (R329). -/
structure Xl where
  rc : Rc
  loc : Nat
  aux : Nat
  rkey : Nat
  deriving DecidableEq, Repr

/-- The bytes of a cluster's SRAM (R11, R12). -/
def clusterSram : Nat := 24 * 2 ^ 20
def winScratch : Nat := 0xFF000000000000
def winCluster : Nat := 0xFF000100000000
/-- The stack top of a context (R20). -/
def stackTop (ctx : Nat) : Nat := if ctx = 0 then 0x200000 else 0x1C0000

/-- The part of the scratchpad a context may reach (R373). Root code has no segment and is unbounded. -/
def XCtx.reaches (x : XCtx) (off : Nat) : Bool :=
  x.level == 2 || (x.splo * 4096 ≤ off && off < x.sphi * 4096) ||
  (vaOf x.slim ≤ winScratch + off && off < stackTop x.ctx)

/-- The fixed windows (R11, R326, R373). -/
def State.window (s : State) (x : XCtx) (va : Nat) : Except Nat Xl :=
  if winScratch ≤ va && va < winScratch + 2 ^ 32 then
    let off := va - winScratch
    if off < 2 ^ 21 && x.reaches off then .ok ⟨.scratch, homeScratch x.core off, 0, 0⟩ else .error 0x0403
  else if winCluster ≤ va && va < winCluster + 2 ^ 32 then
    let off := va - winCluster
    let cl := coreCluster x.core
    let (base, size) := SMap.get (0, 0) (s.die (coreDie x.core)).cwins (x.job * 8 + cl % 8)
    if !isSystem x.core && off < size then .ok ⟨.cluster, homeCluster cl (base + off), 0, 0⟩ else .error 0x0403
  else .error 0x0401

/-- A physical address that names installed memory of units 0 and 1 (R333). -/
def installed (pa : Nat) : Bool :=
  (nbits pa 51 48 == 0 && nbits pa 44 0 < 2 ^ 37) || (nbits pa 51 48 == 1 && nbits pa 44 0 < 2 ^ 38)
/-- An address in the HBM of a die. -/
def inHbm (die pa : Nat) : Bool := nbits pa 51 48 == 0 && nbits pa 47 45 == die % 8 && nbits pa 44 0 < 2 ^ 37

/-- A leaf of the tables, checked (R328, R329, R331): the TLB entry it makes, or a fault kind. -/
def State.leaf (s : State) (x : XCtx) (va lvl : Nat) (e : Word) : Except Nat Tlb :=
  let sz := bits e 9 8
  let rc := bits e 7 5
  let tgt := bits e 51 12
  let r := bit e 2
  let w := bit e 3
  let xx := bit e 4
  let ml := bit e 10
  let bb := if lvl = 2 then 30 else if lvl = 1 then (if sz = 1 then 26 else 21) else (if sz = 1 then 16 else 12)
  let page := va / 2 ^ bb
  let mk (c : Rc) (base aux rkey : Nat) : Tlb := ⟨x.asid, page, bb, c, base, aux, rkey, r, w, xx, ml⟩
  if bits e 63 52 ≠ 0 || bit e 11 || lvl ≥ 3 || sz ≥ 2 || (sz = 1 && lvl = 2) || (ml && !xx) then .error 0x0405
  else match rc with
  | 0 =>
    if tgt * 4096 % 2 ^ bb ≠ 0 || !installed (tgt * 4096) || (w && xx) then .error 0x0405
    else .ok (mk .ordinary (tgt * 4096) 0 0)
  | 1 =>
    let pn := bits e 39 12
    if pn * 4096 % 2 ^ bb ≠ 0 || xx then .error 0x0405
    else
      let win := SMap.get [] (s.die (coreDie x.core)).windows (bits e 51 40)
      let w0 := wd win 0
      if !bit w0 63 || bits w0 57 48 ≠ x.job then .error 0x0401
      else .ok (mk .remote (pn * 4096) (bits w0 47 40) (bits w0 31 0))
  | 2 => if bits e 51 20 * 4096 % 2 ^ bb ≠ 0 || !(r && w) || xx then .error 0x0405 else .ok (mk .mcast (bits e 51 20 * 4096) (bits e 19 12) 0)
  | 3 =>
    if !(r && w) || xx || bits e 51 32 ≠ 0 then .error 0x0405
    else .ok (mk .drift 0 (bits e 31 24) (bits e 23 12))
  | 4 =>
    if xx || sz ≠ 0 || lvl ≠ 0 || nbits (tgt * 4096) 51 48 ≠ 2 then .error 0x0405
    else .ok (mk .mmio (tgt * 4096) 0 0)
  | _ => .error 0x0405

/-- The walk (R327, R331): levels still to visit with their lowest VA bit, the table's address. A poisoned entry gives machine
check kind 0x02 (R341). The list of (level, address, entry) read is what the walker cache takes (R337). -/
def State.walk (s : State) (x : XCtx) (va : Nat) : List (Nat × Nat) → Nat → List (Nat × Nat × Word) → Except Nat (Tlb × List (Nat × Nat × Word))
  | [], _, _ => .error 0x0405
  | (lvl, lo) :: rest, tbl, seen =>
    let n := if lvl = 3 then 65536 else 512
    let a := tbl + 8 * (va / 2 ^ lo % n)
    let h := homePa (coreDie x.core / 8) a
    let cached := (s.cluster (coreCluster x.core)).walker.find? (fun c => c.1 == x.asid && c.2.1 == a)
    if s.poisoned h 8 && cached.isNone then .error 0x0F02
    else
      let e : Word := match cached with
        | some c => c.2.2
        | none => wordOf (s.bytesAt h 8)
      if !bit e 0 then .error 0x0401
      else if bit e 1 then
        let nxt := bits e 51 12 * 4096
        if bits e 63 52 ≠ 0 || bits e 11 2 ≠ 0 || lvl = 0 || !inHbm (coreDie x.core) nxt then .error 0x0405
        else State.walk s x va rest nxt ((x.asid, a, e) :: seen)
      else (s.leaf x va lvl e).map (fun t => (t, seen))

/-- PTROOT is a 512 KiB aligned address in the HBM of the walking die (R331). -/
def rootOk (x : XCtx) : Bool :=
  bits x.ptroot 63 52 == 0 && x.ptroot.toNat % 2 ^ 19 == 0 && inHbm (coreDie x.core) x.ptroot.toNat

/-- The full walk of a VA with bit 55 clear. -/
def State.pageWalk (s : State) (x : XCtx) (va : Nat) : Except Nat (Tlb × List (Nat × Nat × Word)) :=
  if rootOk x then s.walk x va [(3, 39), (2, 30), (1, 21), (0, 12)] x.ptroot.toNat [] else .error 0x0405

/-- The TLB entry a core holds for a VA (R336). -/
def State.tlbHit (s : State) (x : XCtx) (va : Nat) : Option Tlb :=
  (s.core x.core).tlb.find? (fun t => t.asid == x.asid && t.page == va / 2 ^ t.bits)

/-- The entry by which an access translates: the TLB's, else the walk's. -/
def State.entryFor (s : State) (x : XCtx) (va : Nat) : Except Nat Tlb :=
  match s.tlbHit x va with
  | some t => .ok t
  | none => (s.pageWalk x va).map (·.1)

/-- A granule a job's agent may reach (R369): sealed under the job's key, or shared. -/
def State.sealOk (s : State) (job home : Nat) : Bool :=
  let slot := s.sealSlot home
  let k := SMap.get {} (s.die (homeDie home)).keys slot
  slot == 0xFFF || (slot != 0 && slot < 1024 && k.v && k.kind == 0 && k.job == job)

/-- Permission of an entry for an access (R332); an execution failure is left to the fetch. -/
def Tlb.allows (t : Tlb) (acc : Acc) : Bool :=
  match acc with
  | .rd => t.r
  | .wr => t.w
  | .at => t.r && t.w
  | .ex => t.x

/-- Translation of a VA of 56 bits (R326 to R334, R369): what it reaches, or the cause. -/
def State.xlate (s : State) (x : XCtx) (va : Nat) (acc : Acc) : Except Nat Xl :=
  if 2 ^ 55 ≤ va then (if acc = .ex then .error 0x0101 else s.window x va)
  else match s.entryFor x va with
    | .error c => .error c
    | .ok t =>
      let off := va % 2 ^ t.bits
      if !t.allows acc then .error 0x0402
      else match t.rc with
        | .ordinary =>
          let h := homePa (coreDie x.core / 8) (t.base + off)
          if x.level == 0 && !s.sealOk x.job h then .error 0x0402 else .ok ⟨.ordinary, h, 0, 0⟩
        | .remote => .ok ⟨.remote, remKey t.aux t.rkey (t.base + off), t.aux, t.rkey⟩
        | .mcast => .ok ⟨.mcast, t.base + off, t.aux, 0⟩
        | .drift => .ok ⟨.drift, 0, t.aux, t.rkey⟩
        | .mmio => .ok ⟨.mmio, homePa (coreDie x.core / 8) (t.base + off), 0, 0⟩
        | .scratch | .cluster => .error 0x0405

/-- Translation of an effective address, with the canonical test (R171). -/
def State.xlateEa (s : State) (x : XCtx) (ea : Word) (acc : Acc) : Except Nat Xl :=
  if canonical ea then s.xlate x (vaOf ea) acc else .error 0x0404

/-- The TLB takes the entry an access used (R336); the oldest of 256 makes room (DESIGN CHOICE, log 12). The walker cache takes the table
entries of levels 3 to 1 (R337). -/
def State.tlbFill (s : State) (x : XCtx) (va : Nat) : State :=
  if 2 ^ 55 ≤ va then s
  else match s.tlbHit x va with
    | some _ => s
    | none =>
      match s.pageWalk x va with
      | .error _ => s
      | .ok (t, seen) =>
        let s := s.modCore x.core (fun c => { c with tlb := (t :: c.tlb).take 256 })
        s.modCluster (coreCluster x.core) (fun c =>
          { c with walker := ((seen.filter (fun e => !c.walker.any (fun o => o.1 == e.1 && o.2.1 == e.2.1))) ++ c.walker).take 64 })

/-! ## The buffers (R237) -/

/-- A write in a buffer holds a byte. -/
def BufW.covers (w : BufW) (loc : Nat) : Bool := w.loc ≤ loc && loc < w.loc + w.bytes.length
/-- Two writes meet in a byte. -/
def BufW.meets (w o : BufW) : Bool := w.loc < o.loc + o.bytes.length && o.loc < w.loc + w.bytes.length
/-- The latest write to a byte in a buffer. -/
def bufFind (b : List BufW) (loc : Nat) : Option Byte := (b.reverse.find? (fun w => w.covers loc)).map (fun w => w.bytes.getD (loc - w.loc) 0)

/-- The writes of a buffer that meet a test, each with every earlier write to a byte of it, and the rest, both in order: writes to one byte
drain in the order in which they entered. -/
def bufSplit (p : BufW → Bool) : List BufW → List BufW × List BufW
  | [] => ([], [])
  | w :: t =>
    let (out, rest) := bufSplit p t
    if p w || out.any w.meets then (w :: out, rest) else (out, w :: rest)

/-- The die, key and offset of a remote location. -/
def remParts (loc : Nat) : Nat × Nat × Nat :=
  let n := loc - 2 ^ 90
  (n / 2 ^ 48 / 2 ^ 32, n / 2 ^ 48 % 2 ^ 32, n % 2 ^ 48)

/-- A home in host memory (R396): bus addresses behind the ports of dies 0 and 4. -/
def isHostMem (a : Nat) : Bool := a < 2 ^ 61 && nbits (a % 2 ^ 56) 51 48 == 2 && nbits a 44 44 == 1 && homeDie a % 4 == 0

/-- A write passes the die station of a die on its way (R237): its home lies on another die. Every remote write does, for it becomes a
request there (DEDUCED, log 17). -/
def passesStation (die loc : Nat) : Bool := isRemote loc || (homeDie loc != die && !isHostMem loc)

/-- A byte as an agent of a die finds it: the die station's latest write, else the home's. -/
def State.dieByte (s : State) (die loc : Nat) : Byte :=
  match bufFind (s.die die).station loc with
  | some v => v
  | none => s.byte loc
/-- Bytes as an agent of a die finds them. -/
def State.dieBytes (s : State) (die loc n : Nat) : List Byte := (range loc n).map (s.dieByte die)

/-- The latest write to a byte in the buffers that a core's accesses pass, the first buffer first. -/
def State.buffered (s : State) (core loc : Nat) : Option Byte :=
  match (if isSystem core then none else bufFind (s.cluster (coreCluster core)).buffer loc) with
  | some v => some v
  | none => bufFind (s.die (coreDie core)).station loc

/-- A byte as a read that misses the data cache of a core finds it: the first buffer that holds a write serves it. -/
def State.outer (s : State) (core loc : Nat) : Byte := (s.buffered core loc).getD (s.byte loc)

/-- One write in the buffers of a core holds the whole word at a location. -/
def State.heldWord (s : State) (core w : Nat) : Bool :=
  let holds (b : BufW) : Bool := b.loc ≤ w && w + 8 ≤ b.loc + b.bytes.length
  (!isSystem core && (s.cluster (coreCluster core)).buffer.any holds) || (s.die (coreDie core)).station.any holds

/-- Whether a read past the data cache of a core meets a poisoned word (R405). A full write that is still in a buffer serves the read. -/
def State.outerPoison (s : State) (core a n : Nat) : Bool := s.poison.any (fun w => w < a + n && a < w + 8 && !s.heldWord core w)

/-- A write of a unit of a die, or one that leaves a cluster buffer: it takes effect at a home of the die, or enters the die station. -/
def State.dieWrite (s : State) (die : Nat) (w : BufW) : State :=
  if passesStation die w.loc then s.modDie die (fun d => { d with station := d.station ++ [w] }) else s.homeWrite w.loc w.bytes

/-- Put a write into the first buffer on its way: the cluster buffer, for a system core the die station or the home. -/
def State.putBuffer (s : State) (w : BufW) : State :=
  if isSystem w.core then s.dieWrite (coreDie w.core) w
  else s.modCluster (coreCluster w.core) (fun c => { c with buffer := c.buffer ++ [w] })

/-- Drain the writes of a cluster buffer that meet a test. -/
def State.drainClusterAll (s : State) (cl : Nat) (p : BufW → Bool) : State :=
  let (out, rest) := bufSplit p (s.cluster cl).buffer
  out.foldl (fun s w => s.dieWrite (cl / 8) w) (s.modCluster cl (fun c => { c with buffer := rest }))

/-! ## The data cache (R238) -/

/-- The data-cache line that holds a location. -/
def State.lineAt (s : State) (core loc : Nat) : Option Line :=
  (s.core core).dcache.find? (fun l => l.loc / 64 == loc / 64)

/-- The mask of `n` bits from bit `i`. -/
def maskFrom (i n : Nat) : Word := w64 ((2 ^ n - 1) * 2 ^ i)

/-- Whether a cached read of a core meets a poisoned word (R405). A full write that is still in the line or in a buffer serves the read. -/
def State.cachePoison (s : State) (core a n : Nat) : Bool :=
  let full (w : Nat) : Bool := match s.lineAt core w with
    | some l => l.dirty &&& maskFrom (w % 64) 8 == maskFrom (w % 64) 8
    | none => false
  s.poison.any (fun w => w < a + n && a < w + 8 && !full w && !s.heldWord core w)

/-- The runs of dirty bytes of a line, each within an aligned 8-byte unit, as (offset, bytes) (R238, R240). -/
def dirtyRuns (l : Line) : Nat → List (Nat × List Byte) → List (Nat × List Byte)
  | 0, acc => acc
  | i + 1, acc =>
    if l.dirty.getLsbD i then
      match acc with
      | (o, bs) :: t =>
        if o = i + 1 && o % 8 ≠ 0 then dirtyRuns l i ((i, l.bytes.getD i 0 :: bs) :: t) else dirtyRuns l i ((i, [l.bytes.getD i 0]) :: acc)
      | [] => dirtyRuns l i [(i, [l.bytes.getD i 0])]
    else dirtyRuns l i acc

/-- A request that fetches a line for a core. -/
def Replay.fills (r : Replay) (core : Nat) : Bool := (r.origin.1 == 0 || r.origin.1 == 4) && r.origin.2.1 == core && r.pkt.op == 1

/-- The fills that a core awaits are not taken any more: a line left the data cache since they were asked for (R241, R246). -/
def State.staleFills (s : State) (core : Nat) : State :=
  if (s.die (coreDie core)).window.any (·.fills core) then
    s.modDie (coreDie core) (fun d => { d with window := mapIf (·.fills core) (fun r => { r with stale := true }) d.window })
  else s

/-- A request that fetches a line of a remote location. -/
def Replay.ofLine (r : Replay) (loc : Nat) : Bool := remKey r.pkt.dst r.pkt.rkey r.pkt.offs / 64 * 64 == loc
/-- The fills of a line that a core awaits are not taken any more: later bytes of it have left or come in (R241). -/
def State.staleLine (s : State) (core loc : Nat) : State :=
  let isIt (r : Replay) : Bool := r.fills core && r.ofLine loc
  if isRemote loc && (s.die (coreDie core)).window.any isIt then
    s.modDie (coreDie core) (fun d => { d with window := mapIf isIt (fun r => { r with stale := true }) d.window })
  else s

/-- Write a line's dirty bytes back (R238): they enter the buffers, and the dirty bits clear. -/
def State.writeBack (s : State) (core : Nat) (l : Line) : State :=
  if l.dirty = 0 then s
  else
    let va (o : Nat) : Nat := (l.tags.headD (0, 0)).2 + o
    let s := (dirtyRuns l 64 []).foldl (fun s r => s.putBuffer { loc := l.loc + r.1, bytes := r.2, core := core, job := l.job, va := va r.1 }) s
    (s.modCore core (fun c => { c with dcache := mapIf (fun m => m.loc == l.loc) (fun m => { m with dirty := 0 }) c.dcache })).staleLine core l.loc

/-- Write back the lines of a core that meet a test. -/
def State.writeBackAll (s : State) (core : Nat) (p : Line → Bool) : State :=
  ((s.core core).dcache.filter p).foldl (fun s l => s.writeBack core l) s

/-- Invalidate the lines of a core that meet a test, writing dirty bytes back first (R238). -/
def State.invalidate (s : State) (core : Nat) (p : Line → Bool) : State :=
  ((s.writeBackAll core p).modCore core (fun c => { c with dcache := c.dcache.filter (fun l => !p l) })).staleFills core

/-- A context acquires spans of VAs of its slot, each a lowest and a highest byte (R201, R230, R246): the lines reached under them, which a test selects,
are invalidated; of any other line the data cache remembers the spans, for a later access may reach it by one of them. -/
def State.acquireSpans (s : State) (core : Nat) (p : Line → Bool) (asid : Nat) (l : List (Nat × Nat)) : State :=
  let add (m : Line) : Line := { m with spans := m.spans ++ (l.map (fun e => (asid, e.1, e.2))).filter (fun e => !m.spans.contains e) }
  (s.invalidate core p).modCore core (fun c => { c with dcache := c.dcache.map add })

/-- An access by a slot and the VA of a line reaches a line under one of the spans acquired since it was made. -/
def Line.staleFor (l : Line) (t : Nat × Nat) : Bool :=
  !l.tags.contains t && l.spans.any (fun e => e.1 == t.1 && t.2 ≤ e.2.2 && e.2.1 < t.2 + 64)

/-- A line that is stale for an access leaves the data cache (R246). -/
def State.dropStale (s : State) (x : XCtx) (va loc : Nat) : State :=
  match s.lineAt x.core loc with
  | some l => if l.staleFor (x.asid, va / 64 * 64) then s.invalidate x.core (fun m => m.loc / 64 == loc / 64) else s
  | none => s

/-- The lines of a data cache (R9): 128 KiB. -/
def dcacheLines : Nat := 2048
/-- The 512-byte blocks of an instruction cache (R9): 64 KiB. -/
def icacheBlocks : Nat := 128

/-- Room for one more line: in a full cache some line is written back and evicted (R238; log 11). -/
def State.makeRoom (s : State) (core : Nat) : State :=
  let ls := (s.core core).dcache
  if ls.length < dcacheLines then s
  else match ls[Config.victim s.fresh % ls.length]? with
    | some v => State.invalidate { s with fresh := s.fresh + 1 } core (fun l => l.loc == v.loc)
    | none => s

/-- Add a slot and VA to those that a line was reached under (R335). -/
def Line.tag (l : Line) (t : Nat × Nat) : Line := if l.tags.contains t then l else { l with tags := l.tags ++ [t] }

/-- The data cache allocates the line of a location (R238): of an ordinary page filled from the buffers and the home, of a remote window
with no byte valid yet. A line already there is tagged; one that is stale for the access goes first (R246). -/
def State.allocLine (s : State) (x : XCtx) (va loc : Nat) : State :=
  let t := (x.asid, va / 64 * 64)
  let s := s.dropStale x va loc
  match s.lineAt x.core loc with
  | some l =>
    if l.tags.contains t then s
    else s.modCore x.core (fun c => { c with dcache := mapIf (fun m => m.loc / 64 == loc / 64) (·.tag t) c.dcache })
  | none =>
    let s := s.makeRoom x.core
    let base := loc / 64 * 64
    let l : Line :=
      if isRemote loc then { loc := base, tags := [t], job := x.job, bytes := List.replicate 64 0, valid := 0, dirty := 0 }
      else { loc := base, tags := [t], job := x.job, bytes := (range base 64).map (s.outer x.core), valid := BitVec.allOnes 64, dirty := 0 }
    s.modCore x.core (fun c => { c with dcache := l :: c.dcache })

/-- A byte as the core's cached path sees it. -/
def State.cachedByte (s : State) (core loc : Nat) : Byte :=
  match s.lineAt core loc with
  | some l => l.bytes.getD (loc % 64) 0
  | none => s.outer core loc

/-- Write a byte into a line, dirty (R238). -/
def Line.setByte (l : Line) (i : Nat) (v : Byte) : Line :=
  { l with bytes := setAt (padTo 64 l.bytes) i v, dirty := l.dirty ||| maskFrom i 1, valid := l.valid ||| maskFrom i 1 }

/-- Write a byte into the line that holds it. -/
def State.cachedSet (s : State) (core loc : Nat) (v : Byte) : State :=
  s.modCore core (fun c =>
    { c with dcache := mapIf (fun l => l.loc / 64 == loc / 64) (fun l => l.setByte (loc % 64) v) c.dcache })

end Sys2Proof.Machine
end

