-- ==== Sys2Proof/Machine/Ops.lean ====
section
/-! DEFINITION. Named operations over registers and memory, the fabric's send, events to the system core, and taking an
exception (R316 to R318). -/

namespace Sys2Proof.Machine

/-! ## Reading the issue latches (R6) -/

/-- A g register among latched registers; g0 reads zero (R48). -/
def Regs.rg (r : Regs) (n : Nat) : Word := if n = 0 then 0 else SMap.get 0 r.g n
/-- A predicate; p0 reads all ones (R49). -/
def Regs.rp (r : Regs) (n : Nat) : Word := if n = 0 then BitVec.allOnes 64 else SMap.get 0 r.p n
/-- A counter (R50). -/
def Regs.rk (r : Regs) (n : Nat) : BitVec 32 := SMap.get 0 r.k n
/-- A shape register (R55). -/
def Regs.rh (r : Regs) (n : Nat) : Shape := SMap.get {} r.h n
/-- A port: q0 to q7 at 0 to 7, o0 to o3 at 8 to 11 (R57). -/
def Regs.port (r : Regs) (n : Nat) : Port := SMap.get {} r.ports n
/-- PORT_STATUS, from the ports' bits (R61). -/
def Regs.portStatus (r : Regs) : Word :=
  let bnd (n : Nat) : Nat := b2n (r.port n).bound
  let exh (n : Nat) : Nat := b2n (r.port n).exh
  let sum (f : Nat → Nat) (base n at_ : Nat) : Nat := (List.range n).foldl (fun a i => a + f (base + i) * 2 ^ (at_ + i)) 0
  w64 (sum exh 0 8 0 + sum exh 8 4 8 + sum bnd 0 8 16 + sum bnd 8 4 24)

/-- A g operand of an A to M slot, as latched at issue. -/
def State.ra (s : State) (n : BitVec 5) : Word := s.iss.lat.rg n.toNat
/-- A g operand of a C, X or Y slot, as latched at issue (R318). -/
def State.rs (s : State) (n : BitVec 5) : Word := s.iss.sync.rg n.toNat

/-- Lanes() (R6): 64 or 32 by the budget of the running task (R23). -/
def State.lanes (s : State) : Nat := if s.cx.t.vb then 64 else 32

/-! ## The head of the bundle in issue (R86, R90) -/

def Iss.pres (i : Iss) : Nat := (i.head.extractLsb' 0 8).toNat
def Iss.has (i : Iss) (slot : Nat) : Bool := i.head.getLsbD slot
def Iss.stop (i : Iss) : Bool := i.head.getLsbD 8
def Iss.hasLit (i : Iss) : Bool := i.head.getLsbD 9
def Iss.lend (i : Iss) : Bool := i.head.getLsbD 10
def Iss.pad (i : Iss) : Bool := i.head.getLsbD 11
def Iss.gpred (i : Iss) : Nat := (i.head.extractLsb' 16 4).toNat
def Iss.gneg (i : Iss) : Bool := i.head.getLsbD 20
def Iss.gmask (i : Iss) (slot : Nat) : Bool := i.head.getLsbD (24 + slot)

/-- The word of a slot: slot words stand in ascending presence-bit order (R85). -/
def Iss.word (i : Iss) (slot : Nat) : Lane := i.words.getD (ones slot i.pres) 0

/-- Elements enabled for a slot (R90). -/
def Iss.mask (i : Iss) (slot : Nat) : Word :=
  if i.gmask slot then (if i.gneg then ~~~i.guard else i.guard) else BitVec.allOnes 64

/-- Elements enabled for the acting slot. -/
def State.en (s : State) : Word := s.iss.mask s.iss.slot
/-- Element `i` is enabled for the acting slot. -/
def State.enb (s : State) (i : Nat) : Bool := s.en.getLsbD i

/-- The number of bytes of a bundle (R85). -/
def headBytes (head : Lane) : Nat := 4 * (1 + ones 8 (head.extractLsb' 0 8).toNat + b2n (head.getLsbD 9))

/-- The sequential successor (R88, R115). -/
def successor (baddr : Word) (head : Lane) : Word :=
  let e := baddr + w64 (headBytes head)
  if head.getLsbD 11 then w64 ((e.toNat + 63) / 64 * 64) else e

/-- The successor of the bundle in issue. -/
def State.succ (s : State) : Word := successor s.iss.baddr s.iss.head

/-- The literal, sign-extended to 64 bits (R87, R128). -/
def State.litS (s : State) : Word := s.iss.lit.signExtend 64

/-! ## Sending requests over the fabric (R381, R390) -/

/-- Direction of a die of the same module on the module ring: the shorter way, clockwise at a distance of four (R256). -/
def ringWay (a b : Nat) : Nat := if (b + 8 - a) % 8 ≤ 4 then 0 else 1

/-- The station by which a die sends to another (R256): the route table's entry, 0 and 1 the module ring clockwise and counter-clockwise,
2 and 3 the bridge, 4 to 7 an Ethernet subport; with no entry the shorter way, for another module by the bridge (DESIGN CHOICE, log 22). -/
def State.routeOf (s : State) (die dst : Nat) : Nat :=
  if (s.die die).routes.has dst then SMap.get 0 (s.die die).routes dst
  else if die / 8 = dst / 8 then ringWay (die % 8) (dst % 8)
  else
    let n := max 1 s.nmod
    if 2 * ((dst / 8 + n - die / 8 % n) % n) ≤ n then 2 else 3

/-- Where a packet for a die goes on to from a die that it reached by a station (R256): 8 where it has come to its die, else the station by which it
leaves. One in flight on a ring keeps the direction it left by. -/
def State.onward (s : State) (die came dst : Nat) : Nat :=
  if dst = die then 8
  else
    let out := s.routeOf die dst
    if came < 4 && came / 2 == out / 2 then came else out

/-- The bits of a mask of dies that the clockwise copy takes on from die d: those of dies d + 1 to d + 4 (R389). -/
def cwPart (d mask : Nat) : Nat :=
  (List.range 8).foldl (fun n i => if nbits mask i i = 1 && 1 ≤ (i + 8 - d) % 8 && (i + 8 - d) % 8 ≤ 4 then n + 2 ^ i else n) 0
/-- The masks of the modules other than `m` whose dies a multicast copy by a station reaches. -/
def State.outPart (s : State) (die out : Nat) (masks : List Nat) : List Nat :=
  ((range 0 masks.length).zip masks).map (fun e => if e.1 ≠ die / 8 && s.routeOf die (e.1 * 8 + die % 8) = out then e.2 else 0)

/-- The copies of a multicast packet at a die that it reached by a station (R389): one delivered there, those that go on. A ring station clears its own
bit and forwards what remains; at a bridge station that enters a module, and where the packet starts, the module's mask goes into DST and is split between
the two directions; the prefix goes on with the other modules' masks, split among the stations that lead to them. -/
def State.spread (s : State) (die ing : Nat) (p : Packet) : List Packet :=
  let d := die % 8
  let copy (dst out : Nat) (masks : List Nat) : Packet := { p with at_ := die, ing := ing, dst := dst, out := out, masks := masks }
  let own := if p.masks.isEmpty then p.dst else p.masks.getD (die / 8) 0
  let here := if nbits own d d = 1 then [copy die 8 []] else []
  let rest := own - nbits own d d * 2 ^ d
  let some' (n out : Nat) : List Packet := if n = 0 then [] else [copy n out []]
  if p.masks.isEmpty && ing < 2 then here ++ some' rest ing
  else
    let others := if ing = 2 || ing = 3 then [(ing, setAt p.masks (die / 8) 0)] else (List.range 8).map (fun o => (o, s.outPart die o p.masks))
    here ++ some' (cwPart d rest) 0 ++ some' (rest - cwPart d rest) 1 ++
      (others.filter (fun e => e.2.any (· != 0))).map (fun e => copy 0 e.1 e.2)

/-- A packet as it stands at a die that it reached by a station, or its copies. -/
def State.stand (s : State) (die ing : Nat) (p : Packet) : List Packet :=
  if p.op = 6 then s.spread die ing p else [{ p with at_ := die, ing := ing, out := s.onward die ing p.dst }]

/-- A multicast packet for one die carries a prefix with that die's bit alone (log 22). -/
def State.aimed (s : State) (p : Packet) : Packet :=
  if p.op = 6 && p.masks.isEmpty then { p with masks := (range 0 (max s.nmod (p.dst / 8 + 1))).map (fun m => if m = p.dst / 8 then 2 ^ (p.dst % 8) else 0) } else p

/-- Packets join those that stand at a die, each with the next ASEQ of the die (R355). -/
def State.join (s : State) (die : Nat) (ps : List Packet) : State :=
  let a := (s.die die).aseq
  { s.modDie die (fun d => { d with aseq := a + ps.length }) with
    net := s.net ++ ((range a ps.length).zip ps).map (fun e => { e.2 with aseq := e.1 }) }

/-- A packet made at a die stands there (R256). -/
def State.send (s : State) (die : Nat) (p : Packet) : State := s.join die (s.stand die 8 (s.aimed p))

/-- Send a request from a die: it takes the next sequence number of its (destination, VC) and enters the replay window and the
network. A full window holds it back (R390). A copy of R267 keeps its SRC. -/
def State.sendReq (s : State) (die : Nat) (p : Packet) (origin : Nat × Nat × Nat) (tag : Nat × Nat := (0, 0)) : Option (State × Nat) :=
  let d := s.die die
  if d.window.length ≥ 256 then none
  else
    let key := p.dst * 8 + p.vc
    let seq := SMap.get 0 d.seqOut key
    let p := { p with seq := seq, src := if p.via.isSome then p.src else die }
    let s := s.modDie die (fun d =>
      { d with seqOut := SMap.put d.seqOut key ((seq + 1) % 4096), window := d.window ++ [{ pkt := p, sentAt := s.cycle, origin := origin, tag := tag }] })
    some (s.send die p, seq)

/-- Send a packet that is no request: a reply (R383, VC1). -/
def State.sendRaw (s : State) (p : Packet) : State := s.send p.src p

/-! ## On to the home (R237, R243, R251) -/

/-- A write leaves a die station: it takes effect at its home on another die, or goes to its target as a WR request (R251). A full replay
window holds the request back (R390), and then there is nothing. -/
def State.stationWrite (s : State) (die : Nat) (w : BufW) : Option State :=
  if isRemote w.loc then
    let (dst, rkey, off) := remParts w.loc
    (s.sendReq die { op := 2, job := w.job, offs := off, steer := false, vc := 0, seq := 0, dst := dst, src := 0, rkey := rkey, payload := w.bytes }
      (2, w.core, 0) (0, w.va)).map (·.1)
  else some (s.homeWrite w.loc w.bytes)

/-- Writes of a die station, in order, those held back put in front again. -/
def State.stationWrites (s : State) (die : Nat) : List BufW → State
  | [] => s
  | w :: t =>
    match s.stationWrite die w with
    | some s => s.stationWrites die t
    | none => (s.stationWrites die t).modDie die (fun d => { d with station := w :: d.station })

/-- Drain the writes of a die station that meet a test. -/
def State.drainStationAll (s : State) (die : Nat) (p : BufW → Bool) : State :=
  let (out, rest) := bufSplit p (s.die die).station
  (s.modDie die (fun d => { d with station := rest })).stationWrites die out

/-- The scopes of R105: 0 core, 1 cluster, 2 die, 3 module, 4 domain. Make a core's written-back stores visible in a scope (R239,
R243): drain its cluster's buffer, and its die's station; a write that reaches its home on the die over the fabric counts from die scope
on. -/
def State.publish (s : State) (core scope : Nat) : State :=
  let die := coreDie core
  let s := if scope ≥ 2 && !isSystem core then s.drainClusterAll (coreCluster core) (fun w => w.core == core) else s
  if scope ≥ 3 then s.drainStationAll die (fun w => w.core == core)
  else if scope = 2 then s.drainStationAll die (fun w => w.core == core && isRemote w.loc && (remParts w.loc).1 == die)
  else s

/-- Remote writes of a core that a release at a scope still awaits (R239, R251): not yet sent, or not yet acknowledged. At die scope those
whose target is the die itself. -/
def State.unacked (s : State) (core scope : Nat) : Bool :=
  let die := coreDie core
  let counts (dst : Nat) : Bool := scope ≥ 3 || (scope == 2 && dst == die)
  (s.die die).station.any (fun w => w.core == core && isRemote w.loc && counts (remParts w.loc).1) ||
  (s.die die).window.any (fun r => r.origin.1 == 2 && r.origin.2.1 == core && counts r.pkt.dst)

/-! ## Bytes through the translation of a context -/

/-- Read one byte where a translation leads: direct homes, or the core's cached path. -/
def State.readByte (s : State) (core : Nat) (t : Xl) : Byte :=
  match t.rc with
  | .ordinary | .remote => s.cachedByte core t.loc
  | _ => s.byte t.loc

/-- Read n bytes where a translation leads. -/
def State.readAt (s : State) (core : Nat) (t : Xl) (n : Nat) : List Byte :=
  (range 0 n).map (fun i => s.readByte core { t with loc := t.loc + i })

/-- Write bytes into lines that stand in the data cache. -/
def State.cachedWrite (s : State) (core loc : Nat) : List Byte → State
  | [] => s
  | b :: t => (s.cachedSet core loc b).cachedWrite core (loc + 1) t

/-- Write bytes, within one aligned unit, where a translation leads. -/
def State.writeAt (s : State) (x : XCtx) (va : Nat) (t : Xl) (bs : List Byte) : State :=
  match t.rc with
  | .ordinary | .remote => (s.allocLine x va t.loc).cachedWrite x.core t.loc bs
  | _ => s.homeWrite t.loc bs

/-- Whether the device reaches plain bytes there: a home, or host memory (R396), or a line for a remote location. -/
def Xl.plain (t : Xl) : Bool :=
  match t.rc with
  | .scratch | .cluster | .ordinary => true
  | .mmio => isHostMem t.loc
  | _ => false

/-- Store bytes at a VA in units of eight for the device itself (the fault record, images, results): a unit that does not
translate is dropped (DESIGN CHOICE, log 8). -/
def State.putVa (s : State) (x : XCtx) (va : Nat) (bs : List Byte) : Nat → State
  | 0 => s
  | fuel + 1 =>
    if bs.isEmpty then s
    else
      let n := min bs.length (8 - va % 8)
      let s := match s.xlate x va .wr with
        | .ok t => if t.plain then s.writeAt x va t (bs.take n) else s
        | .error _ => s
      s.putVa x (va + n) (bs.drop n) fuel

/-- The cause that a load of n bytes (within an aligned unit) at a VA meets, or its bytes. -/
def State.getUnit (s : State) (x : XCtx) (va n : Nat) : Except Nat (List Byte) :=
  match s.xlate x va .rd with
  | .error c => .error c
  | .ok t => if t.plain then .ok (s.readAt x.core t n) else .error 0x0501

/-- Load n bytes at a VA for the device itself, in units of eight: the bytes, or the first cause and its VA. -/
def State.getVa (s : State) (x : XCtx) (va : Nat) : Nat → Except (Nat × Nat) (List Byte)
  | 0 => .ok []
  | n + 1 =>
    match s.getUnit x va 1, s.getVa x (va + 1) n with
    | .ok b, .ok t => .ok (b ++ t)
    | .error c, _ => .error (c, va)
    | _, .error e => .error e

/-! ## Register writes -/

/-- Set a g register; a write to g0 is discarded (R48). -/
def Regs.setG (r : Regs) (n : Nat) (v : Word) : Regs := if n = 0 then r else { r with g := SMap.put r.g n v }
/-- Set a predicate; a write to p0 is discarded (R49). -/
def Regs.setP (r : Regs) (n : Nat) (v : Word) : Regs := if n = 0 then r else { r with p := SMap.put r.p n v }
def Regs.setK (r : Regs) (n : Nat) (v : BitVec 32) : Regs := { r with k := SMap.put r.k n v }
def Regs.setH (r : Regs) (n : Nat) (v : Shape) : Regs := { r with h := SMap.put r.h n v }
def Regs.setPort (r : Regs) (n : Nat) (v : Port) : Regs := { r with ports := SMap.put r.ports n v }

/-- OR flags into AFLAGS of the context in issue (R61). -/
def State.flag (s : State) (f : Flags) : State := s.modR (fun r => { r with aflags := r.aflags ||| f })

/-! ## Events to the system core (R315, R324, R325) -/

/-- The key of a die's system core. -/
def sysCore (die : Nat) : Nat := die * 128 + 64

/-- Add to a 64-bit word at a home. -/
def State.addWord (s : State) (a : Nat) (n : Nat) : State :=
  s.homeWrite a (bytesOf 8 (ofBytes (s.bytesAt a 8) + n))

/-- An event for the system core of a die (R325): the record if the ring has room, the write index, the pending count, the EVT bit. -/
def State.event (s : State) (die ebit cause : Nat) (src : Option Nat) (job : Nat) (addr aux : Word) : State :=
  let sc := s.core (sysCore die)
  let area := homePa (die / 8) (bits sc.evtarea 51 0)
  let ew := ofBytes (s.bytesAt (area + 0x40) 8)
  let er := ofBytes (s.bytesAt (area + 0x48) 8)
  let seq := (s.die die).eseq
  let w0 := cause * 2 ^ 48 + ebit * 2 ^ 45 + (match src with | some c => 2 ^ 44 + c * 2 ^ 34 | none => 0) + job
  let rec_ := bytesOf 8 w0 ++ bytesOf 8 addr.toNat ++ bytesOf 8 aux.toNat ++ bytesOf 8 seq
  let s := if wrap ((ew : Int) - er) 64 = 1024 then s.addWord (area + 0x50) 1
           else (s.homeWrite (area + 0x1000 + 32 * (ew % 1024)) rec_).homeWrite (area + 0x40) (bytesOf 8 (ew + 1))
  let s := s.addWord (area + 8 * ebit) 1
  let s := s.modDie die (fun d => { d with eseq := d.eseq + 1 })
  s.modCore (sysCore die) (fun c => { c with evt := c.evt ||| w64 (2 ^ ebit) })

/-- An entry of the error ring of a die (R406). LOST of the next entry counts what this one overwrites. -/
def State.errorRecord (s : State) (die unit cause pa : Nat) : State :=
  let d := s.die die
  let area := homePa (die / 8) (bits (s.core (sysCore die)).evtarea 51 0)
  let ix := ofBytes (s.bytesAt (area + 0x68) 8)
  let w0 := cause * 2 ^ 48 + unit * 2 ^ 40 + d.ringLost * 2 ^ 32 + (SMap.get 0 d.cecnt unit).toNat
  let s := s.homeWrite (area + 0x9800 + 32 * (ix % 256)) (bytesOf 8 w0 ++ bytesOf 8 pa ++ List.replicate 16 0)
  (s.homeWrite (area + 0x68) (bytesOf 8 (ix + 1))).modDie die (fun d => { d with ringLost := if 256 ≤ ix then 1 else 0 })

/-- An entry of the host-reject ring (R325, R380): of the die whose port took the request. -/
def State.hostReject (s : State) (md port kind rid addr : Nat) : State :=
  let area := homePa md (bits (s.core (sysCore (md * 8 + port * 4))).evtarea 51 0)
  let ix := ofBytes (s.bytesAt (area + 0x58) 8)
  let w0 := port * 2 ^ 24 + kind * 2 ^ 16 + rid % 2 ^ 16
  let s := s.homeWrite (area + 0x9000 + 32 * (ix % 64)) (bytesOf 8 w0 ++ bytesOf 8 addr ++ bytesOf 8 s.cycle.toNat ++ List.replicate 8 0)
  (s.homeWrite (area + 0x58) (bytesOf 8 (ix + 1))).addWord (area + 0x60) 1

/-! ## The fault record (R317, R318) -/

/-- The bytes of a shape (R55). -/
def Shape.words (h : Shape) : List Word := [h.w0, h.w1, h.w2, h.w3, h.w4, h.w5, h.w6, h.w7]
def Shape.bytes (h : Shape) : List Byte := h.words.flatMap (fun w => bytesOf 8 w.toNat)
def Shape.ofWords (ws : List Word) : Shape := ⟨wd ws 0, wd ws 1, wd ws 2, wd ws 3, wd ws 4, wd ws 5, wd ws 6, wd ws 7⟩
def Shape.ofBytes (bs : List Byte) : Shape := Shape.ofWords (wordsOf 8 bs)

/-- Rank (R55), with RANKM1 above 3 taken as malformed elsewhere. -/
def Shape.rank (h : Shape) : Nat := bits h.w1 7 5 + 1
/-- Extent of dimension i; one at or above the rank. -/
def Shape.ext (h : Shape) (i : Nat) : Nat :=
  if i < h.rank then (match i with | 0 => bits h.w2 31 0 | 1 => bits h.w2 63 32 | 2 => bits h.w3 31 0 | _ => bits h.w3 63 32) else 1
/-- The number of elements, or rows, of a walk (R57, R193). -/
def Shape.count (h : Shape) : Nat := h.ext 0 * h.ext 1 * h.ext 2 * h.ext 3

/-- The counters c0 to c3 of a port (R57): the digits of its position; past the end the highest used dimension stands at its extent. -/
def Port.counters (p : Port) : List Nat :=
  let e := p.shape.ext
  match p.shape.rank with
  | 1 => [p.pos, 0, 0, 0]
  | 2 => [p.pos % max 1 (e 0), p.pos / max 1 (e 0), 0, 0]
  | 3 => [p.pos % max 1 (e 0), p.pos / max 1 (e 0) % max 1 (e 1), p.pos / max 1 (e 0 * e 1), 0]
  | _ => [p.pos % max 1 (e 0), p.pos / max 1 (e 0) % max 1 (e 1), p.pos / max 1 (e 0 * e 1) % max 1 (e 2), p.pos / max 1 (e 0 * e 1 * e 2)]
/-- The position that counters stand for. -/
def posOf (h : Shape) (c : List Nat) : Nat :=
  c.getD 0 0 + h.ext 0 * (c.getD 1 0 + h.ext 1 * (c.getD 2 0 + h.ext 2 * c.getD 3 0))

/-- A port entry of the record: shape, then the counters; zero when unbound (R318). -/
def Port.entry (p : Port) : List Byte :=
  if p.bound then p.shape.bytes ++ p.counters.flatMap (fun n => bytesOf 4 n) else List.replicate 80 0

/-- Element i of a row of the vector file under a budget (R52, R53): the physical key, if the view holds it. -/
def vkey (vb : Bool) (ctx n lane : Nat) : Option Nat :=
  if vb then some (n * 64 + lane) else if n < 32 then some ((32 * ctx + n) * 64 + lane) else none
/-- A row as lanes 0 to 63, zero where the view holds nothing. -/
def rowOf (vf : SMap Lane) (vb : Bool) (ctx n : Nat) : List Lane :=
  (range 0 64).map (fun i => match vkey vb ctx n i with | some k => SMap.get 0 vf k | none => 0)

/-- Whether a slot is present and not completed. -/
def Iss.pendingSlot (i : Iss) (slot : Nat) : Bool := i.has slot && !i.cmask.getLsbD slot

/-- The C slot's operand (R318): the g register it reads, the predicate of `bpany` and `bpall`, g31 for `ret`. -/
def cLatch (i : Iss) : Word :=
  let w := i.word 0
  let op := (w.extractLsb' 0 8).toNat
  let f := (w.extractLsb' 8 5).toNat
  if op = 0x0C || op = 0x0D then i.sync.rp f
  else if op = 0x12 then i.sync.rg 31
  else if op = 0x01 || op = 0x02 || op = 0x28 || op = 0x38 || op = 0x39 || (0x24 ≤ op && op ≤ 0x27) then 0
  else i.sync.rg f

/-- A word of the X slot that reads the literal (R191). -/
def xLit (w : Lane) : Bool :=
  let op := (w.extractLsb' 0 8).toNat
  (op == 4 || (0x10 ≤ op && op ≤ 0x13)) && w.getLsbD 31

/-- The X slot's operand (R318): its g register, or the literal for LITF forms. -/
def xLatch (i : Iss) : Word :=
  let w := i.word 6
  if xLit w then i.lit.signExtend 64
  else i.sync.rg (w.extractLsb' 21 5).toNat

/-- The X slot's shapes (R196, R318): hS, hD and the index shape. -/
def xShapes (i : Iss) : List Byte :=
  let w := i.word 6
  let op := (w.extractLsb' 0 8).toNat
  let sN := (w.extractLsb' 8 4).toNat
  let dN := (w.extractLsb' 12 4).toNat
  let ix := if op = 2 then (sN + 1) % 16 else (dN + 1) % 16
  if op = 1 || op = 4 || op = 0x20 then (i.sync.rh sN).bytes ++ (i.sync.rh dN).bytes ++ List.replicate 64 0
  else if op = 2 || op = 3 then (i.sync.rh sN).bytes ++ (i.sync.rh dN).bytes ++ (i.sync.rh ix).bytes
  else List.replicate 192 0

/-- The Y slot's rows (R318): the index and compare rows of a vamo, or the key or tuple of a Drift request. -/
def yRows (i : Iss) (vb : Bool) (ctx : Nat) : List Byte :=
  let w := i.word 7
  let op := (w.extractLsb' 0 8).toNat
  let v := (w.extractLsb' 13 5).toNat + 32 * b2n (w.getLsbD 31)
  let row (n : Nat) : List Byte := (rowOf i.syncV vb ctx (n % 64)).flatMap (fun l => bytesOf 4 l.toNat)
  if 0x09 ≤ op && op ≤ 0x10 then
    (if w.getLsbD 30 then row (v + 1) ++ row (v + 2) else row (v + 1) ++ List.replicate 256 0)
  else if 0x28 ≤ op && op ≤ 0x2D then (row v).take 64 ++ List.replicate 448 0
  else List.replicate 512 0

/-- The fault record of the bundle in issue (R317, R318). -/
def faultRecord (i : Iss) (level : BitVec 2) (vb : Bool) (ctx cause slot : Nat) (addr aux : Word) : List Byte :=
  let z (n : Nat) : List Byte := List.replicate n (0 : Byte)
  let q (w : Word) : List Byte := bytesOf 8 w.toNat
  let on (slot : Nat) (bs : List Byte) : List Byte := if i.pendingSlot slot then bs else z bs.length
  let yw := i.word 7
  let w1 := 2 ^ 63 + level.toNat * 2 ^ 61 + ctx * 2 ^ 60 + b2n i.att * 2 ^ 58 + i.cmask.toNat * 2 ^ 48 + i.pres * 2 ^ 40 + slot * 2 ^ 32 + cause
  bytesOf 8 (bits i.baddr 55 0) ++ bytesOf 8 w1 ++ q addr ++ q aux ++ q i.lmask ++ q i.lat.portStatus ++ z 16
  ++ q i.guard ++ on 0 (q (cLatch i)) ++ on 6 (q (xLatch i))
  ++ on 7 (q (i.sync.rg (yw.extractLsb' 8 5).toNat) ++ q (i.sync.rg (yw.extractLsb' 13 5).toNat) ++ q (i.sync.rg (yw.extractLsb' 18 5).toNat))
  ++ z 16 ++ on 6 (xShapes i) ++ on 7 (yRows i vb ctx) ++ z 192
  ++ (List.range 12).flatMap (fun n => (i.lat.port n).entry) ++ z 64

/-! ## Taking an exception (R316) -/

/-- The mapped segment of a level that holds a VA, on a die. -/
def Die.segAt (d : Die) (job : Nat) (monitor : Bool) (va : Nat) : Option Segment :=
  d.segs.find? (fun g => g.monitor == monitor && (monitor || g.job == job) && g.va ≤ va && va < g.va + g.size)

/-- Reload the scratchpad bounds from the segment that holds an address (R373). -/
def State.loadBounds (s : State) (p : Place) (va : Nat) : State :=
  let c := s.ctxAt p
  match (s.die (coreDie p.core)).segAt (bits c.r.jobId 9 0) (c.y.level != 0) va with
  | some g => s.modCtxAt p (fun c => { c with y := { c.y with splo := g.splo, sphi := g.sphi } })
  | none => s

/-- The address of the row `k` rows past a port's position, exact (R57). -/
def rowAddr (p : Port) (k : Nat) : Int :=
  let h := p.shape
  let c := { p with pos := p.pos + k }.counters
  let st (i : Nat) : Int := match i with | 0 => sext (bits h.w4 31 0) 32 | 1 => sext (bits h.w4 63 32) 32 | 2 => sext (bits h.w5 31 0) 32 | _ => sext (bits h.w5 63 32) 32
  let og (i : Nat) : Int := match i with | 0 => bits h.w6 15 0 | 1 => bits h.w6 31 16 | 2 => bits h.w6 47 32 | _ => bits h.w6 63 48
  (List.range h.rank).foldl (fun a i => a + (og i + c.getD i 0) * st i) (bits h.w0 55 0)

/-- Write a pushed row at the port's current row; nothing past the end of the walk or through an unbound port (R59). -/
def State.pushRow (s : State) (x : XCtx) (port : Port) (w : Push) : State :=
  if port.bound && port.pos < port.shape.count then
    let a := rowAddr port 0
    (range 0 64).foldl (fun s i =>
      if w.mask.getLsbD i then
        match s.xlate x (a + 4 * i).toNat .wr with
        | .ok t => s.writeAt x (a + 4 * i).toNat t (bytesOf 4 (w.lanes.getD i 0).toNat)
        | .error _ => s
      else s) s
  else s

/-- The rows that completed slots of a bundle push (R58). -/
def State.pushAll (s : State) (x : XCtx) (i : Iss) : State := i.push.foldl (fun s w => s.pushRow x (i.lat.port (8 + w.port)) w) s

/-- The pushes of the bundle in issue take effect (R58, R174). At a trap they are those of completed slots: the rows are written
and no port advances (R321; DEDUCED, log 23). -/
def State.doPushes (s : State) : State := (s.pushAll s.xc s.iss).modIss (fun i => { i with push := [] })

/-- The context stops as a forwarded fault and the system core learns of it (R316, R405). -/
def State.forward (s : State) (cause : Nat) (addr : Word) : State :=
  let p := s.cur
  let s := s.modCx (fun c => { c with run := .stopped, held := none })
  s.event (coreDie p.core) 1 cause (some (coreId p.core p.ctx)) (bits (s.ctxAt p).r.jobId 9 0) addr 0

/-- Enter root on a system core (R316, R378): MCAUSE, MEPC, LEVEL and the place where root starts. -/
def State.enterRoot (s : State) (p : Place) (cause : Nat) (mepc : Word) : State :=
  s.modCtxAt p (fun c => { c with r := { c.r with pc := Config.rootVector (coreDie p.core) },
                                  y := { c.y with mcause := w64 cause, mepc := mepc, level := 2 }, held := none, off := false })

/-- Take an exception in the acting slot (R316): the record at TREC, then monitor level at TVEC; a forwarded fault where
TPOL.FWD or monitor level on a compute core says so, and for an uncorrectable error; root for one above task level on a system core. `ret` is the address
root is to resume at. -/
def State.trapAt (s : State) (cause slot : Nat) (addr aux : Word) (ret : Word) : State :=
  let p := s.cur
  let c := s.cx
  let s := s.doPushes
  let s := s.modIss (fun i => { i with trapped := true })
  if isSystem p.core && c.y.level ≠ 0 then
    let s := s.enterRoot p cause ret
    s.event (coreDie p.core) 5 0x0F05 none 0 addr 0
  else
    let s := s.putVa { s.xc with level := 1 } (vaOf c.y.trec) (faultRecord { s.iss with att := false } c.y.level c.t.vb p.ctx cause slot addr aux) 2048
    if bit c.y.tpol 1 || c.y.level ≠ 0 || cause / 256 = 0x0F then s.forward cause addr
    else
      let s := s.modCx (fun c => { c with r := { c.r with pc := c.y.tvec }, y := { c.y with level := 1 }, held := none, off := false })
      s.loadBounds p (vaOf c.y.tvec)

/-- A fault of the acting slot (R6, R316). -/
def State.takeTrap (s : State) (cause : Nat) (addr : Word) : State := s.trapAt cause s.iss.slot addr 0 s.iss.baddr

/-- A write of a value below SLIM to g30 (R62). -/
def State.lowSp (s : State) (d : BitVec 5) (v : Word) : Bool := d.toNat == 30 && v < s.cx.r.slim

/-- Write a g register with the check of R62: a value below SLIM for g30 is a stack-limit fault. -/
def State.wg (s : State) (d : BitVec 5) (v : Word) : State :=
  if s.lowSp d v then s.takeTrap 0x0701 v else s.modR (fun r => r.setG d.toNat v)

/-- Write a g register and OR flags, or take the stack-limit fault and set none (R61, R62). -/
def State.wgf (s : State) (d : BitVec 5) (v : Word) (f : Flags) : State :=
  if s.lowSp d v then s.takeTrap 0x0701 v else (s.flag f).modR (fun r => r.setG d.toNat v)

/-- The acting slot waits: its bundle is held (R24). -/
def State.hold (s : State) : State := s.modIss (fun i => { i with wait := true })

/-- A privilege fault (R312, R313). -/
def State.privilege (s : State) : State := s.takeTrap 0x1201 0

end Sys2Proof.Machine
end

