-- ==== Sys2Proof/Machine/Operands.lean ====
section
/-! DEFINITION. Operand forms: views of the vector file (R52, R53), rows of ports (R57 to R59, R162), the effective addresses and
checks of the L and Y slots (R171 to R173). -/

namespace Sys2Proof.Machine

/-! ## Views -/

/-- The physical lane of element `i` of a view, if the view holds it (R52, R53). Port views hold no lane of the file. -/
def viewKey (vb : Bool) (ctx : Nat) (b : BitVec 8) (i : Nat) : Option Nat :=
  let n := b.toNat % 64
  let row (r : Nat) (lane : Nat) : Option Nat :=
    if vb then some (r * 64 + lane) else if r < 32 then some ((32 * ctx + r) * 64 + lane) else none
  match b.toNat / 64 with
  | 0 => row n i
  | 1 => row i n
  | 2 => row i ((i + n) % 64)
  | _ => none

/-- A byte names a port view. -/
def isPort (b : BitVec 8) : Bool := b.toNat / 64 == 3
/-- The port a view byte names. -/
def portNo (b : BitVec 8) : Nat := b.toNat % 8

/-- ViewRd (R6, R52): the 64 elements of a view as latched at issue; a port view is the row popped for the bundle (R58). -/
def State.viewRd (s : State) (b : BitVec 8) : List Lane :=
  if isPort b then lanesOf 64 (SMap.get [] s.iss.rows (portNo b))
  else (range 0 64).map (fun i => match viewKey s.cx.t.vb s.cur.ctx b i with
    | some k => SMap.get 0 s.iss.latV k
    | none => 0)

/-- The elements of a mask that an instruction of Lanes() elements writes (R132). -/
def State.lim (s : State) (m : Word) : Word := if s.cx.t.vb then m else m &&& 0xFFFFFFFF

/-- Write the elements of a view that a mask selects and the view holds, from index `i` up. -/
def writeView (vb : Bool) (ctx : Nat) (b : BitVec 8) (m : Word) : Nat → List Lane → SMap Lane → SMap Lane
  | _, [], f => f
  | i, v :: t, f =>
    let f := if m.getLsbD i then (match viewKey vb ctx b i with | some k => SMap.put f k v | none => f) else f
    writeView vb ctx b m (i + 1) t f

/-- ViewWr (R6, R132): a port view pushes its row (R58). -/
def State.viewWr (s : State) (b : BitVec 8) (vals : List Lane) (m : Word) : State :=
  if isPort b then s.modIss (fun i => { i with push := i.push ++ [⟨b.toNat % 4, vals, s.lim m⟩] })
  else s.modCo (fun c => { c with vfile := writeView s.cx.t.vb s.cur.ctx b (s.lim m) 0 vals c.vfile })

/-- Write the bits of a predicate that the guard enables; under a 32-register budget bits 32 to 63 become zero (R132, R49). -/
def State.predWr (s : State) (d : BitVec 4) (v : Word) : State :=
  let m := s.lim s.en
  let old := s.iss.lat.rp d.toNat
  let new := (v &&& m) ||| (old &&& ~~~m)
  s.modR (fun r => r.setP d.toNat (if s.cx.t.vb then new else new &&& 0xFFFFFFFF))

/-- A word from a test on each bit. -/
def wordFrom (f : Nat → Bool) : Word := w64 ((List.range 64).foldl (fun a i => a + b2n (f i) * 2 ^ i) 0)

/-! ## Port rows -/

/-- A cause with the address it names. -/
abbrev Bad := Nat × Word

/-- The address of a row as a VA of 56 bits. -/
def va56 (a : Int) : Nat := wrap a 56

/-- Byte `i` of a row address lies in a fixed window the context reaches (R57, R59, R373). -/
def State.rowByte (s : State) (x : XCtx) (a : Int) (i : Nat) : Except Nat Xl :=
  let b := a + i
  if b < 2 ^ 55 || 2 ^ 56 ≤ b then .error 0x0403 else s.window x b.toNat

/-- The first byte of a row outside its window, with the cause. -/
def State.rowBad (s : State) (x : XCtx) (a : Int) (w : Nat) : Option Bad :=
  (range 0 w).findSome? (fun i => match s.rowByte x a i with
    | .ok _ => none
    | .error c => some (c, w64 (va56 (a + i))))

/-- The first byte of a row that lies in a poisoned word, as a machine check of its SRAM (R405). -/
def State.rowPoison (s : State) (a : Int) (w : Nat) : Option Bad :=
  if s.poison.isEmpty then none
  else (range 0 w).findSome? (fun i => match s.rowByte s.xc a i with
    | .ok t => if s.poisoned t.loc 1 then some (0x0F01, w64 (va56 (a + i))) else none
    | .error _ => none)

/-- The checks of a row of width `w` (R59): window, then alignment, in the order of R163 (log 82). Rows past the end and of unbound ports are not checked. -/
def State.rowChecks (s : State) (p : Port) (w : Nat) : Option Bad :=
  if p.bound && p.pos < p.shape.count then
    let a := rowAddr p 0
    match s.rowBad s.xc a w with
    | some b => some b
    | none => if a % 4 ≠ 0 then some (0x0801, w64 (va56 a)) else none
  else none

/-- The checks of a popped row: those of a row, then the poison that its read meets (R59, R405). -/
def State.popBad (s : State) (p : Port) (w : Nat) : Option Bad :=
  match s.rowChecks p w with
  | some b => some b
  | none => if p.bound && p.pos < p.shape.count then s.rowPoison (rowAddr p 0) w else none

/-- The checks of a pushed row (R59): window, alignment, then WR. R59 gives the three checks and R163 an order for the M slot alone; for the V, W
and L slots this order is the model's (DESIGN CHOICE, log 82). -/
def State.pushBad (s : State) (p : Port) : Option Bad :=
  match s.rowChecks p 256 with
  | some b => some b
  | none => if p.bound && p.pos < p.shape.count && !bit p.shape.w0 56 then some (0x0601, w64 (va56 (rowAddr p 0))) else none

/-- The bytes of the row `k` rows past a port's position; zeros past the end and for an unbound port (R59, R162). -/
def State.rowAt (s : State) (p : Port) (k w : Nat) : List Byte :=
  if p.bound && p.pos + k < p.shape.count then
    let a := rowAddr p k
    (range 0 w).map (fun i => match s.rowByte s.xc a i with | .ok t => s.byte t.loc | .error _ => 0)
  else List.replicate w 0

/-- A port after taking n rows (R57, R59): the exhausted bit is set by a row past the end or of an unbound port. A move that ends right behind the last row
leaves it as it is, that of `padv` too (R183; DESIGN CHOICE, log 97). -/
def Port.advance (p : Port) (n : Nat) : Port :=
  if n = 0 then p
  else if !p.bound then { p with exh := true }
  else if p.pos + n ≤ p.shape.count then { p with pos := p.pos + n }
  else { p with pos := p.shape.count, exh := true }

/-- Ports after the rows that a bundle takes from each. -/
def advanced (takes : SMap Nat) (ports : SMap Port) : SMap Port := takes.foldl (fun m t => SMap.put m t.1 ((SMap.get {} m t.1).advance t.2)) ports

/-- The ports of a completed bundle advance by the rows it takes (R58, R321). -/
def State.advancePorts (s : State) : State :=
  (s.modR (fun r => { r with ports := advanced s.iss.takes r.ports })).modIss
    (fun i => { i with takes := [] })

/-- Reserved bits, rank and format of a shape (R4, R5, R55). -/
def Shape.unassigned (h : Shape) : Bool :=
  bits h.w0 63 59 ≠ 0 || bits h.w1 31 8 ≠ 0 || bits h.w1 7 5 > 3 || bits h.w1 4 0 > 0x0C || bits h.w7 63 32 ≠ 0
/-- A malformed shape: what R55 says, and block scales on a format that has none (R74). -/
def Shape.malformed (h : Shape) : Bool :=
  h.unassigned || (bit h.w0 58 && bits h.w1 4 0 ≠ 0x0B && bits h.w1 4 0 ≠ 0x0C)

/-! ## Rows of the M slot (R158, R162, R163) -/

/-- Bytes per activation row by format (R158); `accscale` takes 256 bytes (R169). -/
def matBytes (fmt : Nat) : Nat :=
  match fmt with
  | 0x00 | 0x01 | 0x0B => 128
  | 0x0C => 192
  | _ => 256
/-- Elements per activation row (R158). -/
def matElems (fmt : Nat) : Nat := if fmt = 0x0C then 256 else if fmt = 0x0A then 64 else 128

/-- The byte offset from BASE of element `i` of a row at byte offset `off` (R74): for nt6 of the element's group. -/
def elemOff (fmt : Nat) (off : Int) (i : Nat) : Int := off + (if fmt = 0x0C then i / 4 * 3 else i : Nat)
/-- The offset of the scale byte of element `i` of a row at byte offset `off` from BASE (R74). With an instruction format that is not the shape's,
or that has no block scales, the scale bytes that check 2 of R163 covers are those of the instruction's format (DESIGN CHOICE, log 81). -/
def scaleIx (fmt : Nat) (off : Int) (i : Nat) : Int :=
  if fmt = 0x0C then ((off + (i / 4 * 3 : Nat)) * 4 / 3 + (i % 4 : Nat)) / 32 else (off + i) / 32

/-- The address of the scale byte of element `i` of the row `k` rows past a port's position (R74). -/
def scaleAddr (p : Port) (fmt k i : Nat) : Int :=
  let base : Int := bits p.shape.w0 55 0
  base + bits p.shape.w7 31 0 + scaleIx fmt (rowAddr p k - base) i

/-- A row of the M slot with its scale bytes, none when BSC = 0 (R162, R75). -/
def State.mrowAt (s : State) (p : Port) (fmt k : Nat) : List Byte × List Byte :=
  (s.rowAt p k (matBytes fmt),
   if bit p.shape.w0 58 && p.bound && p.pos + k < p.shape.count then
     (range 0 (matElems fmt)).map (fun i => match s.rowByte s.xc (scaleAddr p fmt k i) 0 with | .ok t => s.byte t.loc | .error _ => 0)
   else [])

/-- Checks 2 and 3 of R163 over the rows of an M-slot instruction inside the walk: every row's bytes then its scale bytes, in walk
order; then alignment. Check 4: the shape. Last the poison that reading the rows meets (R405). -/
def State.mrowsBad (s : State) (p : Port) (fmt count : Nat) : Option Bad :=
  let inside := (range 0 count).filter (fun k => p.bound && p.pos + k < p.shape.count)
  let bsc := bit p.shape.w0 58
  let neg (k : Nat) : Bool := rowAddr p k < bits p.shape.w0 55 0
  let two := inside.findSome? (fun k =>
    match s.rowBad s.xc (rowAddr p k) (matBytes fmt) with
    | some b => some b
    | none =>
      if bsc then (range 0 (matElems fmt)).findSome? (fun i =>
        if elemOff fmt (rowAddr p k - bits p.shape.w0 55 0) i < 0 then none else s.rowBad s.xc (scaleAddr p fmt k i) 1)
      else none)
  match two with
  | some b => some b
  | none =>
    match inside.find? (fun k => rowAddr p k % 4 ≠ 0) with
    | some k => some (0x0801, w64 (va56 (rowAddr p k)))
    | none =>
      if p.bound && !inside.isEmpty && (p.shape.malformed || (bsc && bits p.shape.w1 4 0 ≠ fmt) || (bsc && inside.any neg))
      then some (0x0A02, 0)
      else inside.findSome? (fun k => match s.rowPoison (rowAddr p k) (matBytes fmt) with
        | some b => some b
        | none => if bsc then (range 0 (matElems fmt)).findSome? (fun i => s.rowPoison (scaleAddr p fmt k i) 1) else none)

/-! ## Effective addresses and checks (R171 to R173) -/

/-- EA of the L slot (R171): gB plus the signed offset times the scale. -/
def State.ea (s : State) (b : BitVec 5) (o : BitVec 13) (scale : Nat) : Word := s.ra b + BitVec.ofInt 64 (o.toInt * scale)

/-- The VA that a fault names for byte `i` of an access at an effective address. -/
def faultVa (ea : Word) (i : Nat) : Word := if canonical ea then w64 (wrap ((vaOf ea : Int) + i) 56) else ea + w64 i

/-- The poison that a read of n bytes of a translation meets (R405): SRAM, or HBM and the bulk tier, or a word of a remote page that a dirty line
has lost. -/
def State.readPoison (s : State) (core : Nat) (t : Xl) (n : Nat) : Option Nat :=
  match t.rc with
  | .scratch | .cluster => if s.poisoned t.loc n then some 0x0F01 else none
  | .ordinary => if s.cachePoison core t.loc n then some 0x0F02 else none
  | .remote => if s.cachePoison core t.loc n then some 0x0F01 else none
  | _ => none

/-- The translation of n bytes within one page: what the first reaches. The windows are bounded byte by byte (R326). -/
def State.xlSpan (s : State) (x : XCtx) (acc : Acc) (n : Nat) (ea : Word) : Except Bad Xl :=
  match s.xlateEa x ea acc with
  | .error c => .error (c, faultVa ea 0)
  | .ok t =>
    let late (i : Nat) : Option Bad := match s.xlateEa x (faultVa ea i) acc with | .ok _ => none | .error c => some (c, faultVa ea i)
    match (if t.rc == .scratch || t.rc == .cluster then (range 1 (n - 1)).findSome? late else none) with
    | some b => .error b
    | none => .ok t

/-- Check 3 of R173 on one element of n bytes: what its first byte reaches. -/
def State.xlElem (s : State) (acc : Acc) (n : Nat) (ea : Word) : Except Bad Xl := s.xlSpan s.xc acc n ea

/-- Whether the class of a page takes the access (R172): MMIO only scalar accesses of 4 and 8 bytes. -/
def classOk (scalar : Bool) (n : Nat) (t : Xl) : Bool :=
  match t.rc with
  | .mcast | .drift => false
  | .mmio => scalar && (n == 4 || n == 8)
  | _ => true

/-- Checks 2 to 4 of R173 over the enabled elements, lowest first within each check; then the poison of R405 for a read. -/
def State.access (s : State) (acc : Acc) (n : Nat) (scalar : Bool) (align : Nat) (els : List (Nat × Word)) : Except Bad (List (Nat × Word × Xl)) :=
  match els.find? (fun e => e.2.toNat % align ≠ 0) with
  | some e => .error (0x0801, e.2)
  | none =>
    match els.mapM (fun e => (s.xlElem acc n e.2).map (fun t => (e.1, e.2, t))) with
    | .error b => .error b
    | .ok l =>
      match l.find? (fun e => !classOk scalar n e.2.2) with
      | some e => .error (0x0501, faultVa e.2.1 0)
      | none =>
        match (if acc = .wr then none else l.findSome? (fun e => (s.readPoison s.cur.core e.2.2 n).map (fun c => (c, faultVa e.2.1 0)))) with
        | some b => .error b
        | none => .ok l

/-- Check 1 of R173 (R62): base g30 and the lowest byte below SLIM, of all elements (DESIGN CHOICE, log 96). -/
def State.stackBad (s : State) (base : BitVec 5) (els : List (Nat × Word)) : Option Bad :=
  if base.toNat = 30 then
    match els with
    | [] => none
    | e :: t =>
      let low := t.foldl (fun a b => if b.2 < a then b.2 else a) e.2
      if low < s.cx.r.slim then some (0x0702, low) else none
  else none

/-- Checks 1 to 4 of R173. -/
def State.checked (s : State) (base : BitVec 5) (acc : Acc) (n : Nat) (scalar : Bool) (align : Nat) (els : List (Nat × Word)) :
    Except Bad (List (Nat × Word × Xl)) :=
  match s.stackBad base els with
  | some b => .error b
  | none => s.access acc n scalar align els

/-- The lines that are stale for the elements of an access leave the data cache before it reads them (R246). -/
def State.freshen (s : State) (els : List (Nat × Word × Xl)) : State :=
  els.foldl (fun s e => match e.2.2.rc with
    | .ordinary | .remote => s.dropStale s.xc (vaOf e.2.1) e.2.2.loc
    | _ => s) s

/-- A remote line whose bytes a read needs and the data cache does not hold (R172; DEDUCED, log 17). -/
def State.missing (s : State) (n : Nat) (els : List (Nat × Word × Xl)) : Option (Word × Nat) :=
  els.findSome? (fun e =>
    if isRemote e.2.2.loc then
      match s.lineAt s.cur.core e.2.2.loc with
      | some l => if maskFrom (e.2.2.loc % 64) n &&& ~~~l.valid = 0 then none else some (e.2.1, e.2.2.loc)
      | none => some (e.2.1, e.2.2.loc)
    else none)

/-- The answer to the bundle in issue is taken. -/
def State.clearReq (s : State) : State := s.modIss (fun i => { i with resp := none, req := none })
/-- The fabric fault of a refusal (R172, R393). -/
def nackCause (reason : Nat) : Nat := if reason = 3 then 0x0C02 else 0x0C01

/-- The bundle in issue sends a request and is held until its answer; it is held too where the replay window is full (R390). -/
def State.request (s : State) (p : Packet) (tag : Nat × Nat) : State :=
  match s.sendReq (coreDie s.cur.core) p (0, s.cur.core, s.cur.ctx) tag with
  | some (s, seq) => (s.modIss (fun i => { i with req := some (p.dst, p.vc, seq), resp := none })).hold
  | none => s.hold

/-- The request that reads a line behind a remote window (R172, R251). -/
def lineRead (job loc : Nat) : Packet :=
  let (die, rkey, off) := remParts (loc / 64 * 64)
  { op := 1, job := job, offs := off, steer := false, vc := 0, seq := 0, dst := die, src := 0, rkey := rkey, rlen := 64, payload := [] }

/-- The writes to n bytes of a remote location leave the buffers that a core's accesses pass, those of its die's station for a unit of the die, so that a read
of them follows (R237, R239, R390): whether they have left. -/
def State.flushSpan (s : State) (core loc n : Nat) : Bool × State :=
  let span : BufW := { loc := loc, bytes := List.replicate n 0, core := 0, job := 0 }
  let die := coreDie core
  let s := (if isSystem core then s else s.drainClusterAll (coreCluster core) (·.meets span)).drainStationAll die (·.meets span)
  (!(s.die die).station.any (·.meets span), s)

/-- Fetch a remote line for the context in issue: an RD of 64 bytes, held until its answer; a refusal is the fabric fault of check 5
(R172, R393). -/
def State.fetchRemote (s : State) (ea : Word) (loc : Nat) : State :=
  match s.iss.resp with
  | some (.nack r) => s.clearReq.takeTrap (nackCause r) (faultVa ea 0)
  | _ =>
    if s.iss.req.isSome then s.hold
    else match s.flushSpan s.cur.core (loc / 64 * 64) 64 with
      | (true, s) => s.request (lineRead s.xc.job loc) (s.xc.asid, vaOf ea / 64 * 64)
      | (false, s) => s.hold

/-- Check 5 of R173 for a store of elements of n bytes to remote windows (R172, R393): each is asked of its target, in order, before anything
is written, by a WR without bytes that ends where the element ends (DEDUCED, log 17). True when every target takes its elements. -/
def State.askRemote (s : State) (n : Nat) (els : List (Nat × Word × Xl)) : Bool × State :=
  let rem := els.filter (fun e => isRemote e.2.2.loc)
  match s.iss.resp, rem[s.iss.acks]? with
  | some (.nack r), some e => (false, s.clearReq.takeTrap (nackCause r) (faultVa e.2.1 0))
  | r, _ =>
    let s := if r.isSome then s.clearReq.modIss (fun i => { i with acks := i.acks + 1 }) else s
    match rem[s.iss.acks]? with
    | none => (true, s)
    | some e =>
      if s.iss.req.isSome then (false, s.hold)
      else
        let (die, rkey, off) := remParts e.2.2.loc
        (false, s.request { op := 2, job := s.xc.job, offs := off + n, steer := false, vc := 0, seq := 0, dst := die, src := 0, rkey := rkey,
                            payload := [] } (0, 0))

/-- The TLB entries of the elements of an access are filled (R336), and the lines of cached pages are allocated and tagged (R238, R335). -/
def State.settle (s : State) (els : List (Nat × Word × Xl)) : State :=
  els.foldl (fun s e =>
    let s := s.tlbFill s.xc (vaOf e.2.1)
    match e.2.2.rc with
    | .ordinary | .remote => s.allocLine s.xc (vaOf e.2.1) e.2.2.loc
    | _ => s) s

/-- An MMIO read of n bytes: host memory at its home, a device register's answer free (R396; DESIGN CHOICE, log 10). -/
def State.mmioLoad (s : State) (t : Xl) (n : Nat) : List Byte × State :=
  if isHostMem t.loc then (s.bytesAt t.loc n, s)
  else (bytesOf n (Config.mmioRead t.loc s.fresh).toNat, { s with fresh := s.fresh + 1 })

/-- An MMIO write: host memory at its home, a device register's write recorded (R396; DESIGN CHOICE, log 10). -/
def State.mmioStore (s : State) (t : Xl) (bs : List Byte) : State :=
  if isHostMem t.loc then s.homeWrite t.loc bs
  else { s with mmio := s.mmio ++ [(t.loc, bs.length, w64 (ofBytes bs))] }

/-- The bytes of one element of a load. -/
def State.loadOne (s : State) (t : Xl) (n : Nat) : List Byte × State :=
  match t.rc with
  | .mmio => s.mmioLoad t n
  | _ => (s.readAt s.cur.core t n, s)

/-- The store of one element. -/
def State.storeOne (s : State) (ea : Word) (t : Xl) (bs : List Byte) : State :=
  match t.rc with
  | .mmio => s.mmioStore t bs
  | _ => s.writeAt s.xc (vaOf ea) t bs

/-- The elements of a store but those whose place a later one writes too: nobody sees a lower element there (R179). -/
def lastWrites : List (Nat × Word × Xl) → List (Nat × Word × Xl)
  | [] => []
  | e :: t => if t.any (fun o => o.2.2.loc == e.2.2.loc) then lastWrites t else e :: lastWrites t

/-- A store of checked elements of n bytes (R172 to R174, R179): check 5, then each element's bytes. -/
def State.storeEls (s : State) (n : Nat) (els : List (Nat × Word × Xl)) (val : Nat → List Byte) : State :=
  match s.askRemote n els with
  | (false, s) => s
  | (true, s) => (lastWrites els).foldl (fun t e => t.storeOne e.2.1 e.2.2 (val e.1)) (s.settle els)

end Sys2Proof.Machine
end

