-- ==== Sys2Proof/Machine/Flags.lean ====
section
/-! DEFINITION. Results with their flags: the exact scalar result of R126 and R127, lane-wise results (R135, R139 to R141). -/

namespace Sys2Proof.Machine

/-- The width W of an A-slot operation (R98). -/
def aluW (w : BitVec 2) : Nat := 64 / 2 ^ w.toNat

/-- Read(v) at a width (R126). -/
def aluRead (signed : Bool) (w : BitVec 2) (v : Word) : Int :=
  if signed then sext v.toNat (aluW w) else (v.toNat % 2 ^ aluW w : Nat)

/-- A result written as 64 bits: Wrap to the width, then extended (R126). -/
def aluWrite (signed : Bool) (w : BitVec 2) (r : Int) : Word :=
  if signed then BitVec.ofInt 64 (sext (wrap r (aluW w)) (aluW w)) else w64 (wrap r (aluW w))

/-- Sat to the signed range of the width when the form is `.sat`, with the flag (R126). -/
def aluSat (sat_ : Bool) (w : BitVec 2) (r : Int) : Int × Flags :=
  if sat_ then
    let v := sat r (-2 ^ (aluW w - 1)) (2 ^ (aluW w - 1) - 1)
    (v, if v = r then 0 else fSAT)
  else (r, 0)

/-- The quotient and flags of `divs` and `divz` (R127): trunc(x / y), all ones and NV for y = 0. -/
def quot (x y : Int) : Int × Flags := if y = 0 then (-1, fNV) else (x.tdiv y, 0)
/-- The remainder and flags of `rems` and `remz` (R127). -/
def remd (x y : Int) : Int × Flags := if y = 0 then (x, fNV) else (x.tmod y, 0)

/-- OR of the flags of a list of results, and the values. -/
def joinFlags {α : Type} (l : List (α × Flags)) : List α × Flags := (l.map (·.1), l.foldl (fun f e => f ||| e.2) 0)

/-- The results of the enabled elements below Lanes(), with their flags ORed (R135); a disabled element keeps 0 and sets none. -/
def State.lanewise (s : State) (f : Nat → Lane × Flags) : List Lane × Flags :=
  joinFlags ((range 0 64).map (fun i => if s.enb i && i < s.lanes then f i else (0, 0)))

/-- Write a lane-wise result: the view under the guard, and the flags (R132, R135). -/
def State.lanesOut (s : State) (d : BitVec 8) (f : Nat → Lane × Flags) : State :=
  let (v, fl) := s.lanewise f
  (s.viewWr d v s.en).flag fl

end Sys2Proof.Machine
end

