-- ==== Sys2Proof/Machine/Scalar.lean ====
section
/-! DEFINITION. The A-slot user instructions on g registers (R126 to R129). Every operand is read as latched at issue (R6). -/

namespace Sys2Proof.Machine

/-- What a meaning answers. -/
abbrev Out := Host.Outcome State Fault Refusal

/-- A two-operand form of R126: read at the width, an exact result with flags, Sat, Wrap, write. -/
def State.alu (s : State) (signed : Bool) (d a b : BitVec 5) (w : BitVec 2) (sat_ : Bool) (op : Int → Int → Int × Flags) : State :=
  let (r, f) := op (aluRead signed w (s.ra a)) (aluRead signed w (s.ra b))
  let (v, g) := aluSat sat_ w r
  s.wgf d (aluWrite signed w v) (f ||| g)

/-- A one-operand form of R126 on the low W bits. -/
def State.alu1 (s : State) (d a : BitVec 5) (w : BitVec 2) (op : Nat → Nat → Nat) : State :=
  s.wg d (w64 (op (aluW w) ((s.ra a).toNat % 2 ^ aluW w)))

/-- A comparison, which writes 0 or 1 as a 64-bit value (R126). -/
def State.aluCmp (s : State) (signed : Bool) (d a b : BitVec 5) (w : BitVec 2) (op : Int → Int → Bool) : State :=
  s.wg d (w64 (b2n (op (aluRead signed w (s.ra a)) (aluRead signed w (s.ra b)))))

/-- A bitwise form (R126). -/
def State.aluBit (s : State) (d a b : BitVec 5) (op : Word → Word → Word) : State := s.wg d (op (s.ra a) (s.ra b))

/-- The shift or rotate amount: y read as unsigned, modulo W (R126). -/
def shAmt (w : BitVec 2) (y : Int) : Nat := wrap y (aluW w) % aluW w

/-- Leading zeros of x in W bits. -/
def clzOf (W x : Nat) : Nat := if x = 0 then W else W - 1 - ilog2 x
/-- Trailing zeros of x in W bits. -/
def ctzOf (W x : Nat) : Nat := (lowest W x).getD W

/-- The immediate of format AI (R128): SignExt(imm14), or the literal for 0x2000. -/
def State.imm (s : State) (i : BitVec 14) : Word := if i = 0x2000 then s.litS else i.signExtend 64

/-- `add` (R126). -/
def execAdd (d a b : BitVec 5) (w : BitVec 2) (sat_ : Bool) (s : State) : Out := .next (s.alu true d a b w sat_ (fun x y => (x + y, 0)))

/-- `sub` (R126). -/
def execSub (d a b : BitVec 5) (w : BitVec 2) (sat_ : Bool) (s : State) : Out := .next (s.alu true d a b w sat_ (fun x y => (x - y, 0)))

/-- `mul` (R126). -/
def execMul (d a b : BitVec 5) (w : BitVec 2) (sat_ : Bool) (s : State) : Out := .next (s.alu true d a b w sat_ (fun x y => (x * y, 0)))

/-- `mulh`: floor(x × y / 2^W), signed (R126). -/
def execMulh (d a b : BitVec 5) (w : BitVec 2) (s : State) : Out := .next (s.alu true d a b w false (fun x y => (x * y / 2 ^ aluW w, 0)))

/-- `mulhz`: floor(x × y / 2^W), unsigned (R126). -/
def execMulhz (d a b : BitVec 5) (w : BitVec 2) (s : State) : Out := .next (s.alu false d a b w false (fun x y => (x * y / 2 ^ aluW w, 0)))

/-- `divs` (R127). -/
def execDivs (d a b : BitVec 5) (w : BitVec 2) (sat_ : Bool) (s : State) : Out := .next (s.alu true d a b w sat_ (fun x y => quot x y))

/-- `rems` (R127). -/
def execRems (d a b : BitVec 5) (w : BitVec 2) (s : State) : Out := .next (s.alu true d a b w false (fun x y => remd x y))

/-- `remz` (R127). -/
def execRemz (d a b : BitVec 5) (w : BitVec 2) (s : State) : Out := .next (s.alu false d a b w false (fun x y => remd x y))

/-- `divz`; a zero divisor gives 2^W − 1, which is −1 wrapped (R127). -/
def execDivz (d a b : BitVec 5) (w : BitVec 2) (s : State) : Out := .next (s.alu false d a b w false (fun x y => quot x y))

/-- `shl` (R126). -/
def execShl (d a b : BitVec 5) (w : BitVec 2) (s : State) : Out := .next (s.alu true d a b w false (fun x y => (x * 2 ^ shAmt w y, 0)))

/-- `shr` (R126). -/
def execShr (d a b : BitVec 5) (w : BitVec 2) (s : State) : Out := .next (s.alu false d a b w false (fun x y => (x / 2 ^ shAmt w y, 0)))

/-- `sra` (R126). -/
def execSra (d a b : BitVec 5) (w : BitVec 2) (s : State) : Out := .next (s.alu true d a b w false (fun x y => (x / 2 ^ shAmt w y, 0)))

/-- `rotl` (R126). -/
def execRotl (d a b : BitVec 5) (w : BitVec 2) (s : State) : Out := .next (s.alu false d a b w false (fun x y => ((x * 2 ^ shAmt w y) + x / 2 ^ (aluW w - shAmt w y), 0)))

/-- `min` (R126). -/
def execMin (d a b : BitVec 5) (w : BitVec 2) (s : State) : Out := .next (s.alu true d a b w false (fun x y => (if x < y then x else y, 0)))

/-- `max` (R126). -/
def execMax (d a b : BitVec 5) (w : BitVec 2) (s : State) : Out := .next (s.alu true d a b w false (fun x y => (if x < y then y else x, 0)))

/-- `minz` (R126). -/
def execMinz (d a b : BitVec 5) (w : BitVec 2) (s : State) : Out := .next (s.alu false d a b w false (fun x y => (if x < y then x else y, 0)))

/-- `maxz` (R126). -/
def execMaxz (d a b : BitVec 5) (w : BitVec 2) (s : State) : Out := .next (s.alu false d a b w false (fun x y => (if x < y then y else x, 0)))

/-- `slt` (R126). -/
def execSlt (d a b : BitVec 5) (w : BitVec 2) (s : State) : Out := .next (s.aluCmp true d a b w (fun x y => decide (x < y)))

/-- `sltz` (R126). -/
def execSltz (d a b : BitVec 5) (w : BitVec 2) (s : State) : Out := .next (s.aluCmp false d a b w (fun x y => decide (x < y)))

/-- `seq` (R126). -/
def execSeq (d a b : BitVec 5) (w : BitVec 2) (s : State) : Out := .next (s.aluCmp false d a b w (fun x y => decide (x = y)))

/-- `and` (R126). -/
def execAnd (d a b : BitVec 5) (s : State) : Out := .next (s.aluBit d a b (fun x y => x &&& y))

/-- `or` (R126). -/
def execOr (d a b : BitVec 5) (s : State) : Out := .next (s.aluBit d a b (fun x y => x ||| y))

/-- `xor` (R126). -/
def execXor (d a b : BitVec 5) (s : State) : Out := .next (s.aluBit d a b (fun x y => x ^^^ y))

/-- `andn` (R126). -/
def execAndn (d a b : BitVec 5) (s : State) : Out := .next (s.aluBit d a b (fun x y => x &&& ~~~y))

/-- `sel` (R126). -/
def execSel (d a b c : BitVec 5) (s : State) : Out := .next (s.wg d (if s.ra c ≠ 0 then s.ra a else s.ra b))

/-- `clz` (R126). -/
def execClz (d a : BitVec 5) (w : BitVec 2) (s : State) : Out := .next (s.alu1 d a w clzOf)

/-- `ctz` (R126). -/
def execCtz (d a : BitVec 5) (w : BitVec 2) (s : State) : Out := .next (s.alu1 d a w ctzOf)

/-- `popc` (R126). -/
def execPopc (d a : BitVec 5) (w : BitVec 2) (s : State) : Out := .next (s.alu1 d a w ones)

/-- `addi` (R128). -/
def execAddi (d a : BitVec 5) (i : BitVec 14) (s : State) : Out := .next (s.wg d (s.ra a + s.imm i))

/-- `andi` (R128). -/
def execAndi (d a : BitVec 5) (i : BitVec 14) (s : State) : Out := .next (s.wg d (s.ra a &&& s.imm i))

/-- `ori` (R128). -/
def execOri (d a : BitVec 5) (i : BitVec 14) (s : State) : Out := .next (s.wg d (s.ra a ||| s.imm i))

/-- `xori` (R128). -/
def execXori (d a : BitVec 5) (i : BitVec 14) (s : State) : Out := .next (s.wg d (s.ra a ^^^ s.imm i))

/-- `shli` (R128). -/
def execShli (d a : BitVec 5) (h : BitVec 6) (s : State) : Out := .next (s.wg d (s.ra a <<< h.toNat))

/-- `shri` (R128). -/
def execShri (d a : BitVec 5) (h : BitVec 6) (s : State) : Out := .next (s.wg d (s.ra a >>> h.toNat))

/-- `srai` (R128). -/
def execSrai (d a : BitVec 5) (h : BitVec 6) (s : State) : Out := .next (s.wg d ((s.ra a).sshiftRight h.toNat))

/-- `li` (R128). -/
def execLi (d : BitVec 5) (i : BitVec 14) (s : State) : Out := .next (s.wg d (s.imm i))

/-- `lih`: the low word of gA below the low 32 bits of the literal or immediate (R128). -/
def execLih (d a : BitVec 5) (i : BitVec 14) (s : State) : Out := 
  .next (s.wg d ((s.imm i).extractLsb' 0 32 ++ (s.ra a).extractLsb' 0 32))

/-- `bext` (R129). -/
def execBext (d a : BitVec 5) (pos len : BitVec 6) (s : State) : Out := 
  .next (s.wg d (w64 (bits (s.ra a) (pos.toNat + len.toNat) pos.toNat)))

/-- `bins`: the field of gD is replaced; gD is read as an implicit operand (R129). -/
def execBins (d a : BitVec 5) (pos len : BitVec 6) (s : State) : Out := 
  let m := maskFrom pos.toNat (len.toNat + 1)
  .next (s.wg d ((s.ra d &&& ~~~m) ||| ((s.ra a <<< pos.toNat) &&& m)))

end Sys2Proof.Machine
end

