-- ==== Sys2Proof/Machine/Matrix.lean ====
section
/-! DEFINITION. The M slot and the array (R158 to R170, R76, R77). An M-slot word makes its checks and takes its rows at issue and
enters the queue; ARRAY_DEQUEUE performs the head of the queue. -/

namespace Sys2Proof.Machine

/-! ## Exact passes (R77) -/

/-- The elements of a taken row, decoded (R75, R76). -/
def decodeRow (fmt : Nat) (row : List Byte × List Byte) : List Wide :=
  (range 0 (matElems fmt)).map (fun i =>
    let x := decFmt fmt (elemOf fmt row.1 i)
    if row.2.isEmpty then x else blockScale (row.2.getD i 0) x)

/-- Sum of exact terms with the special values of R77. A sum all of whose terms are -0 is -0, as R77 gives it, whatever R167 says of a row of zeros
(DEDUCED, log 78). -/
def passSum (ts : List (Wide × Flags)) : Wide × Flags :=
  let f := ts.foldl (fun f t => f ||| t.2) 0
  let pos := ts.any (fun t => t.1 == .inf false)
  let neg := ts.any (fun t => t.1 == .inf true)
  let f := if pos && neg then f ||| fNV else f
  if ts.any (fun t => t.1.isNan) || (pos && neg) then (.nan, f)
  else match ts with
    | [] => (.fin false 0 0, f)
    | t :: rest => (rest.foldl (fun a u => (wadd a u.1).1) t.1, f)

/-- Extremum of exact terms (R77). An infinity is a term like any other: the sentences of R77 on infinite terms are read as those of a sum
(DEDUCED, log 78). -/
def passExt (op : Wide → Wide → Wide) (ts : List (Wide × Flags)) : Wide × Flags :=
  let f := ts.foldl (fun f t => f ||| t.2) 0
  if ts.any (fun t => t.1.isNan) then (.nan, f)
  else match ts with
    | [] => (.fin false 0 0, f)
    | t :: rest => (rest.foldl (fun a u => op a u.1) t.1, f)

/-- One pass for one column (R77): kind 0 mac, 1 adm, 2 max, 3 min. A NaR operand sets NAR. -/
def pass (kind : Nat) (a w : List Wide) : Wide × Flags :=
  let nar := if (a ++ w).any (fun x => x == .nar) then fNAR else 0
  let z := a.zip w
  let (x, f) := match kind with
    | 0 => passSum (z.map (fun p => wmul p.1 p.2))
    | 1 => passSum (z.map (fun p => let (d, g) := wadd p.1 p.2.neg; (d.abs, g)))
    | 2 => passExt wmax (z.map (fun p => wadd p.1 p.2))
    | _ => passExt wmin (z.map (fun p => wadd p.1 p.2))
  (x, f ||| nar)

/-- The new accumulator element and the flags of one pass (R77, R167). -/
def accStep (kind : Nat) (c : Lane) (x : Wide × Flags) : Lane × Flags :=
  let (y, fy) := fenc .f32 x.1
  let cw := fdec .f32 c.toNat
  let yw := fdec .f32 y
  let (r, fr) := match kind with
    | 0 | 1 => wadd cw yw
    | 2 => (wmax cw yw, cw.nv)
    | _ => (wmin cw yw, cw.nv)
  let (o, fo) := fenc .f32 r
  (BitVec.ofNat 32 o, x.2 ||| fy ||| fr ||| fo)

/-! ## The array queue -/

def Core.latch (c : Core) (i : Nat) : Latch := if i = 0 then c.latch0 else c.latch1
def Core.setLatch (c : Core) (i : Nat) (l : Latch) : Core := if i = 0 then { c with latch0 := l } else { c with latch1 := l }

/-- An accumulator element. -/
def Core.accAt (c : Core) (r n : Nat) : Lane := SMap.get 0 c.acc (r * 64 + n)
def Core.setAcc (c : Core) (r n : Nat) (v : Lane) : Core := { c with acc := SMap.put c.acc (r * 64 + n) v }

/-- `mrun` of one row: every column in turn, with the flags ORed. -/
def mrunRow (kind r : Nat) (a : List Wide) (cols : List (List Wide)) (c : Core) : Core × Flags :=
  ((range 0 64).zip cols).foldl (fun acc nc =>
    let (v, f) := accStep kind (acc.1.accAt r nc.1) (pass kind a nc.2)
    (acc.1.setAcc r nc.1 v, acc.2 ||| f)) (c, 0)

/-- The effect of one M-slot instruction (R161, R165 to R169), with the flags it raises. -/
def Core.arrayOp (c : Core) : ArrOp → Core × Flags
  | .wload l fmt rows =>
    let zero : List Byte × List Byte := (List.replicate (matBytes fmt) 0, [])
    (c.setLatch l { fmt := fmt, valid := true, cols := (rows ++ List.replicate (64 - rows.length) zero).take 64 }, 0)
  | .wswap on => (if on then { c with active := !c.active } else c, 0)
  | .mrun kind fmt base l rows =>
    let lt := c.latch l
    let cols := lt.cols.map (decodeRow lt.fmt)
    ((range base rows.length).zip rows).foldl (fun acc rr =>
      let (c', f) := mrunRow kind rr.1 (decodeRow fmt rr.2) cols acc.1
      (c', acc.2 ||| f)) (c, 0)
  | .accclr base count => ((range (base * 64) (count * 64)).foldl (fun c k => { c with acc := SMap.put c.acc k 0 }) c, 0)
  | .accscale base count row =>
    let sc := (lanesOf 64 row.1).map (fun l => fdec .f32 l.toNat)
    (range base count).foldl (fun acc r =>
      ((range 0 64).zip sc).foldl (fun acc ns =>
        let (x, f) := wmul (fdec .f32 (acc.1.accAt r ns.1).toNat) ns.2
        let (o, g) := fenc .f32 x
        (acc.1.setAcc r ns.1 (BitVec.ofNat 32 o), acc.2 ||| f ||| g)) acc) (c, 0)

/-- Perform the head of a core's array queue; its flags reach AFLAGS of the issuing context (R167). -/
def State.dequeue (s : State) (core : Nat) : State :=
  match (s.core core).queue with
  | [] => s
  | j :: rest =>
    let (c, f) := ({ s.core core with queue := rest } : Core).arrayOp j.op
    (s.setCore core c).modCtxAt ⟨core, j.ctx⟩ (fun x => { x with r := { x.r with aflags := x.r.aflags ||| f } })

/-- Perform the first n entries of a core's queue. -/
def State.drainArray (s : State) (core : Nat) : Nat → State
  | 0 => s
  | n + 1 => (s.dequeue core).drainArray core n
/-- Perform every entry of a core's queue. -/
def State.drainAll (s : State) (core : Nat) : State := s.drainArray core (s.core core).queue.length

/-- The role bit after the swaps in the queue (R163). -/
def Core.activeAfter (c : Core) : Bool :=
  c.queue.foldl (fun a j => match j.op with | .wswap true => !a | _ => a) c.active
/-- Format and validity of a latch after the loads in the queue (R163). -/
def Core.latchAfter (c : Core) (l : Nat) : Nat × Bool :=
  c.queue.foldl (fun a j => match j.op with | .wload l' fmt _ => if l' = l then (fmt, true) else a | _ => a) ((c.latch l).fmt, (c.latch l).valid)

/-- The active and the shadow latch of the context in issue (R159). -/
def State.activeLatch (s : State) : Nat := if s.cx.t.vb then b2n s.co.activeAfter else s.cur.ctx
def State.shadowLatch (s : State) : Nat := if s.cx.t.vb then 1 - b2n s.co.activeAfter else s.cur.ctx

/-- Rows outside the stage's accumulator window (R21). -/
def State.rowsOut (s : State) (base count : Nat) : Bool :=
  let t := s.cx.t
  !(t.acb * 64 ≤ base && base + count ≤ (t.acb + t.acn) * 64)

/-- Enter the queue of four; where it is full the bundle is not ready (R24, R170). -/
def State.enqueue (s : State) (op : ArrOp) : State :=
  if s.co.queue.length ≥ 4 then s.hold else s.modCo (fun c => { c with queue := c.queue ++ [⟨s.cur.ctx, op⟩] })

/-- The rows an M-slot instruction takes: those fixed before the bundle's L slot, or those that stand in memory now (R161, R162). -/
def State.mrows (s : State) (p : BitVec 3) (fmt count : Nat) : List (List Byte × List Byte) :=
  if s.iss.mrows.isEmpty then (range 0 count).map (s.mrowAt (s.iss.lat.port p.toNat) fmt) else s.iss.mrows

/-- An M-slot instruction that takes rows: checks 1 to 5 of R163 in order, then the queue. -/
def State.mslot (s : State) (window : Option (Nat × Nat)) (p : BitVec 3) (fmt rows : Nat) (formatBad : Bool)
    (op : List (List Byte × List Byte) → ArrOp) : State :=
  if (match window with | some (b, c) => s.rowsOut b c | none => false) then s.takeTrap 0x0601 0
  else match s.mrowsBad (s.iss.lat.port p.toNat) fmt rows with
    | some (c, a) => s.takeTrap c a
    | none => if formatBad then s.takeTrap 0x0A03 0 else s.enqueue (op (s.mrows p fmt rows))

/-- `mrun` of a kind (R167): the active latch must be valid and nt6 meet nt6 (R163). -/
def State.mrun (s : State) (kind : Nat) (p : BitVec 3) (f : BitVec 5) (b : BitVec 10) (c : BitVec 6) : State :=
  let l := s.activeLatch
  let (lf, v) := s.co.latchAfter l
  let fmt := f.toNat
  s.mslot (some (b.toNat, c.toNat + 1)) p fmt (c.toNat + 1) (!v || (fmt = 0x0C) != (lf = 0x0C)) (fun rows => .mrun kind fmt b.toNat l rows)

/-- `wload` (R165). -/
def execWload (p : BitVec 3) (f : BitVec 5) (c : BitVec 6) (s : State) : Out :=
  .next (s.mslot none p f.toNat (c.toNat + 1) false (fun rows => .wload s.shadowLatch f.toNat rows))
/-- `wswap` (R166). -/
def execWswap (s : State) : Out := .next (s.enqueue (.wswap s.cx.t.vb))
/-- `mrun.mac` (R167). -/
def execMrunMac (p : BitVec 3) (f : BitVec 5) (b : BitVec 10) (c : BitVec 6) (s : State) : Out := .next (s.mrun 0 p f b c)
/-- `mrun.adm` (R167). -/
def execMrunAdm (p : BitVec 3) (f : BitVec 5) (b : BitVec 10) (c : BitVec 6) (s : State) : Out := .next (s.mrun 1 p f b c)
/-- `mrun.max` (R167). -/
def execMrunMax (p : BitVec 3) (f : BitVec 5) (b : BitVec 10) (c : BitVec 6) (s : State) : Out := .next (s.mrun 2 p f b c)
/-- `mrun.min` (R167). -/
def execMrunMin (p : BitVec 3) (f : BitVec 5) (b : BitVec 10) (c : BitVec 6) (s : State) : Out := .next (s.mrun 3 p f b c)
/-- `accclr` (R168). -/
def execAccclr (b : BitVec 10) (c : BitVec 6) (s : State) : Out :=
  .next (if s.rowsOut b.toNat (c.toNat + 1) then s.takeTrap 0x0601 0 else s.enqueue (.accclr b.toNat (c.toNat + 1)))
/-- `accscale.f32`: one 256-byte row from the port (R169). -/
def execAccscale (p : BitVec 3) (b : BitVec 10) (c : BitVec 6) (s : State) : Out :=
  .next (s.mslot (some (b.toNat, c.toNat + 1)) p 0x0A 1 false (fun rows => .accscale b.toNat (c.toNat + 1) (rows.getD 0 ([], []))))
/-- ARRAY_DEQUEUE: the head of a core's array queue is performed (R161, R170). -/
def execArrayDequeue (core : Nat) (s : State) : Out := .next (s.dequeue core)

end Sys2Proof.Machine
end

