-- ==== Sys2Proof/Machine/Tasks.lean ====
section
/-! DEFINITION. Task records and sub-queues (R27 to R36, R40 to R42, R345, R347), the end of a task (R45, R207), and the release of
a post (R36). The dispatcher's events stand in Dispatcher.lean. -/

namespace Sys2Proof.Machine

/-! ## Flows, stages and sub-queues -/

/-- A job that a switch has stopped on a die, or that is out of it (R353, R360). -/
def Die.halted (d : Die) (job : Nat) : Bool :=
  d.closed.contains job || d.sw.any (fun w => w.job == job && w.phase != .gather && w.phase != .idle && (w.out || w.phase != .closed))
/-- A job whose packets the units of a die do not take: a switch out has stopped it, or one in has not loaded it yet (R353, R361). -/
def Die.deaf (d : Die) (job : Nat) : Bool := d.halted job && !d.sw.any (fun w => w.job == job && !w.out && w.phase == .loaded)

/-- A flow of a job as mapped on a die (R25). -/
def Die.flowOf (d : Die) (job flow : Nat) : Option Flow := d.flows.find? (fun f => f.job == job && f.flow == flow)
/-- A stage of a flow (R26). -/
def Die.stageOf (d : Die) (job flow stg : Nat) : Option Stage := (d.flowOf job flow).bind (fun f => f.stages[stg]?)
/-- Replace a stage of a flow. -/
def Die.modStage (d : Die) (job flow stg : Nat) (f : Stage → Stage) : Die :=
  { d with flows := mapIf (fun g => g.job == job && g.flow == flow)
                      (fun g => { g with stages := match g.stages[stg]? with | some t => setAt g.stages stg (f t) | none => g.stages }) d.flows }

/-- The partition descriptor whose active job is this one (R343). -/
def Die.partOf (d : Die) (job : Nat) : Option (Nat × Part) := d.parts.find? (fun p => bit p.2.w0 63 && bits p.2.w0 57 48 == job)
/-- A descriptor in use names a job (R342). -/
def Part.names (p : Part) (job : Nat) : Bool := bit p.w0 63 && bits p.w0 57 48 == job
/-- A descriptor as a job starts under it (R342): POOL chunks in the pool, no save slot in use. -/
def Part.fresh (p : Part) : Part := { p with pool := bits p.w3 47 32, used := [] }
/-- The partition that a core is granted under: the one valid descriptor that names it (R342). -/
def Die.partOfCore (d : Die) (core : Nat) : Option (Nat × Part) :=
  match d.parts.filter (fun p => bit p.2.w0 63 && bit p.2.w1 (core % 64)) with
  | [p] => some p
  | _ => none
/-- Cl: the clusters of the die that hold cores of the partition, ascending (R31). -/
def Part.clusters (p : Part) : List Nat := (range 0 8).filter (fun c => bits p.w1 (8 * c + 7) (8 * c) != 0)

/-- A sub-queue names a stage and a cluster. -/
def SubQ.isFor (q : SubQ) (job flow stg cl : Nat) : Bool := q.job == job && q.flow == flow && q.stg == stg && q.cl == cl
/-- The sub-queue of a stage in a cluster (R27); one not yet listed is empty at its stage's capacity. -/
def Die.subq (d : Die) (job flow stg cl : Nat) : SubQ :=
  match d.subqs.find? (fun q => q.isFor job flow stg cl) with
  | some q => q
  | none => { job := job, flow := flow, stg := stg, cl := cl, cap := match d.stageOf job flow stg with | some t => t.cap * 64 | none => 0 }
/-- Put a sub-queue back. -/
def Die.putSubq (d : Die) (q : SubQ) : Die :=
  if d.subqs.any (fun o => o.isFor q.job q.flow q.stg q.cl) then
    { d with subqs := mapIf (fun o => o.isFor q.job q.flow q.stg q.cl) (fun _ => q) d.subqs }
  else { d with subqs := d.subqs ++ [q] }
/-- Cap of a sub-queue in records, grown chunks included (R42). -/
def SubQ.size (q : SubQ) : Nat := q.cap + q.grown * 64
/-- No slot is free. -/
def SubQ.full (q : SubQ) : Bool := q.size ≤ q.recs.length

/-- Whether the overflow area holds a record for a sub-queue (R345). -/
def Die.spilled (d : Die) (job flow stg cl : Nat) : Bool :=
  (SMap.get {} d.overflow job).recs.any (fun r => r.1 == cl && r.2.flow == flow && r.2.stg == stg)

/-- Change the pool of a job's partition. -/
def Die.modPool (d : Die) (job : Nat) (f : Nat → Nat) : Die :=
  match d.partOf job with
  | some (i, p) => { d with parts := SMap.put d.parts i { p with pool := f p.pool } }
  | none => d
/-- The pool of a job's partition. -/
def Die.pool (d : Die) (job : Nat) : Nat := match d.partOf job with | some (_, p) => p.pool | none => 0

/-- The place of a record among those that enter a sub-queue in one cycle (R28): arrival counts, triggers, continuations by core and context, host
launches. `core` is the place of a continuation, core × 2 + context. -/
def TaskRec.entryKey (r : TaskRec) (core : Nat) : Nat :=
  match r.orig with
  | 0 => 1024
  | 1 => 0
  | 2 => 2 + core % 256
  | _ => 1

/-- A record that comes later in the order of R28 has entered the sub-queue in this cycle. -/
def SubQ.passed (q : SubQ) (now : Word) (key : Nat) : Bool := match q.wrote with | some (c, k) => c == now && key < k | none => false

/-- A record that comes after an arrival count has entered a sub-queue of a job in this cycle (R28). -/
def Die.overtaken (d : Die) (now : Word) (job : Nat) : Bool := d.subqs.any (fun q => q.job == job && q.passed now 0)

/-- Append a record to its sub-queue, with the TASK_ID of R47. -/
def State.putRecord (s : State) (die cl : Nat) (r : TaskRec) (core : Nat := 0) : State :=
  s.modDie die (fun d =>
    let q := d.subq r.job r.flow r.stg cl
    { (d.putSubq { q with recs := q.recs ++ [{ r with tid := d.records }], wrote := some (s.cycle, r.entryKey core) }) with records := d.records + 1 })

/-- The actions of a die's triggers that are due in this cycle have not all taken place (R206). -/
def Die.actionsDue (d : Die) : Bool := d.trigs.any (fun t => t.fired.isSome && !d.halted t.trc.job)

/-- A continuation or a host launch waits for the next cycle (R28): an action that is due comes before it, or a later one has entered its sub-queue. -/
def Die.entryWaits (d : Die) (now : Word) (cl : Nat) (r : TaskRec) (core : Nat) : Bool :=
  d.actionsDue || (d.subq r.job r.flow r.stg cl).passed now (r.entryKey core)

/-- Grow a sub-queue by a chunk of the pool (R40, R41); nothing where the pool has none. -/
def State.growSubq (s : State) (die job flow stg cl : Nat) : Option State :=
  if (s.die die).pool job = 0 then none
  else some (s.modDie die (fun d =>
    let q := d.subq job flow stg cl
    (d.putSubq { q with grown := q.grown + 1 }).modPool job (· - 1)))

/-- A sub-queue takes no record of a host launch or a post: it is full (R31, R40), or older records wait for it in the overflow area (R345). -/
def Die.blocks (d : Die) (job flow stg cl : Nat) : Bool := (d.subq job flow stg cl).full || d.spilled job flow stg cl

/-- A record by a host launch or a post: nothing where it must wait for a slot (R31, R40, R345) or for its turn (R28). -/
def State.putOrWait (s : State) (die cl : Nat) (r : TaskRec) (core : Nat := 0) : Option State :=
  let d := s.die die
  if d.blocks r.job r.flow r.stg cl || d.entryWaits s.cycle cl r core then none else some (s.putRecord die cl r core)

/-- Bytes 2 to 9 of the supervisor INL layout, which AUX of an event carries (R325, R347; DESIGN CHOICE, log 24). -/
def supAux (die flow stg count : Nat) : Word := w64 (die % 8 + flow * 2 ^ 8 + stg * 2 ^ 16 + count % 2 ^ 16 * 2 ^ 48)

/-- A supervisor record (R347). -/
def supRecord (job die cause flow stg count : Nat) (sf ss : Nat) : TaskRec :=
  { job := job, flow := sf, stg := ss, orig := 3, sup := true,
    inl := [w64 (cause + die % 8 * 2 ^ 16 + flow * 2 ^ 24 + stg * 2 ^ 32), w64 count, 0, 0] }
/-- The cause a supervisor record carries. -/
def TaskRec.supCause (r : TaskRec) : Nat := bits (wd r.inl 0) 15 0

/-- Growth of a sub-queue has failed, and flow overflow is raised (R42, R344). -/
def State.growFailed (s : State) (die job flow stg cl : Nat) : State :=
  s.modDie die (fun d => { d with failed := d.failed.filter (· != (job, flow, stg, cl)) ++ [(job, flow, stg, cl)] })

/-- A record goes to the overflow area of its job (R42, R345); false where that is full. -/
def State.spill (s : State) (die cl : Nat) (r : TaskRec) : State × Bool :=
  let o := SMap.get {} (s.die die).overflow r.job
  if o.recs.length ≥ 1024 then (s, false)
  else (s.modDie die (fun d =>
    { d with overflow := SMap.put d.overflow r.job { o with recs := o.recs ++ [(cl, { r with tid := d.records })] }, records := d.records + 1 }), true)

/-- Where a record that never waits goes (R41, R42, R345): its sub-queue, grown if full, else, with flow overflow raised, the overflow area; false
where that is full too. -/
def State.putNow (s : State) (die cl : Nat) (r : TaskRec) : State × Bool :=
  let d := s.die die
  if d.spilled r.job r.flow r.stg cl then s.spill die cl r
  else if !(d.subq r.job r.flow r.stg cl).full then (s.putRecord die cl r, true)
  else match s.growSubq die r.job r.flow r.stg cl with
    | some s => (s.putRecord die cl r, true)
    | none => ((s.event die 2 0x0E03 none r.job 0 (supAux die r.flow r.stg 0)).growFailed die r.job r.flow r.stg cl).spill die cl r

/-- Whether a 0x0E06 record of the die waits ungranted (R345). -/
def Die.lossQueued (d : Die) : Bool :=
  let loss (r : TaskRec) : Bool := r.sup && r.supCause == 0x0E06
  d.subqs.any (fun q => q.recs.any loss) || d.overflow.any (fun o => o.2.recs.any (fun r => loss r.2))

/-- Report losses not yet reported, if no report waits (R345). A report that cannot be written carries its losses forward. -/
def State.reportLoss (s : State) (die job : Nat) : State :=
  let d := s.die die
  let o := SMap.get {} d.overflow job
  match o.unreported, SMap.get (0, 0, 0) d.supers job with
  | some (f, g, n), (sf, ss, sc) =>
    if d.lossQueued || !d.supers.has job then s
    else match s.putNow die sc (supRecord job die 0x0E06 f g n sf ss) with
      | (s, true) => s.modDie die (fun d =>
          { d with overflow := SMap.upd {} d.overflow job (fun o => { o with unreported := none }) })
      | (s, false) => s
  | none, _ => s

/-- The losses carried are reported, of one job first and then by job number (R345). -/
def State.reportLosses (s : State) (die job : Nat) : State :=
  (job :: (s.die die).overflow.map (·.1)).foldl (fun s j => s.reportLoss die j) s

/-- A record is lost at a full overflow area (R345): LOSTREC, the event, the report. -/
def State.loseRecord (s : State) (die : Nat) (r : TaskRec) : State :=
  let s := s.modDie die (fun d =>
    let o := SMap.get {} d.overflow r.job
    let u := match o.unreported with | some (f, g, n) => some (f, g, n + 1) | none => some (r.flow, r.stg, 1)
    { d with overflow := SMap.put d.overflow r.job { o with lostrec := o.lostrec + 1, unreported := u } })
  (s.event die 2 0x0E06 none r.job 0 (supAux die r.flow r.stg 1)).reportLoss die r.job

/-- A launch by count or by trigger, which never waits (R41, R42, R345). -/
def State.launchNow (s : State) (die cl : Nat) (r : TaskRec) : State :=
  match s.putNow die cl r with
  | (s, true) => s
  | (s, false) => s.loseRecord die r

/-- A supervisor record (R347), written under R41; one that cannot be written is lost. -/
def State.supervise (s : State) (die job cause flow stg count : Nat) : State :=
  if (s.die die).supers.has job then
    let (sf, ss, sc) := SMap.get (0, 0, 0) (s.die die).supers job
    s.launchNow die sc (supRecord job die cause flow stg count sf ss)
  else s

/-! ## Acquire and release of a whole core (R244) -/

/-- An acquire over the whole data cache of a core (R244). -/
def State.acquireCore (s : State) (core : Nat) : State := s.invalidate core (fun _ => true)
/-- A release of a core's stores at a scope (R243, R244): write-back, then visible in the scope. Remote writes that it awaits keep it
from being complete, which `unacked` says (R251). -/
def State.releaseCore (s : State) (core scope : Nat) : State := (s.writeBackAll core (fun _ => true)).publish core scope

/-! ## Communicators (R289, R290) -/

def Comm.w (c : Comm) (i : Nat) : Word := wd c.words i
def Comm.valid (c : Comm) : Bool := bit (c.w 0) 63
def Comm.ver (c : Comm) : Nat := bits (c.w 0) 31 0
def Comm.quota (c : Comm) : Nat := bits (c.w 1) 31 24
def Comm.pclass (c : Comm) : Nat := bits (c.w 1) 17 16
def Comm.rank (c : Comm) : Nat := bits (c.w 1) 15 8
def Comm.size (c : Comm) : Nat := bits (c.w 4) 39 0
def Comm.n (c : Comm) : Nat := bits (c.w 1) 7 0 + 1
/-- The die IDs of the members in rank order. -/
def Comm.members (c : Comm) : List Nat := ((((c.words.drop 8).take 32).flatMap (fun w => bytesOf 8 w.toNat)).take c.n).map (·.toNat)

/-- A communicator of a job that Squall holds out of a die stands in its area (R357). -/
def Die.commAway (d : Die) (key : Nat) : Bool := !d.comms.has key && d.savedJobs.any (fun v => v.comms.has key)
/-- The communicator of a job on a die, or in the area of a job that is out: what its members say to it meets it there (R363; log 19). -/
def State.comm (s : State) (die key : Nat) : Comm :=
  if (s.die die).commAway key then SMap.get {} ((s.die die).savedJobs.flatMap (·.comms)) key else SMap.get {} (s.die die).comms key
def State.modComm (s : State) (die key : Nat) (f : Comm → Comm) : State :=
  s.modDie die (fun d =>
    if d.commAway key then { d with savedJobs := mapIf (fun v => v.comms.has key) (fun v => { v with comms := SMap.upd {} v.comms key f }) d.savedJobs }
    else { d with comms := SMap.upd {} d.comms key f })
/-- Change the entries of a queue pair that meet a test. -/
def Comm.modEntries (c : Comm) (qp : Nat) (p : CEntry → Bool) (f : CEntry → CEntry) : Comm :=
  { c with qps := SMap.upd {} c.qps qp (fun q => { q with entries := mapIf p f q.entries }) }
def State.modEntry (s : State) (die key qp no : Nat) (f : CEntry → CEntry) : State :=
  s.modComm die key (fun c => c.modEntries qp (fun e => e.no == no) f)

/-- End the entries of a pair that a test selects, if they are not yet complete, in a phase and with a status (R293, R299). What they have begun to send is
sent whole (R302), but for malformed work, of which nothing is (R293). -/
def Comm.finish (c : Comm) (qp : Nat) (ph : CPhase) (status : Nat) (p : CEntry → Bool) : Comm :=
  c.modEntries qp (fun e => p e && (e.phase == .queued || e.phase == .started)) (fun e => { e with phase := ph, status := status, words := [], queue := if status = 7 then [] else e.queue })

/-- A collective ends with a status at every other member (R293, R295, R299): aborted, or malformed, of which no chunk is final. Entries posted
later meet it as they start. -/
def State.endElsewhere (s : State) (die key qp seq : Nat) (ph : CPhase) (status : Nat) : State :=
  ((s.comm die key).members.filter (· != die)).foldl (fun s d =>
    s.modComm d key (fun c =>
      let c := c.finish qp ph status (fun e => e.seq == some seq && e.ver == c.ver)
      { c with dead := c.dead ++ [(qp, seq, status)] })) s

/-- Abort the entries of a pair that a test selects, and those matched with them at every member (R299). -/
def State.abortEntries (s : State) (die key qp : Nat) (p : CEntry → Bool) : State :=
  let live := ((SMap.get {} (s.comm die key).qps qp).entries).filter (fun e => p e && (e.phase == .queued || e.phase == .started))
  let s := s.modComm die key (fun c => c.finish qp .aborted 6 p)
  live.foldl (fun s e => match e.seq with | some q => s.endElsewhere die key qp q .aborted 6 | none => s) s

/-- Abort, on every pair of a die, the entries that a test selects. -/
def State.abortAll (s : State) (die : Nat) (p : CEntry → Bool) : State :=
  ((s.die die).comms.flatMap (fun c => c.2.qps.map (fun q => (c.1, q.1)))).foldl (fun s k => s.abortEntries die k.1 k.2 p) s

/-! ## Detached counter sets (R207) -/

/-- A predicate, an action still to come or an incomplete entry names a counter set. -/
def Die.namesSet (d : Die) (k : KSet) : Bool :=
  d.trigs.any (fun t => t.ks == k && (t.fired.isNone || t.pred.act == 2)) ||
  d.comms.any (fun c => c.2.qps.any (fun q => q.2.entries.any (fun e => e.ks == k)))
/-- Replace a counter set's name by another. -/
def Die.renameSet (d : Die) (k k' : KSet) : Die :=
  { d with trigs := mapIf (fun t => t.ks == k) (fun t => { t with ks := k' }) d.trigs,
           comms := d.comms.map (fun c => (c.1, { c.2 with qps := c.2.qps.map (fun q =>
             (q.1, { q.2 with entries := mapIf (fun e => e.ks == k) (fun e => { e with ks := k' }) q.2.entries })) })) }
/-- A die's cards in flight of a task. -/
def State.cardsOf (s : State) (die job tid : Nat) : Bool :=
  s.cores.any (fun c => c.1 / 128 == die && c.2.cards.any (fun x => x.job == job && x.tid == tid))
/-- A detached set is still in use: it is named, it waits for its task, or a card of its task is in flight (R207). -/
def State.setLive (s : State) (die i : Nat) : Bool :=
  let t := SMap.get {} (s.die die).sets i
  t.used && (t.back || (s.die die).namesSet (.detached die i) || s.cardsOf die t.job t.tid)
/-- The lowest free detached set of a die. -/
def State.freeSet (s : State) (die : Nat) : Option Nat := (range 0 32).find? (fun i => !s.setLive die i)

/-- Detach the counters of a task that ends or is saved (R207); nothing where it must wait for a set. A task that the monitor ends
never waits: its triggers are disarmed and its entries whose predicate has not held are aborted with status 0x06. -/
def State.detach (s : State) (p : Place) (back force : Bool) : Option State :=
  let die := coreDie p.core
  let c := s.ctxAt p
  let k : KSet := .task die c.t.job c.t.trc.tid
  if !(s.die die).namesSet k then some s
  else match s.freeSet die with
    | some i => some (s.modDie die (fun d =>
        { (d.renameSet k (.detached die i)) with
          sets := SMap.put d.sets i { k := c.r.k, job := c.t.job, tid := c.t.trc.tid, back := back, used := true } }))
    | none =>
      if force then
        let s := s.abortAll die (fun e => e.ks == k && !e.held)
        some (s.modDie die (fun d =>
          let d := { d with trigs := (d.trigs.filter (fun t => t.ks != k || (t.fired.isSome && t.pred.act == 1))) }
          d.renameSet k .none))
      else none

/-! ## The end of a task (R45) -/

/-- Starve counts at a task end on a core (R38). -/
def Die.starve (d : Die) (core : Nat) : Die :=
  match d.partOfCore core with
  | none => d
  | some (_, p) =>
    let bump (f : Flow) (t : Stage × Nat) : Stage :=
      if d.subqs.any (fun q => q.job == f.job && q.flow == f.flow && q.stg == t.2 && !q.recs.isEmpty)
      then { t.1 with starve := t.1.starve + 1 } else t.1
    let all (f : Flow) : Flow := { f with stages := (f.stages.zip (List.range f.stages.length)).map (bump f) }
    { d with flows := mapIf (fun f => f.job == bits p.w0 57 48) all d.flows }

/-- A task of a packet has ended (R32). -/
def Die.packetEnd (d : Die) (r : TaskRec) : Die :=
  match r.pkt with
  | none => d
  | some (q, idx) =>
    let u := SMap.get {} d.users q
    let mine (l : LivePkt) : Bool := l.idx == idx && l.done < l.tasks
    match findIdx mine 0 u.live with
    | some (i, l) => { d with users := SMap.put d.users q { u with live := setAt u.live i { l with done := l.done + 1 } } }
    | none => d

/-- Requests at memory-slice engines that a test selects go (R286). -/
def State.dropReqs (s : State) (f : DReq → Bool) : State :=
  let keep (l : List DReq) : List DReq := l.filter (fun r => !f r)
  let slice (e : Nat × Slice) : Nat × Slice :=
    (e.1, { e.2 with inbox := keep e.2.inbox, parked := keep e.2.parked, outbox := e.2.outbox.filter (fun o => !f o.1) })
  { s with dies := s.dies.map (fun d => (d.1, { d.2 with slices := d.2.slices.map slice })) }

/-- The waits of a context at phasers go (R217, R227). -/
def State.dropPhaseWaits (s : State) (p : Place) : State :=
  let isOf (w : PWait) : Bool := w.core == p.core && w.ctx == p.ctx
  let drop (d : Die) : Die := { d with phasers := mapIf (fun f => f.waits.any isOf) (fun f => { f with waits := f.waits.filter (fun w => !isOf w) }) d.phasers }
  { s with dies := s.dies.map (fun d => (d.1, drop d.2)) }

/-- The place where a task of a die stands, running, granted or stopped (R47). One that waits for a reserved core has not started, and its counters are
not the context's (R39, R207). -/
def State.whereIs (s : State) (die job tid : Nat) : Option Place :=
  let on (c : Ctx) : Bool := c.run != .free && c.run != .reserving && c.t.job == job && c.t.trc.tid == tid
  (s.cores.filter (fun c => c.1 / 128 == die)).findSome? (fun c =>
    if on c.2.c0 then some ⟨c.1, 0⟩ else if on c.2.c1 then some ⟨c.1, 1⟩ else none)

/-- A fault that reaches a task from outside its bundle (R198, R295): due at its next boundary; a saved task takes it when it is resumed; of
a task that has ended the monitor learns. `src` is the context the work came from. -/
def State.faultTask (s : State) (die job tid : Nat) (f : BFault) (src : Option Nat) : State :=
  match s.whereIs die job tid with
  | some p => s.modCtxAt p (fun c => { c with bfaults := c.bfaults ++ [f] })
  | none => match (s.die die).sets.find? (fun d => d.2.used && d.2.back && d.2.job == job && d.2.tid == tid) with
    | some (i, _) => s.modDie die (fun d => { d with sets := SMap.upd {} d.sets i (fun t => { t with bfaults := t.bfaults ++ [f] }) })
    | none => s.event die 1 f.cause src job f.addr f.aux

/-- The context at a place is free (R45): its waits and parked requests go with it, faults still due to it go to the monitor
(R198). -/
def State.freeCtx (s : State) (p : Place) : State :=
  let die := coreDie p.core
  let c := s.ctxAt p
  let s := c.bfaults.foldl (fun s f => s.event die 1 f.cause (some (coreId p.core p.ctx)) c.t.job f.addr f.aux) s
  let s := s.modCtxAt p (fun c => { c with run := .free, held := none, bfaults := [], pend := [] })
  let s := { s with watches := s.watches.filter (fun w => !(w.core == p.core && w.ctx == p.ctx)) }
  let s := (s.dropReqs (fun r => r.core == p.core && r.ctx == p.ctx)).dropPhaseWaits p
  if ((s.core p.core).ctx (1 - p.ctx)).run == .free then s.modCore p.core (fun c => { c with idleSince := s.cycle }) else s

/-- A task ends (R45): its array work is performed (R161), its counters detach (R207), the dispatcher counts it (R32, R38) and its
context is free. Nothing where it must wait for a detached set. -/
def State.endTaskAt (s : State) (p : Place) (force : Bool) : Option State :=
  let die := coreDie p.core
  match (s.drainAll p.core).detach p false force with
  | none => none
  | some s =>
    let c := s.ctxAt p
    some ((s.modDie die (fun d => (d.starve p.core).packetEnd c.t.trc)).freeCtx p)

/-! ## Posts (R35, R36, R124) -/

/-- HomeCluster(HOME) (R35): the cluster, or the cause of a translation failure. -/
def State.homeClusterOf (s : State) (home : Nat) : Except Nat Nat :=
  if home = 0 || (winScratch ≤ home && home < winScratch + 2 ^ 32) || (winCluster ≤ home && home < winCluster + 2 ^ 32) then
    .ok (coreCluster s.cur.core % 8)
  else match s.xlate s.xc home .rd with
    | .error c => .error c
    | .ok t =>
      let pa := t.loc % 2 ^ 52
      .ok ((List.range 12).foldl (fun cl i => cl ^^^ nbits pa (3 * i + 14) (3 * i + 12)) 0)

end Sys2Proof.Machine
end

