-- ==== Sys2Proof/Machine/Fetch.lean ====
section
/-! DEFINITION. Instruction fetch: translation for execution (R332), the code sections and head maps of mapped segments (R109, R114),
verified blocks (R371, R372). -/

namespace Sys2Proof.Machine

/-- Translation of a fetch (R326, R332, R341, R369): what it reaches, or the fetch kind. An ML mismatch is kind 0x02. -/
def State.fetchXl (s : State) (p : Place) (va : Word) : Except Nat Xl :=
  let x := s.xctxAt p
  if !canonical va then .error 0x0101
  else if 2 ^ 55 ≤ vaOf va then .error 0x0101
  else match s.entryFor x (vaOf va) with
    | .error c => .error (if c = 0x0F02 then c else 0x0101)
    | .ok t =>
      let h := homePa (coreDie x.core / 8) (t.base + vaOf va % 2 ^ t.bits)
      if !t.x || t.rc != .ordinary || (x.level == 0 && !s.sealOk x.job h) then .error 0x0101
      else if t.ml != (x.level != 0) then .error 0x0102
      else .ok ⟨.ordinary, h, 0, 0⟩

/-- The code section that holds a VA among the segments of the context's level (R311), with its segment. -/
def State.sectionAt (s : State) (p : Place) (va : Nat) : Option (Segment × Section) :=
  let c := s.ctxAt p
  match (s.die (coreDie p.core)).segAt (bits c.r.jobId 9 0) (c.y.level != 0) va with
  | none => none
  | some g => (g.code.find? (fun t => t.va ≤ va && va < t.va + t.size)).map (fun t => (g, t))

/-- The block tag of R371: 64 bits of GMAC over a block under a fetch key, with MAPNO and VA[55:9] as IV. -/
def blockTag (key : BitVec 256) (mapno : BitVec 32) (va : Nat) (bytes : List Byte) : BitVec 64 :=
  (Config.gcmTag key (mapno ++ BitVec.ofNat 64 (nbits va 55 9)) bytes []).extractLsb' 0 64
/-- A key of a kind held for a job (R365). -/
def Die.keyOf (d : Die) (kind job : Nat) : Option (Nat × KeySlot) := d.keys.find? (fun k => k.2.v && k.2.kind == kind && k.2.job == job)
/-- The fetch key of a job; zeros where it has none. -/
def Die.fetchKey (d : Die) (job : Nat) : BitVec 256 := match d.keyOf 2 job with | some k => k.2.key | none => 0

/-- A resident verified block (R372). -/
def State.blockAt (s : State) (core asid va : Nat) : Option IBlock :=
  (s.core core).icache.find? (fun b => b.asid == asid && b.va == va / 512 * 512)

/-- Room for one more block: of a full instruction cache some block goes (R9; log 11). -/
def State.blockRoom (s : State) (core : Nat) : State :=
  let bs := (s.core core).icache
  if bs.length < icacheBlocks then s
  else State.modCore { s with fresh := s.fresh + 1 } core (fun c => { c with icache := c.icache.eraseIdx (Config.victim s.fresh % bs.length) })

/-- The fill of the block that holds a VA (R372): unsealed, its tag compared with the tag table. The error is the fetch kind. -/
def State.fillBlock (s : State) (p : Place) (va : Nat) (g : Segment) (sec : Section) (home : Nat) : Except Nat State :=
  let asid := (s.xctxAt p).asid
  match s.blockAt p.core asid va with
  | some _ => .ok s
  | none =>
    let b := va / 512 * 512
    let h := home - va % 512
    if s.poisoned h 512 then .error 0x0104
    else
      let bytes := s.bytesAt h 512
      if blockTag ((s.die (coreDie p.core)).fetchKey g.job) g.mapno b bytes ≠ SMap.get 0 sec.tags (b / 512) then .error 0x0201
      else .ok ((s.blockRoom p.core).modCore p.core (fun c => { c with icache := { asid := asid, va := b, bytes := bytes } :: c.icache }))

/-- An address as the fetch finds it for a context (R109, R114, R332, R341): its segment, section and home, or the fetch kind. -/
def State.fetchAt (s : State) (p : Place) (va : Word) : Except Nat (Segment × Section × Nat) :=
  match s.fetchXl p va with
  | .error c => .error c
  | .ok t => match s.sectionAt p (vaOf va) with
    | some (g, sec) => if sec.heads.contains (vaOf va) then .ok (g, sec, t.loc) else .error 0x0102
    | none => .error 0x0102

/-- The check of an indirect target (R114). -/
def State.targetBad (s : State) (p : Place) (va : Word) : Option Nat :=
  if (s.ctxAt p).y.level = 2 then none
  else match s.fetchAt p va with
    | .ok _ => none
    | .error c => some c

/-- The 64-byte line of code at a VA: of a resident block; for root code (R311) and a word not resident, of memory. -/
def State.codeBytes (s : State) (p : Place) (va n : Nat) : List Byte :=
  match s.blockAt p.core (s.xctxAt p).asid va with
  | some b => slice b.bytes (va % 512) n
  | none =>
    if (s.ctxAt p).y.level = 2 then s.bytesAt (homePa (coreDie p.core / 8) va) n
    else match s.fetchXl p (w64 va) with
      | .ok t => s.bytesAt t.loc n
      | .error _ => List.replicate n 0

/-- The head of the bundle at a VA, read without a fault: where the end bundle of a loop cannot be fetched, the spec does not say how its successor
is found (R119, R121); here its head is what memory holds, 0 where its page does not translate (DESIGN CHOICE, log 30). -/
def State.headAt (s : State) (p : Place) (va : Word) : Lane := BitVec.ofNat 32 (ofBytes (s.codeBytes p (vaOf va) 4))

/-- Whether the sequential successor of a bundle lies outside its section (R109). -/
def State.leaves (s : State) (p : Place) (baddr next : Word) : Bool :=
  match s.sectionAt p (vaOf baddr) with
  | some (_, sec) => !(sec.va ≤ vaOf next && vaOf next < sec.va + sec.size)
  | none => false

end Sys2Proof.Machine
end

