-- ==== Sys2Proof/Machine/Control.lean ====
section
/-! DEFINITION. The C slot (R113 to R125) and the loop-end effect (R120). The C slot acts last in its bundle, on the operands latched
at issue; `pc` already stands at the sequential successor. -/

namespace Sys2Proof.Machine

/-! ## Transfers -/

/-- A taken transfer of control; it suppresses the loop-end effect (R120). -/
def State.goto (s : State) (a : Word) : State :=
  (s.modCx (fun c => { c with r := { c.r with pc := a }, off := false })).modIss (fun i => { i with xfer := true })

/-- A direct target: an offset in words from the bundle's head (R114). -/
def State.direct (s : State) (off : Int) : Word := s.iss.baddr + BitVec.ofInt 64 (4 * off)

/-- A conditional direct branch (R117). -/
def State.branchIf (s : State) (cond : Bool) (off : Int) : State := if cond then s.goto (s.direct off) else s

/-- An indirect transfer, checked when it executes (R114); `link` writes g31 (R118). -/
def State.indirect (s : State) (target : Word) (link : Bool) : State :=
  match s.targetBad s.cur target with
  | some c => s.takeTrap c target
  | none =>
    let s := if link then s.modR (fun r => r.setG 31 s.succ) else s
    s.goto target

/-- Every bit, or some bit, below Lanes() of a latched predicate (R117). -/
def State.predAny (s : State) (p : BitVec 4) : Bool := s.lim (s.iss.sync.rp p.toNat) != 0
def State.predAll (s : State) (p : BitVec 4) : Bool := s.lim (s.iss.sync.rp p.toNat) == s.lim (BitVec.allOnes 64)

/-- `br` (R117). -/
def execBr (w : BitVec 24) (s : State) : Out := .next (s.goto (s.direct w.toInt))
/-- `call` (R118). -/
def execCall (w : BitVec 24) (s : State) : Out := .next ((s.modR (fun r => r.setG 31 s.succ)).goto (s.direct w.toInt))
/-- `bz` (R117). -/
def execBz (g : BitVec 5) (w : BitVec 19) (s : State) : Out := .next (s.branchIf (s.rs g == 0) w.toInt)
/-- `bnz` (R117). -/
def execBnz (g : BitVec 5) (w : BitVec 19) (s : State) : Out := .next (s.branchIf (s.rs g != 0) w.toInt)
/-- `blt` (R117). -/
def execBlt (g : BitVec 5) (w : BitVec 19) (s : State) : Out := .next (s.branchIf (decide ((s.rs g).toInt < 0)) w.toInt)
/-- `bge` (R117). -/
def execBge (g : BitVec 5) (w : BitVec 19) (s : State) : Out := .next (s.branchIf (decide (0 ≤ (s.rs g).toInt)) w.toInt)
/-- `bpany` (R117). -/
def execBpany (p : BitVec 4) (w : BitVec 19) (s : State) : Out := .next (s.branchIf (s.predAny p) w.toInt)
/-- `bpall` (R117). -/
def execBpall (p : BitVec 4) (w : BitVec 19) (s : State) : Out := .next (s.branchIf (s.predAll p) w.toInt)
/-- `callr` (R118). -/
def execCallr (g : BitVec 5) (s : State) : Out := .next (s.indirect (s.rs g) true)
/-- `jr` (R118). -/
def execJr (g : BitVec 5) (s : State) : Out := .next (s.indirect (s.rs g) false)
/-- `ret` (R118). -/
def execRet (s : State) : Out := .next (s.indirect (s.rs 31) false)

/-! ## Loops -/

/-- A frame of a loop counter is active (R119). -/
def Regs.looping (r : Regs) (n : Nat) : Bool := r.frames.any (fun f => f.lc == n)

/-- Go to the sequential successor of the bundle at an address (R115, R119, R121); one outside that bundle's section faults when it is fetched
(R109). -/
def State.skipTo (s : State) (last : Word) : State :=
  let next := successor last (s.headAt s.cur last)
  let off := s.leaves s.cur last next
  (s.modCx (fun c => { c with r := { c.r with pc := next }, off := off })).modIss (fun i => { i with skip := true })

/-- Start a loop on a free counter whose body ends `e` words from the head (R119). Passing over the body is no transfer of the list of R120:
the bundle's own loop-end effect still takes place. -/
def State.loopStart (s : State) (n count : Nat) (e : Int) : State :=
  let last := s.direct e
  if s.cx.r.looping n then s.takeTrap 0x0703 0
  else if count = 0 then s.skipTo last
  else s.modR (fun r => { r with lc := SMap.put r.lc n count, frames := { lc := n, start := s.succ, last := last } :: r.frames })

/-- `loop`: a count above 2^24 − 1 is taken as 2^24 − 1 and sets SAT (R119). -/
def execLoop (n : BitVec 2) (g : BitVec 5) (w : BitVec 19) (s : State) : Out :=
  let c := (s.rs g).toNat
  if c > 16777215 && !s.cx.r.looping n.toNat then .next ((s.flag fSAT).loopStart n.toNat 16777215 w.toInt)
  else .next (s.loopStart n.toNat c w.toInt)
/-- `loopi`: count13, or bits [23:0] of the literal for 0x1FFF (R97, R119). -/
def execLoopi (n : BitVec 2) (c : BitVec 13) (e : BitVec 11) (s : State) : Out :=
  .next (s.loopStart n.toNat (if c = 0x1FFF then s.iss.lit.toNat % 2 ^ 24 else c.toNat) e.toNat)

/-- The frames activated after a counter's, and its own (R121); frames stand latest first. -/
def framesFrom (n : Nat) : List Frame → List Frame
  | [] => []
  | f :: t => if f.lc = n then [f] else f :: framesFrom n t

/-- `lbrk` (R121). -/
def execLbrk (n : BitVec 2) (s : State) : Out :=
  match s.cx.r.frames.find? (fun f => f.lc == n.toNat) with
  | none => .next s
  | some f =>
    let gone := framesFrom n.toNat s.cx.r.frames
    let s := s.modR (fun r => { r with lc := gone.foldl (fun m g => SMap.put m g.lc 0) r.lc, frames := r.frames.drop gone.length })
    .next ((s.skipTo f.last).modIss (fun i => { i with xfer := true }))

/-- The loop-end effect of a completed bundle with LEND (R120). -/
def State.loopEnd (s : State) : State :=
  match s.cx.r.frames.find? (fun f => f.last == s.iss.baddr) with
  | none => s
  | some f =>
    let n := SMap.get 0 s.cx.r.lc f.lc - 1
    let s := s.modR (fun r => { r with lc := SMap.put r.lc f.lc n })
    if n ≠ 0 then s.modCx (fun c => { c with r := { c.r with pc := f.start }, off := false })
    else
      let off := s.leaves s.cur s.iss.baddr s.succ
      s.modCx (fun c => { c with r := { c.r with frames := c.r.frames.filter (fun g => g.lc != f.lc), pc := s.succ }, off := off })

/-! ## Ending a task and posting (R123, R124) -/

/-- The task in issue ends (R45, R123); it waits where it needs a detached set and none is free (R207). -/
def State.endTask (s : State) : State :=
  match s.endTaskAt s.cur false with
  | none => s.hold
  | some s => s.modIss (fun i => { i with ended := true })

/-- The record of a post whose checks are made (R124, step 7): once its release is complete (R36), and a slot is free (R40). The answer is true
when it is written. -/
def State.postWrite (s : State) (cl : Nat) (r : TaskRec) : Bool × State :=
  let s := s.publish s.cur.core 2
  if s.unacked s.cur.core 2 then (false, s.hold)
  else match s.putOrWait (coreDie s.cur.core) cl r (coreLocal s.cur.core * 2 + s.cur.ctx) with
    | none => (false, (s.modIss (fun i => { i with blocked := some (r.stg, cl) })).hold)
    | some s => (true, s.modIss (fun i => { i with blocked := none, posting := none, postDone := true }))

/-- Steps 1 to 7 of a post (R124): the checks and the release are made once, and the record is written once. The answer is true when it is
written. -/
def State.postRecord (s : State) (g : BitVec 5) (st : BitVec 3) : Bool × State :=
  let die := coreDie s.cur.core
  let t := s.cx.t
  let a := s.rs g
  if s.iss.postDone then (true, s)
  else match s.iss.posting with
  | some (cl, r) => s.postWrite cl r
  | none =>
    match (s.die die).stageOf t.job t.flow st.toNat with
    | none => (false, s.takeTrap 0x0E01 0)
    | some _ =>
      match s.access .rd 64 false 64 [(0, a)] with
      | .error (c, v) => (false, s.takeTrap c v)
      | .ok els =>
        let s := s.freshen els
        match s.missing 64 els with
        | some (e, l) => (false, s.fetchRemote e l)
        | none =>
          let ws := wordsOf 8 (match els with | e :: _ => s.readAt s.cur.core e.2.2 64 | [] => [])
          let s := s.settle els
          if bits (wd ws 1) 63 56 ≠ 0 || bits (wd ws 2) 63 56 ≠ 0 then (false, s.takeTrap 0x0E02 0)
          else match s.homeClusterOf (bits (wd ws 2) 55 0) with
            | .error c => (false, s.takeTrap c (wd ws 2))
            | .ok cl =>
              let r : TaskRec := { coord := wd ws 0, argp := wd ws 1, home := wd ws 2, job := t.job, flow := t.flow, orig := 2, stg := st.toNat,
                                   inl := (ws.drop 4) }
              ((s.releaseCore s.cur.core 2).modIss (fun i => { i with posting := some (cl, r) })).postWrite cl r

/-- `endt` (R123). -/
def execEndt (s : State) : Out := .next s.endTask
/-- `post` (R124). -/
def execPost (g : BitVec 5) (st : BitVec 3) (s : State) : Out := .next (s.postRecord g st).2
/-- `endt.post` (R124): once the record is written, the task ends as under R123, which may wait. -/
def execEndtPost (g : BitVec 5) (st : BitVec 3) (s : State) : Out :=
  let (ok, s) := s.postRecord g st
  .next (if ok then s.endTask else s)

/-! ## Traps and system calls (R125, R316, R367) -/

/-- The KEYGEN service of root (R367): g1 holds the header, g2 the destination VA. -/
def State.keygen (s : State) : State :=
  let die := coreDie s.cur.core
  let hdr := s.cx.r.rg 1
  let kind := bits hdr 30 29
  let bad := bits hdr 63 31 ≠ 0 || bits hdr 17 10 ≠ 0 || (kind ≠ 1 && bits hdr 28 18 ≠ 0) || (bit hdr 18 && bits hdr 28 19 ≠ 0)
  if bad then s.modR (fun r => r.setG 1 (0 - 2))
  else
    let key := Config.randomKey s.fresh
    let nonce := w64 (s.fresh + 1)
    let iv : BitVec 96 := nonce.zeroExtend 96
    let plain := bytesOf 32 key.toNat
    let aad := bytesOf 8 hdr.toNat
    let wk := (s.die die).wrapKey
    let ct := Config.gcmCrypt wk iv plain
    let tag := Config.gcmTag wk iv aad ct
    let blob := aad ++ bytesOf 8 nonce.toNat ++ padTo 32 ct ++ bytesOf 16 tag.toNat
    let s := { s with fresh := s.fresh + 1 }
    (s.putVa s.xc (vaOf (s.cx.r.rg 2)) blob 128).modR (fun r => r.setG 1 0)

/-- A software trap or system call: once no register awaits a load, the C slot completes, and the trap follows (R125, R316). The context's ports have advanced, as of a completed
bundle; the record holds them as before it (R318; DEDUCED, log 25). On a system core root serves KEYGEN (R367). -/
def State.softTrap (s : State) (cause : Nat) (code : BitVec 16) : State :=
  if !s.cx.pend.isEmpty then s.hold else
  let s := s.advancePorts
  let s := s.modIss (fun i => { i with cmask := i.cmask ||| 1, xfer := true })
  if isSystem s.cur.core && cause = 0x1000 && s.cx.y.level = 1 && 0x0100 ≤ code.toNat && code.toNat ≤ 0x01FF then
    let s := s.modY (fun y => { y with mcause := w64 cause, mepc := s.succ })
    let off := s.leaves s.cur s.iss.baddr s.succ
    let s := s.modCx (fun c => { c with off := off })
    if code = 0x0100 then s.keygen else s.modR (fun r => r.setG 1 (0 - 1))
  else s.trapAt cause 0 (code.zeroExtend 64) 0 s.succ

/-- `trap` (R125). -/
def execTrap (c : BitVec 16) (s : State) : Out := .next (s.softTrap 0x1000 c)
/-- `sysc` (R125). -/
def execSysc (c : BitVec 16) (s : State) : Out := .next (s.softTrap 0x1100 c)
/-- An empty bundle (R89): STOP and PAD are the bundle's own, LEND has its effect at completion. -/
def execEmptyBundle (_ _ _ : Bool) (s : State) : Out := .next s

end Sys2Proof.Machine
end

