-- ==== Sys2Proof/Machine/LoadStore.lean ====
section
/-! DEFINITION. The L slot (R171 to R188). -/

namespace Sys2Proof.Machine

/-! ## Scalar loads and stores (R175) -/

/-- The bytes that a core has written to a line and not yet written back (R174, R238). -/
def State.ownBytes (s : State) (core loc : Nat) : List (Nat × Byte) :=
  match s.lineAt core loc with
  | some l => ((range 0 64).filter (fun i => l.dirty.getLsbD i)).map (fun i => (i, l.bytes.getD i 0))
  | none => []

/-- A remote load leaves its register pending, and the bundle goes on (R353, R359); its value has what the core has written itself (R241). -/
def State.pendLoad (s : State) (signed : Bool) (n loc : Nat) (d : BitVec 5) (ea : Word) : State :=
  match s.iss.req with
  | some (dst, vc, seq) =>
    let e : Pend := { dst := dst, vc := vc, seq := seq, off := loc % 64, len := n, signed := signed, g := d.toNat, va := ea, own := s.ownBytes s.cur.core loc }
    s.modCx (fun c => { c with pend := c.pend ++ [e] })
  | none => s

/-- A scalar load of n bytes (R173, R175). -/
def State.scalarLoad (s : State) (signed : Bool) (n : Nat) (d b : BitVec 5) (o : BitVec 13) : State :=
  match s.checked b .rd n true n [(0, s.ea b o n)] with
  | .error (c, v) => s.takeTrap c v
  | .ok els =>
    let s := s.freshen els
    match s.missing n els with
    | some (e, l) => if s.iss.resp == some .defer && s.iss.req.isSome then s.pendLoad signed n l d (faultVa e 0) else s.fetchRemote e l
    | none =>
      match els with
      | [] => s
      | e :: _ =>
        let (bs, s) := s.loadOne e.2.2 n
        (s.settle els).wg d (if signed then BitVec.ofInt 64 (sext (ofBytes bs) (8 * n)) else w64 (ofBytes bs))

/-- A scalar store of n bytes (R173, R175). -/
def State.scalarStore (s : State) (n : Nat) (d b : BitVec 5) (o : BitVec 13) : State :=
  match s.checked b .wr n true n [(0, s.ea b o n)] with
  | .error (c, v) => s.takeTrap c v
  | .ok els => s.storeEls n els (fun _ => bytesOf n (s.ra d).toNat)

/-- `ld.s8` (R175). -/
def execLdS8 (d b : BitVec 5) (o : BitVec 13) (s : State) : Out := .next (s.scalarLoad true 1 d b o)
/-- `ld.s16` (R175). -/
def execLdS16 (d b : BitVec 5) (o : BitVec 13) (s : State) : Out := .next (s.scalarLoad true 2 d b o)
/-- `ld.s32` (R175). -/
def execLdS32 (d b : BitVec 5) (o : BitVec 13) (s : State) : Out := .next (s.scalarLoad true 4 d b o)
/-- `ld.s64` (R175). -/
def execLdS64 (d b : BitVec 5) (o : BitVec 13) (s : State) : Out := .next (s.scalarLoad true 8 d b o)
/-- `ld.z8` (R175). -/
def execLdZ8 (d b : BitVec 5) (o : BitVec 13) (s : State) : Out := .next (s.scalarLoad false 1 d b o)
/-- `ld.z16` (R175). -/
def execLdZ16 (d b : BitVec 5) (o : BitVec 13) (s : State) : Out := .next (s.scalarLoad false 2 d b o)
/-- `ld.z32` (R175). -/
def execLdZ32 (d b : BitVec 5) (o : BitVec 13) (s : State) : Out := .next (s.scalarLoad false 4 d b o)
/-- `st.8` (R175). -/
def execSt8 (d b : BitVec 5) (o : BitVec 13) (s : State) : Out := .next (s.scalarStore 1 d b o)
/-- `st.16` (R175). -/
def execSt16 (d b : BitVec 5) (o : BitVec 13) (s : State) : Out := .next (s.scalarStore 2 d b o)
/-- `st.32` (R175). -/
def execSt32 (d b : BitVec 5) (o : BitVec 13) (s : State) : Out := .next (s.scalarStore 4 d b o)
/-- `st.64` (R175). -/
def execSt64 (d b : BitVec 5) (o : BitVec 13) (s : State) : Out := .next (s.scalarStore 8 d b o)

/-! ## Vector transfers, gather and scatter (R177 to R179) -/

/-- The view byte of row v. -/
def rowView (v : BitVec 6) : BitVec 8 := 0#2 ++ v
/-- The view byte of column v. -/
def colView (v : BitVec 6) : BitVec 8 := 1#2 ++ v

/-- The elements of a transfer (R177): enabled, below Lanes(), held by the view. -/
def State.vecEls (s : State) (view : BitVec 8) (addr : Nat → Word) : List (Nat × Word) :=
  ((range 0 64).filter (fun i => s.enb i && i < s.lanes && (viewKey s.cx.t.vb s.cur.ctx view i).isSome)).map (fun i => (i, addr i))

/-- Element addresses of a vector transfer: EA + 4i (R177). -/
def State.rowAddrs (s : State) (b : BitVec 5) (o : BitVec 13) : Nat → Word := fun i => s.ea b o 256 + w64 (4 * i)
/-- Element addresses of a gather or scatter: gB + SignExt(lane i of vI, 32) × s (R179). -/
def State.indexAddrs (s : State) (b : BitVec 5) (ix : BitVec 6) (sc : BitVec 2) : Nat → Word :=
  let l := s.viewRd (rowView ix)
  let k : Int := match sc.toNat with | 0 => 1 | 1 => 4 | _ => 256
  fun i => s.ra b + BitVec.ofInt 64 ((l.getD i 0).toInt * k)

/-- The words of the elements of a load, element by element. -/
def State.loadEls (s : State) : List (Nat × Word × Xl) → SMap Lane → SMap Lane × State
  | [], m => (m, s)
  | e :: t, m =>
    let (bs, s) := s.loadOne e.2.2 4
    s.loadEls t (SMap.put m e.1 (BitVec.ofNat 32 (ofBytes bs)))

/-- A load of 4-byte elements into a view (R173, R177 to R179). -/
def State.vecLoad (s : State) (base : BitVec 5) (view : BitVec 8) (addr : Nat → Word) : State :=
  match s.checked base .rd 4 false 4 (s.vecEls view addr) with
  | .error (c, v) => s.takeTrap c v
  | .ok els =>
    let s := s.freshen els
    match s.missing 4 els with
    | some (e, l) => s.fetchRemote e l
    | none =>
      let (m, s) := s.loadEls els []
      (s.settle els).viewWr view ((range 0 64).map (fun i => SMap.get 0 m i)) (wordFrom (fun i => m.has i))

/-- A store of 4-byte elements of a view, in ascending element order (R173, R177 to R179). -/
def State.vecStore (s : State) (base : BitVec 5) (view : BitVec 8) (addr : Nat → Word) : State :=
  match s.checked base .wr 4 false 4 (s.vecEls view addr) with
  | .error (c, v) => s.takeTrap c v
  | .ok els => let vals := s.viewRd view; s.storeEls 4 els (fun i => bytesOf 4 (vals.getD i 0).toNat)

/-- `vld` (R177). -/
def execVld (v : BitVec 6) (b : BitVec 5) (o : BitVec 13) (s : State) : Out := .next (s.vecLoad b (rowView v) (s.rowAddrs b o))
/-- `vldc` (R177). -/
def execVldc (v : BitVec 6) (b : BitVec 5) (o : BitVec 13) (s : State) : Out := .next (s.vecLoad b (colView v) (s.rowAddrs b o))
/-- `vst` (R177). -/
def execVst (v : BitVec 6) (b : BitVec 5) (o : BitVec 13) (s : State) : Out := .next (s.vecStore b (rowView v) (s.rowAddrs b o))
/-- `vstc` (R177). -/
def execVstc (v : BitVec 6) (b : BitVec 5) (o : BitVec 13) (s : State) : Out := .next (s.vecStore b (colView v) (s.rowAddrs b o))
/-- `vgath` (R179). -/
def execVgath (v : BitVec 6) (b : BitVec 5) (i : BitVec 6) (sc : BitVec 2) (s : State) : Out :=
  .next (s.vecLoad b (rowView v) (s.indexAddrs b i sc))
/-- `vscat` (R179). -/
def execVscat (v : BitVec 6) (b : BitVec 5) (i : BitVec 6) (sc : BitVec 2) (s : State) : Out :=
  .next (s.vecStore b (rowView v) (s.indexAddrs b i sc))

/-! ## Accumulator rows (R180) -/

/-- The row of `accrd` and `accwr`: ZeroExt(gB, 64) + SignExt(offset, 12). -/
def State.accRow (s : State) (b : BitVec 5) (o : BitVec 12) : Int := (s.ra b).toNat + o.toInt
/-- A row outside the accumulator memory or the stage's window (R21, R180). -/
def State.accBad (s : State) (r : Int) : Bool := r < 0 || 1024 ≤ r || s.rowsOut r.toNat 1
/-- The column paired with lane i (R180). -/
def accCol (hi : Bool) (i : Nat) : Nat := if hi then (i + 32) % 64 else i

/-- `accrd`: earlier M-slot work of the core is performed first (R161, R180). -/
def execAccrd (v : BitVec 6) (b : BitVec 5) (o : BitVec 12) (hi : Bool) (s : State) : Out :=
  let r := s.accRow b o
  if s.accBad r then .next (s.takeTrap 0x0601 0)
  else
    let s := s.drainAll s.cur.core
    .next (s.viewWr (rowView v) ((range 0 64).map (fun i => s.co.accAt r.toNat (accCol hi i))) (BitVec.allOnes 64))
/-- `accwr` (R180). -/
def execAccwr (v : BitVec 6) (b : BitVec 5) (o : BitVec 12) (hi : Bool) (s : State) : Out :=
  let r := s.accRow b o
  if s.accBad r then .next (s.takeTrap 0x0601 0)
  else
    let s := s.drainAll s.cur.core
    let vals := s.viewRd (rowView v)
    .next (s.modCo (fun c => (range 0 s.lanes).foldl (fun c i => c.setAcc r.toNat (accCol hi i) (vals.getD i 0)) c))

/-! ## Ports (R181 to R184) -/

/-- The index of a port named by W and an index: write ports stand from 8. -/
def portIx (w : Bool) (p : BitVec 3) : Nat := if w then 8 + p.toNat % 4 else p.toNat

/-- `pcfg` (R181). -/
def execPcfg (w : Bool) (p : BitVec 3) (h : BitVec 4) (s : State) : Out :=
  let sh := s.iss.lat.rh h.toNat
  if sh.malformed then .next (s.takeTrap 0x0A02 0)
  else if bit sh.w0 57 then .next (s.takeTrap 0x0501 (w64 (bits sh.w0 55 0)))
  else .next (s.modR (fun r => r.setPort (portIx w p) { shape := sh, bound := true }))

/-- `prst` (R182). -/
def execPrst (w : Bool) (p : BitVec 3) (s : State) : Out :=
  let q := s.cx.r.port (portIx w p)
  .next (if q.bound then s.modR (fun r => r.setPort (portIx w p) { q with pos := 0, exh := false }) else s)
/-- `prst.u` (R182). -/
def execPrstU (w : Bool) (p : BitVec 3) (s : State) : Out :=
  let q := s.cx.r.port (portIx w p)
  .next (if q.bound then s.modR (fun r => r.setPort (portIx w p) {}) else s)
/-- `padv` (R183). -/
def execPadv (w : Bool) (p : BitVec 3) (g : BitVec 5) (n : BitVec 13) (s : State) : Out :=
  let q := s.cx.r.port (portIx w p)
  .next (if q.bound then s.modR (fun r => r.setPort (portIx w p) (q.advance ((s.ra g).toNat + n.toNat))) else s)

/-! ## Shape registers (R185, R186) -/

/-- `hld` (R185). -/
def execHld (h : BitVec 4) (b : BitVec 5) (o : BitVec 13) (s : State) : Out :=
  match s.checked b .rd 64 false 64 [(0, s.ea b o 64)] with
  | .error (c, v) => .next (s.takeTrap c v)
  | .ok els =>
    let s := s.freshen els
    match s.missing 64 els with
    | some (e, l) => .next (s.fetchRemote e l)
    | none =>
      match els with
      | [] => .next s
      | e :: _ =>
        let v := Shape.ofBytes (s.readAt s.cur.core e.2.2 64)
        .next ((s.settle els).modR (fun r => r.setH h.toNat v))

/-- `hst` (R185). -/
def execHst (h : BitVec 4) (b : BitVec 5) (o : BitVec 13) (s : State) : Out :=
  match s.checked b .wr 64 false 64 [(0, s.ea b o 64)] with
  | .error (c, v) => .next (s.takeTrap c v)
  | .ok els => .next (s.storeEls 64 els (fun _ => (s.iss.lat.rh h.toNat).bytes))

/-- A word with bits [hi:lo] replaced by the low bits of a value. -/
def putBits (w : Word) (hi lo : Nat) (v : Word) : Word :=
  let m := maskFrom lo (hi + 1 - lo)
  (w &&& ~~~m) ||| ((v <<< lo) &&& m)

/-- A shape with one field replaced, by the field code of R186. -/
def Shape.setField (h : Shape) (f : Nat) (v : Word) : Shape :=
  match f with
  | 0x00 => { h with w0 := putBits h.w0 55 0 v }
  | 0x01 => { h with w0 := putBits h.w0 56 56 v }
  | 0x02 => { h with w0 := putBits h.w0 57 57 v }
  | 0x03 => { h with w0 := putBits h.w0 58 58 v }
  | 0x04 => { h with w1 := putBits h.w1 63 32 v }
  | 0x05 => { h with w1 := putBits h.w1 7 5 v }
  | 0x06 => { h with w1 := putBits h.w1 4 0 v }
  | 0x08 => { h with w2 := putBits h.w2 31 0 v }
  | 0x09 => { h with w2 := putBits h.w2 63 32 v }
  | 0x0A => { h with w3 := putBits h.w3 31 0 v }
  | 0x0B => { h with w3 := putBits h.w3 63 32 v }
  | 0x0C => { h with w4 := putBits h.w4 31 0 v }
  | 0x0D => { h with w4 := putBits h.w4 63 32 v }
  | 0x0E => { h with w5 := putBits h.w5 31 0 v }
  | 0x0F => { h with w5 := putBits h.w5 63 32 v }
  | 0x10 => { h with w6 := putBits h.w6 15 0 v }
  | 0x11 => { h with w6 := putBits h.w6 31 16 v }
  | 0x12 => { h with w6 := putBits h.w6 47 32 v }
  | 0x13 => { h with w6 := putBits h.w6 63 48 v }
  | 0x14 => { h with w7 := putBits h.w7 31 0 v }
  | 0x18 => { h with w0 := v }
  | 0x19 => { h with w1 := v }
  | 0x1A => { h with w2 := v }
  | 0x1B => { h with w3 := v }
  | 0x1C => { h with w4 := v }
  | 0x1D => { h with w5 := v }
  | 0x1E => { h with w6 := v }
  | 0x1F => { h with w7 := v }
  | _ => h

/-- `hset` (R186). -/
def execHset (h : BitVec 4) (g : BitVec 5) (f : BitVec 6) (s : State) : Out :=
  .next (s.modR (fun r => r.setH h.toNat ((s.iss.lat.rh h.toNat).setField f.toNat (s.ra g))))

/-! ## Prefetch and address arithmetic (R187, R188) -/

/-- `pref` (R187): an ordinary line is allocated, a remote one is requested behind the core's writes to it; anything else does nothing, nor does a full
replay window. -/
def execPref (b : BitVec 5) (o : BitVec 13) (s : State) : Out :=
  let a := s.ea b o 64
  match s.xlateEa s.xc (a &&& ~~~(63 : Word)) .rd with
  | .error _ => .next s
  | .ok t =>
    let s := s.tlbFill s.xc (vaOf a)
    match t.rc with
    | .ordinary => .next (if s.poisoned (t.loc / 64 * 64) 64 then s else s.allocLine s.xc (vaOf a) t.loc)
    | .remote =>
      if (s.lineAt s.cur.core t.loc).isSome then .next s
      else
        match s.flushSpan s.cur.core (t.loc / 64 * 64) 64 with
        | (false, s) => .next s
        | (true, s) =>
          match s.sendReq (coreDie s.cur.core) (lineRead s.xc.job t.loc) (4, s.cur.core, s.cur.ctx) (s.xc.asid, vaOf a / 64 * 64) with
          | some (s, _) => .next s
          | none => .next s
    | _ => .next s

/-- `lea` (R188). -/
def execLea (d b : BitVec 5) (o : BitVec 13) (s : State) : Out := .next (s.wg d (s.ea b o 1))

end Sys2Proof.Machine
end

