-- ==== Sys2Proof/Machine/Engine.lean ====
section
/-! DEFINITION. The X slot's engine cards, counters and triggers (R191 to R210), and the engines' events. -/

namespace Sys2Proof.Machine

/-! ## Shapes as walks (R193) -/

/-- The format code of a shape (R56). -/
def Shape.fmt (h : Shape) : Nat := bits h.w1 4 0
/-- BASE, RMT, WR and RKEY of a shape (R55). -/
def Shape.base (h : Shape) : Nat := bits h.w0 55 0
def Shape.rmt (h : Shape) : Bool := bit h.w0 57
def Shape.wr (h : Shape) : Bool := bit h.w0 56
def Shape.rkey (h : Shape) : Nat := bits h.w1 63 32
/-- Stride and origin of a dimension (R55). -/
def Shape.stride (h : Shape) (i : Nat) : Int :=
  match i with
  | 0 => sext (bits h.w4 31 0) 32
  | 1 => sext (bits h.w4 63 32) 32
  | 2 => sext (bits h.w5 31 0) 32
  | _ => sext (bits h.w5 63 32) 32
def Shape.origin (h : Shape) (i : Nat) : Nat :=
  match i with
  | 0 => bits h.w6 15 0
  | 1 => bits h.w6 31 16
  | 2 => bits h.w6 47 32
  | _ => bits h.w6 63 48

/-- The address of element n of a walk (R193). -/
def Shape.elemAddr (h : Shape) (n : Nat) : Int := rowAddr { shape := h, pos := n } 0

/-- The footprint of a shape (R193): the lowest and the highest byte, none for a shape with no elements. -/
def Shape.footprint (h : Shape) : Option (Int × Int) :=
  if h.count = 0 then none
  else
    let span (i : Nat) : Int := ((h.ext i : Int) - 1) * h.stride i
    let at0 : Int := (List.range h.rank).foldl (fun a i => a + h.origin i * h.stride i) h.base
    let lo := (List.range h.rank).foldl (fun a i => a + min 0 (span i)) at0
    let hi := (List.range h.rank).foldl (fun a i => a + max 0 (span i)) at0
    some (lo, hi + fmtBytes h.fmt - 1)

/-- Two footprints intersect. -/
def meets (a b : Option (Int × Int)) : Bool :=
  match a, b with
  | some (l, h), some (l', h') => l ≤ h' && l' ≤ h
  | _, _ => false

/-! ## Cards -/

/-- The read footprints of a card (R193). -/
def Card.reads (c : Card) : List (Option (Int × Int)) :=
  match c.op with
  | .copy => [c.src.footprint]
  | .gath | .scat => [c.src.footprint, c.idx.footprint]
  | .fill => []
/-- The write footprint of a card (R193). -/
def Card.writes (c : Card) : Option (Int × Int) := c.dst.footprint

/-- Card b waits for the earlier card a of its task (R200). -/
def Card.blocks (a b : Card) : Bool :=
  a.ctx == b.ctx && a.tid == b.tid && a.job == b.job &&
  (b.ord || meets a.writes b.writes || b.reads.any (meets a.writes) || a.reads.any (meets b.writes))

/-- The translation context of a card (R335, R373). -/
def Card.xc (c : Card) (core : Nat) : XCtx :=
  { core := core, ctx := c.ctx, job := c.job, asid := c.asid, ptroot := c.ptroot, level := if c.taskLevel then 0 else 1,
    splo := c.splo, sphi := c.sphi, slim := c.slim }

/-- The number of elements a card moves, their size, and the elements of a record (R195, R196). With records of no elements it is the number of
indices, each of which is still read and checked. -/
def Card.total (c : Card) : Nat :=
  match c.op with
  | .copy => c.src.count
  | .fill => c.dst.count
  | .gath => if c.src.ext 0 = 0 then c.idx.count else c.dst.count
  | .scat => if c.dst.ext 0 = 0 then c.idx.count else c.src.count
def Card.size (c : Card) : Nat := fmtBytes c.dst.fmt
def Card.recLen (c : Card) : Nat := match c.op with | .gath => c.src.ext 0 | _ => c.dst.ext 0
def Card.indexed (c : Card) : Bool := c.op == .gath || c.op == .scat

/-- Element c0 of record v of a region (R196). -/
def Shape.recAddr (h : Shape) (v c0 : Nat) : Int := h.base + (h.origin 0 + c0) * h.stride 0 + (h.origin 1 + v) * h.stride 1

/-- Source and destination address of element n. -/
def Card.srcAddr (c : Card) (n : Nat) : Int := if c.op = .gath then c.src.recAddr c.rec_ (n % max 1 c.recLen) else c.src.elemAddr n
def Card.dstAddr (c : Card) (n : Nat) : Int := if c.op = .scat then c.dst.recAddr c.rec_ (n % max 1 c.recLen) else c.dst.elemAddr n

/-! ## Issue checks (R194) -/

/-- The first byte of [lo, hi] that a window refuses, with the cause: the windows allow intervals, so it is `lo` or the end of an
allowed interval. -/
def State.windowBad (s : State) (x : XCtx) (f : Option (Int × Int)) : Option Bad :=
  match f with
  | none => none
  | some (lo, hi) =>
    if lo < 2 ^ 55 || 2 ^ 56 ≤ lo || !((winScratch ≤ lo.toNat && lo.toNat < winScratch + 2 ^ 32) || (winCluster ≤ lo.toNat && lo.toNat < winCluster + 2 ^ 32)) then none
    else
      let cl := SMap.get (0, 0) (s.die (coreDie x.core)).cwins (x.job * 8 + coreCluster x.core % 8)
      let ends : List Nat := [winScratch + x.sphi * 4096, winScratch + stackTop x.ctx, winScratch + 2 ^ 21, winCluster + cl.2]
      let probes := lo.toNat :: (ends.filter (fun e => lo.toNat ≤ e && (e : Int) ≤ hi))
      let bad := probes.filter (fun a => match s.window x a with | .ok _ => false | .error _ => true)
      match bad with
      | [] => none
      | a :: t =>
        let m := t.foldl min a
        some (match s.window x m with | .ok _ => 0x0403 | .error c => c, w64 m)

/-- The page that holds the lowest byte of a side is of a class a card cannot use (R194 check 6). -/
def State.sideClassBad (s : State) (x : XCtx) (acc : Acc) (f : Option (Int × Int)) : Option Bad :=
  match f with
  | none => none
  | some (lo, _) =>
    if lo < 0 || 2 ^ 56 ≤ lo then none
    else match s.xlate x lo.toNat acc with
      | .error _ => none
      | .ok t => match t.rc with
        | .mcast | .drift | .mmio => some (0x0501, w64 lo.toNat)
        | _ => none

/-- A shape that no card takes (R194 check 1). -/
def Shape.cardBad (h : Shape) : Bool := h.malformed || bit h.w0 58 || h.fmt == 0x0C

/-- Checks 5 and 6 of R194. -/
def State.cardLate (s : State) (x : XCtx) (c : Card) : Option Bad :=
  let word : Except Bad Xl := match c.cw with | some a => s.xlSpan x .wr 8 a | none => .ok ⟨.scratch, 0, 0, 0⟩
  let cwa : Word := match c.cw with | some a => faultVa a 0 | none => 0
  match (c.reads ++ [c.writes]).findSome? (s.windowBad x) with
  | some b => some b
  | none =>
    match word with
    | .error b => some b
    | .ok t =>
      match c.reads.findSome? (s.sideClassBad x .rd) with
      | some b => some b
      | none =>
        match s.sideClassBad x .wr c.writes with
        | some b => some b
        | none => match t.rc with
          | .scratch | .cluster | .ordinary => none
          | _ => some (0x0501, cwa)

/-- The checks of R194, in order. -/
def State.cardBad (s : State) (x : XCtx) (c : Card) : Option Bad :=
  let region := if c.op = .gath then c.src else c.dst
  let dense := if c.op = .gath then c.dst else c.src
  let shapes := match c.op with
    | .fill => c.dst.cardBad
    | .copy => c.src.cardBad || c.dst.cardBad || c.src.fmt != c.dst.fmt || c.src.count != c.dst.count
    | _ => c.src.cardBad || c.dst.cardBad || c.idx.cardBad || c.src.fmt != c.dst.fmt || region.rank != 2 || c.idx.rank != 1 ||
           !(c.idx.fmt == 4 || c.idx.fmt == 5) || dense.count != c.idx.count * region.ext 0
  let both := c.op != .fill && c.src.rmt && c.dst.rmt
  if shapes || both then some (0x0A02, 0)
  else if !c.dst.wr then some (0x0601, w64 c.dst.base)
  else if c.reads.any (meets c.writes) then some (0x0601, match c.writes with | some (lo, _) => w64 (va56 lo) | none => 0)
  else match c.cw with
    | some a => if a.toNat % 8 ≠ 0 then some (0x0801, a) else State.cardLate s x c
    | none => State.cardLate s x c

/-! ## Predicates and triggers (R205, R206, R209) -/

/-- A predicate record parsed, or nothing where it is malformed (R205). `acts` lists the ACT values allowed. -/
def Pred.parse (ws : List Word) (acts : List Nat) : Option Pred :=
  let w0 := wd ws 0
  let w1 := wd ws 1
  let w6 := wd ws 6
  let nn := bits w1 6 4
  let nl := bits w1 3 0
  let node (n : Nat) : Bool × Nat × Nat := (bit w0 (9 * n + 8), bits w0 (9 * n + 7) (9 * n + 4), bits w0 (9 * n + 3) (9 * n))
  let leafK (l : Nat) : Nat := bits w1 (5 * l + 12) (5 * l + 8)
  let leafT (l : Nat) : Nat := bits (wd ws (2 + l / 2)) (32 * (l % 2) + 31) (32 * (l % 2))
  let child (n c : Nat) : Bool := if c < 8 then c < nl else c != 15 && c - 8 < n
  let bad :=
    bit w0 63 || bits w1 63 48 ≠ 0 || bit w1 7 || nl > 8 || bits w6 31 13 ≠ 0 || bits w6 7 5 ≠ 0 || wd ws 7 ≠ 0 ||
    !acts.contains (bits w6 1 0) || (nn = 0 && nl > 1) ||
    (List.range 7).any (fun n => if n < nn then !(child n (node n).2.1 && child n (node n).2.2) else node n != (false, 0, 0)) ||
    (List.range 8).any (fun l => !(l < nl) && (leafK l ≠ 0 || leafT l ≠ 0))
  if bad then none
  else some { nn := nn, nl := nl, nodes := (List.range nn).map node, leaves := (List.range nl).map (fun l => (leafK l, sext (leafT l) 32)),
              act := bits w6 1 0, add := BitVec.ofNat 32 (bits w6 63 32), kt := bits w6 12 8, cl := bits w6 4 2 }

/-- The value of every node in order, on counters (R205). -/
def Pred.nodeVals (p : Pred) (leaf : Nat → Bool) : List Bool :=
  p.nodes.foldl (fun vs n =>
    let v (c : Nat) : Bool := if c < 8 then leaf c else vs.getD (c - 8) false
    vs ++ [if n.1 then v n.2.1 || v n.2.2 else v n.2.1 && v n.2.2]) []
/-- A predicate holds on counters (R205). -/
def Pred.holds (p : Pred) (k : SMap (BitVec 32)) : Bool :=
  let leaf (l : Nat) : Bool := match p.leaves[l]? with | some (i, t) => t ≤ (SMap.get (0 : BitVec 32) k i).toInt | none => false
  if p.nn = 0 then p.nl = 0 || leaf 0 else (p.nodeVals leaf).getD (p.nn - 1) false

/-- The counters a name stands for (R207). -/
def State.kset (s : State) (k : KSet) : Option (SMap (BitVec 32)) :=
  match k with
  | .task die job tid => (s.whereIs die job tid).map (fun p => (s.ctxAt p).r.k)
  | .detached die i => some (SMap.get {} (s.die die).sets i).k
  | .none => none

/-- Evaluate the armed predicates of a die (R206): one that holds is disarmed and its action is due. `fresh` numbers the evaluations, so that
actions take place in the order in which the predicates held, then in that of arming. -/
def State.evalPreds (s : State) (die : Nat) : State :=
  let on (k : KSet) (p : Pred) : Bool := match s.kset k with | some m => p.holds m | none => false
  s.modDie die (fun d =>
    let entry (e : CEntry) : CEntry := if on e.ks e.pred then { e with held := true } else e
    let qp (q : Nat × QPair) : Nat × QPair := (q.1, { q.2 with entries := q.2.entries.map entry })
    { d with kdirty := false, kadds := [], trigs := d.trigs.map (fun t => if t.fired.isNone && on t.ks t.pred then { t with fired := some s.fresh } else t),
             comms := d.comms.map (fun c => (c.1, { c.2 with qps := c.2.qps.map qp })) })

/-- A counter of a die has changed, or a predicate was armed: its predicates are evaluated at the end of the cycle (R206). -/
def State.kChanged (s : State) (die : Nat) : State := s.modDie die (fun d => { d with kdirty := true })

/-- The end of a cycle (R206): predicates are evaluated on the values the cycle leaves. -/
def State.endCycle (s : State) : State :=
  ((s.dies.filter (fun d => d.2.kdirty)).map (·.1)).foldl (fun s d => s.evalPreds d) s

/-- What completions have added in this cycle to a counter of the task in issue (R50). -/
def State.cycleAdds (s : State) (k : Nat) : BitVec 32 :=
  ((s.die (coreDie s.cur.core)).kadds.filter (fun a => a.1 == s.cx.t.job && a.2.1 == s.cx.t.trc.tid && a.2.2.1 == k)).foldl (fun n a => n + a.2.2.2) 0

/-- An instruction adds to a counter of the task in issue (R204). -/
def State.addK (s : State) (k : Nat) (v : BitVec 32) : State := (s.modR (fun r => r.setK k (r.rk k + v))).kChanged (coreDie s.cur.core)

/-- An instruction's write to a counter of the task in issue (R204): it takes effect before the completions of its cycle (R50). -/
def State.writeK (s : State) (k : Nat) (v : BitVec 32) : State :=
  (s.modR (fun r => r.setK k (v + s.cycleAdds k))).kChanged (coreDie s.cur.core)

/-- A completion's update of a counter of the task that issued the work (R198, R207): where the task stands, in its detached set, or
discarded. -/
def State.bumpK (s : State) (die job tid k : Nat) (delta : BitVec 32) : State :=
  match s.whereIs die job tid with
  | some p =>
    ((s.modCtxAt p (fun c => { c with r := c.r.setK k (c.r.rk k + delta) })).modDie die (fun d => { d with kadds := d.kadds ++ [(job, tid, k, delta)] })).kChanged die
  | none => match (s.die die).sets.find? (fun d => d.2.used && d.2.job == job && d.2.tid == tid) with
    | some (i, _) =>
      (s.modDie die (fun d => { d with sets := SMap.upd {} d.sets i (fun t => { t with k := SMap.put t.k k (SMap.get 0 t.k k + delta) }) })).kChanged die
    | none => s

/-- The amount of a completion (R198, R199). -/
def kDelta (out : Bool) : BitVec 32 := if out then 0 - 1 else 1

/-! ## Issuing a card (R192 to R199) -/

/-- Issue a card of the task in issue: its checks, the limit of 512, the outstanding count, the ticket. -/
def State.issueCard (s : State) (op : CardOp) (src dst idx : Shape) (k g : BitVec 5) (ken out ord : Bool) (fill : Word) : State :=
  let x := s.xc
  let c := s.cx
  let card : Card := { id := s.co.cardNo, ctx := s.cur.ctx, tid := c.t.trc.tid, job := x.job, asid := x.asid, ptroot := x.ptroot, splo := x.splo,
                       sphi := x.sphi, slim := x.slim, taskLevel := x.level == 0, op := op, src := src, dst := dst, idx := idx, fill := fill, ken := ken,
                       out := out, ord := ord, k := k.toNat, cw := if g = 0 then none else some (s.rs g), ticket := c.ticket }
  match s.cardBad x card with
  | some (k, a) => s.takeTrap k a
  | none =>
    if s.co.cards.length ≥ 512 then s.hold
    else
      let s := s.modCo (fun o => { o with cards := o.cards ++ [card], cardNo := o.cardNo + 1 })
      let s := s.modCx (fun c => { c with ticket := c.ticket + 1 })
      if ken && out then s.addK k.toNat 1 else s

/-- A shape register as latched for the X slot. -/
def State.rhS (s : State) (h : BitVec 4) : Shape := s.iss.sync.rh h.toNat
/-- The shape register after one, modulo 16 (R191). -/
def State.rhNext (s : State) (h : BitVec 4) : Shape := s.iss.sync.rh ((h.toNat + 1) % 16)

/-- `xcopy` (R195). -/
def execXcopy (sh d : BitVec 4) (k g : BitVec 5) (ken out ord : Bool) (s : State) : Out :=
  .next (s.issueCard .copy (s.rhS sh) (s.rhS d) {} k g ken out ord 0)
/-- `xgath` (R196). -/
def execXgath (sh d : BitVec 4) (k g : BitVec 5) (ken out ord : Bool) (s : State) : Out :=
  .next (s.issueCard .gath (s.rhS sh) (s.rhS d) (s.rhNext sh) k g ken out ord 0)
/-- `xscat` (R196). -/
def execXscat (sh d : BitVec 4) (k g : BitVec 5) (ken out ord : Bool) (s : State) : Out :=
  .next (s.issueCard .scat (s.rhS sh) (s.rhS d) (s.rhNext d) k g ken out ord 0)
/-- `xfill` (R197). -/
def execXfill (d : BitVec 4) (k g : BitVec 5) (ken out ord lit : Bool) (s : State) : Out :=
  .next (s.issueCard .fill {} (s.rhS d) {} k g ken out ord (if lit then s.litS else 0))

/-! ## Counters (R204), waits (R201, R202) -/

/-- The operand of a counter instruction (R204). -/
def State.kOperand (s : State) (g : BitVec 5) (lit : Bool) : BitVec 32 := if lit then s.iss.lit else (s.rs g).extractLsb' 0 32

/-- `kinc` (R204). -/
def execKinc (k g : BitVec 5) (lit : Bool) (s : State) : Out := .next (s.addK k.toNat (s.kOperand g lit))
/-- `kset` (R204). -/
def execKset (k g : BitVec 5) (lit : Bool) (s : State) : Out := .next (s.writeK k.toNat (s.kOperand g lit))
/-- A line lies in the write footprint of a completed job that a wait observes (R201). -/
def State.inJobs (s : State) (obs : Nat → Bool) (l : Line) : Bool :=
  l.tags.any (fun a => a.1 == s.xc.asid && s.cx.jobsDone.any (fun j => obs j.1 && a.2 ≤ j.2.2 && j.2.1 < a.2 + 64))
/-- A wait of the X slot (R201): satisfied, it acquires the lines in the write footprints of the jobs it observed, which are all whose completion
has reached the counter (R204). -/
def State.jobWait (s : State) (ok : Bool) (obs : Nat → Bool) : State :=
  if ok then s.acquireSpans s.cur.core (s.inJobs obs) s.xc.asid ((s.cx.jobsDone.filter (fun j => obs j.1)).map (fun j => j.2))
  else s.hold
/-- No counter of the die has changed since the last end of a cycle (R204). -/
def State.kSettled (s : State) : Bool := !(s.die (coreDie s.cur.core)).kdirty
/-- `kwait.lt` (R204): it sees a counter at the end of a cycle only. -/
def execKwaitLt (k g : BitVec 5) (lit : Bool) (s : State) : Out :=
  .next (s.jobWait (s.kSettled && decide ((s.cx.r.rk k.toNat).toInt < (s.kOperand g lit).toInt)) (· == k.toNat))
/-- `kwait.ge` (R204): it sees a counter at the end of a cycle only. -/
def execKwaitGe (k g : BitVec 5) (lit : Bool) (s : State) : Out :=
  .next (s.jobWait (s.kSettled && decide ((s.kOperand g lit).toInt ≤ (s.cx.r.rk k.toNat).toInt)) (· == k.toNat))
/-- `xsync` (R202). -/
def execXsync (s : State) : Out :=
  .next (s.jobWait (!s.co.cards.any (fun c => c.ctx == s.cur.ctx && c.tid == s.cx.t.trc.tid && c.job == s.xc.job)) (fun _ => true))

/-! ## Arming triggers (R209) -/

/-- A record or entry of n bytes, n a power of two times 64, that the X slot reads (R208, R209): alignment, translation, placement. -/
def State.entryBytes (s : State) (a : Word) (n : Nat) : Except Bad (List Byte) :=
  if a.toNat % 64 ≠ 0 then .error (0x0801, a)
  else if !canonical a then .error (0x0404, a)
  else
    let units := (range 0 (n / 64)).map (fun i => (vaOf a + 64 * i) % 2 ^ 56)
    match units.mapM (fun v => (s.xlElem .rd 64 (w64 v)).map (fun t => (v, t))) with
    | .error b => .error b
    | .ok ts =>
      match ts.find? (fun t => !(t.2.rc == .scratch || t.2.rc == .cluster || t.2.rc == .ordinary)) with
      | some t => .error (0x0501, w64 t.1)
      | none =>
        match ts.findSome? (fun t => (s.readPoison s.cur.core t.2 64).map (fun c => (c, w64 t.1))) with
        | some b => .error b
        | none => .ok (ts.flatMap (fun t => (s.freshen (ts.map (fun t => (0, w64 t.1, t.2)))).readAt s.cur.core t.2 64))

/-- `xtrig` (R209). -/
def execXtrig (g : BitVec 5) (s : State) : Out :=
  match s.entryBytes (s.rs g) 128 with
  | .error (c, a) => .next (s.takeTrap c a)
  | .ok bs =>
    let ws := wordsOf 16 bs
    let die := coreDie s.cur.core
    let job := s.xc.job
    let tid := s.cx.t.trc.tid
    match Pred.parse (ws.take 8) [1, 2] with
    | none => .next (s.takeTrap 0x0A04 0)
    | some p =>
      let w3 := wd ws 11
      let r : TaskRec := { coord := wd ws 8, argp := w64 (bits (wd ws 9) 55 0), home := w64 (bits (wd ws 10) 55 0), job := job, flow := bits w3 15 8,
                           orig := 3, stg := bits w3 2 0, inl := ws.drop 12 }
      if p.act = 1 && ((s.die die).stageOf job r.flow r.stg).isNone then .next (s.takeTrap 0x0E02 0)
      else if ((s.die die).trigs.filter (fun t => t.owner == (job, tid) && t.fired.isNone)).length ≥ 64 then .next (s.takeTrap 0x0A05 0)
      else
        let t : Trigger := { ks := .task die job tid, owner := (job, tid), pred := p, trc := r }
        .next ((s.modDie die (fun d => { d with trigs := d.trigs ++ [t] })).kChanged die)

/-- The action of a trigger whose predicate has held (R34, R206, R209): a launch acquires at die scope and enters cluster CL, a counter add
changes counter KT of the arming task. -/
def State.fireTrigger (s : State) (die : Nat) (t : Trigger) : State :=
  if t.pred.act = 1 then s.launchNow die t.pred.cl t.trc
  else
    match t.ks with
    | .task d job tid => s.bumpK d job tid t.pred.kt t.pred.add
    | .detached d i =>
      (s.modDie d (fun e => { e with sets := SMap.upd {} e.sets i (fun q => { q with k := SMap.put q.k t.pred.kt (SMap.get 0 q.k t.pred.kt + t.pred.add) }) })).kChanged d
    | .none => s

/-- The trigger of a die whose action comes next: the one that held first, then the one armed first (R206). -/
def nextFired : List Trigger → Option Trigger
  | [] => none
  | t :: r =>
    match t.fired, nextFired r with
    | none, b => b
    | some _, none => some t
    | some n, some b => if (b.fired.getD 0) < n then some b else some t

/-- TRIGGER_FIRE: the next action of a die takes place (R206). -/
def execTriggerFire (die : Nat) (s : State) : Out :=
  match nextFired ((s.die die).trigs.filter (fun t => !(s.die die).halted t.trc.job)) with
  | none => .next s
  | some t => match findIdx (fun u => u == t) 0 (s.die die).trigs with
    | none => .next s
    | some (i, _) => .next ((s.modDie die (fun d => { d with trigs := d.trigs.eraseIdx i })).fireTrigger die t)

/-! ## The engines at work (R195 to R198) -/

/-- Each byte of an engine access where it leads, or the job status and the failing VA (R198); a poisoned table entry stands as 0x0F02 (R341). -/
def State.engBytes (s : State) (core : Nat) (c : Card) (acc : Acc) (rmt : Bool) (a : Int) (n : Nat) : Except (Nat × Word) (List Xl) :=
  (range 0 n).mapM (fun (i : Nat) =>
    let b := a + i
    if b < 0 || 2 ^ 56 ≤ b then .error (1, w64 (wrap b 64))
    else match s.xlate (c.xc core) b.toNat acc with
      | .error k => .error (if k = 0x0F02 then k else 1, w64 b.toNat)
      | .ok t =>
        let ok := match t.rc with
          | .scratch | .cluster | .ordinary => !rmt
          | .remote => rmt
          | _ => false
        if !ok then .error (2, w64 b.toNat)
        else if acc = .rd && !rmt && (if t.rc = .ordinary then s.outerPoison core t.loc 1 else s.poisoned t.loc 1) then .error (1, w64 b.toNat)
        else .ok t)

/-- The TLB takes the entries that an engine access of n bytes used (R336). -/
def State.engFill (s : State) (core : Nat) (c : Card) (a : Int) (n : Nat) : State :=
  (s.tlbFill (c.xc core) a.toNat).tlbFill (c.xc core) (a + n - 1).toNat

/-- A byte as an engine reads it: cached pages past the data cache (R201, R249). -/
def State.engRead (s : State) (core : Nat) (t : Xl) : Byte := match t.rc with | .ordinary => s.outer core t.loc | _ => s.byte t.loc
/-- Bytes as an engine writes them: a window at its home, a cached page through the buffers (R237). -/
def State.engWrite (s : State) (core job loc va : Nat) (bs : List Byte) : State :=
  if 2 ^ 61 ≤ loc then s.homeWrite loc bs else s.putBuffer { loc := loc, bytes := bs, core := core, job := job, va := va }

/-- How many elements from n on lie one after another, up to a limit. -/
def contiguous (addr : Nat → Int) (size n : Nat) : Nat → Nat → Nat
  | 0, k => k
  | f + 1, k => if addr (n + k) = addr n + ((k * size : Nat) : Int) then contiguous addr size n f (k + 1) else k

/-- The bytes that a remote read of a card asks for from source element n on (R195): the rest of an element that crosses a page, or the
elements that stand one after another within 4,096 bytes of one page and within a record. -/
def Card.readRun (c : Card) (n : Nat) : Int × Nat :=
  let a := c.srcAddr n + c.data.length
  let room := 4096 - wrap a 12
  if !c.data.isEmpty || room < c.size then (a, min room (c.size - c.data.length))
  else
    let left := if c.indexed then max 1 c.recLen - n % max 1 c.recLen else c.total - n
    (a, c.size * contiguous c.srcAddr c.size n (max 1 (min (room / max 1 c.size) left) - 1) 1)

/-- Read the index of the record that element `pos` begins (R196). -/
def State.cardIndex (s : State) (core : Nat) (c : Card) : Except (Nat × Word) Card :=
  if !c.indexed || c.pos % max 1 c.recLen ≠ 0 then .ok c
  else
    let a := c.idx.elemAddr (c.pos / max 1 c.recLen)
    match s.engBytes core c .rd false a 4 with
    | .error e => .error e
    | .ok ts =>
      let v := ofBytes (ts.map (s.engRead core))
      let v : Int := if c.idx.fmt = 5 then sext v 32 else v
      let ext := if c.op = .gath then c.src.ext 1 else c.dst.ext 1
      if v < 0 || (ext : Int) ≤ v then .error (5, w64 (va56 a)) else .ok { c with rec_ := v.toNat }

/-- The bytes of source element n, if they are at hand. -/
def State.cardSource (s : State) (core : Nat) (c : Card) (n : Nat) : Except (Nat × Word) (List Byte) :=
  match c.op with
  | .fill => .ok (bytesOf c.size c.fill.toNat)
  | _ => (s.engBytes core c .rd false (c.srcAddr n) c.size).map (fun ts => ts.map (s.engRead core))

/-- A request of a card over the fabric (R383), under the key of its shape (R55; log 28). -/
def State.cardSend (s : State) (core : Nat) (c : Card) (op : Nat) (h : Shape) (loc va rlen : Nat) (payload : List Byte) : Option (State × Nat) :=
  let (die, _, off) := remParts loc
  s.sendReq (coreDie core) { op := op, job := c.job, offs := off, steer := false, vc := 0, seq := 0, dst := die, src := 0, rkey := h.rkey,
                             rlen := rlen, payload := payload } (1, core, c.id) (0, va)

/-- A later element of a card may write into an aligned 4-byte word of its destination (R201, R240). -/
def Card.later (c : Card) (w : Nat) : Bool :=
  if c.op = .scat then c.pos < c.total
  else (range c.pos (c.total - c.pos)).any (fun n => let a := c.dstAddr n; a / 4 ≤ w && w ≤ (a + c.size - 1) / 4)

/-- Bytes in order, but those that a later one replaces. -/
def lastBytes : List (Nat × Nat × Byte) → List (Nat × Nat × Byte)
  | [] => []
  | e :: t => if t.any (fun o => o.1 == e.1) then lastBytes t else e :: lastBytes t

/-- Bytes one after another in place and address, joined up to a length: location, VA, bytes. `cut` bounds each run to an aligned unit of VAs, by its
location. -/
def joinBytes (cut : Nat → Nat) : List (Nat × Nat × Byte) → List (Nat × Nat × List Byte)
  | [] => []
  | e :: t =>
    match joinBytes cut t with
    | (l, v, bs) :: r => if l = e.1 + 1 && v = e.2.1 + 1 && v % cut l ≠ 0 then (e.1, e.2.1, e.2.2 :: bs) :: r else (e.1, e.2.1, [e.2.2]) :: (l, v, bs) :: r
    | [] => [(e.1, e.2.1, [e.2.2])]

/-- The place of a byte in a list that rises by VA. -/
def insertByte (e : Nat × Nat × Byte) : List (Nat × Nat × Byte) → List (Nat × Nat × Byte)
  | [] => [e]
  | o :: t => if e.2.1 < o.2.1 then e :: o :: t else o :: insertByte e t

/-- Runs of a card's bytes are written: a remote one is a request, which a full replay window leaves where it is (R390). -/
def State.cardPut (s : State) (core : Nat) (c : Card) : List (Nat × Nat × List Byte) → State × Card
  | [] => (s, c)
  | (loc, va, bs) :: t =>
    if isRemote loc then
      match s.cardSend core c 2 c.dst loc va 0 bs with
      | some (s, _) => s.cardPut core c t
      | none =>
        let (s, c) := s.cardPut core c t
        (s, { c with words := ((range 0 bs.length).map (fun i => (loc + i, va + i, bs.getD i 0))) ++ c.words })
    else (s.engWrite core c.job loc va bs).cardPut core c t

/-- The words of a card's destination that no later element touches are written, each as a whole (R240): four bytes, or the eight of a poisoned word, so that
a full write clears it (R405); after a failure every byte moved so far is (R198). A run to a remote window waits until it ends (R195). -/
def State.cardFlush (s : State) (core : Nat) (c : Card) : State × Card :=
  let ends := c.failed.isSome || c.total ≤ c.pos || !c.dst.rmt ||
    (match c.words.getLast? with | some e => c.dstAddr c.pos ≠ e.2.1 + 1 || (e.2.1 + 1) % 4096 == 0 | none => true)
  let two (l : Nat) : Bool := s.poisoned l 1
  let go (e : Nat × Nat × Byte) : Bool := ends && (c.failed.isSome || !(c.later (e.2.1 / 4) || (two e.1 && (c.later (e.2.1 / 8 * 2) || c.later (e.2.1 / 8 * 2 + 1)))))
  let out := ((lastBytes (c.words.filter go)).foldl (fun l e => insertByte e l) [])
  s.cardPut core { c with words := c.words.filter (fun e => !go e) } (joinBytes (fun l => if c.dst.rmt then 4096 else if two l then 8 else 4) out)

/-- A card's access fails (R198), or waits on a poisoned table entry, of which the system core learns once (R341). -/
def State.cardFail (s : State) (core : Nat) (c : Card) (e : Nat × Word) : State × Card :=
  if e.1 = 0x0F02 then (if c.stuck then s else s.event (coreDie core) 5 0x0F02 (some (coreId core c.ctx)) c.job e.2 0, { c with stuck := true })
  else s.cardFlush core { c with failed := some e, stuck := false }

/-- The bytes that a card has yet to write are translated afresh (R339): one that has no place any more fails the card (R198). -/
def State.reword (s : State) (core : Nat) (c : Card) : Card :=
  let at_ (e : Nat × Nat × Byte) : Except (Nat × Word) (List Xl) := s.engBytes core c .wr c.dst.rmt e.2.1 1
  { c with words := c.words.filterMap (fun e => match at_ e with | .ok (t :: _) => some (t.loc, e.2.1, e.2.2) | _ => none),
           failed := if c.failed.isSome then c.failed
                     else c.words.findSome? (fun e => match at_ e with | .error f => some (if f.1 = 0x0F02 then 1 else f.1, f.2) | .ok _ => none) }
/-- The cards of a core that a test selects. -/
def State.rewordAll (s : State) (core : Nat) (p : Card → Bool) : State :=
  if (s.core core).cards.any p then s.modCore core (fun o => { o with cards := mapIf p (s.reword core) o.cards }) else s

/-- One unit of a card's work: an element, or the request for those behind a remote window (R195 to R198). -/
def State.cardUnit (s : State) (core : Nat) (c : Card) : State × Card :=
  if c.failed.isSome || c.waiting.isSome || c.total ≤ c.pos then s.cardFlush core c
  else match s.cardIndex core c with
    | .error e => s.cardFail core c e
    | .ok c =>
      let n := c.pos
      let remote := c.op != .fill && c.src.rmt
      if c.indexed && c.recLen = 0 then (s, { c with pos := n + 1 })
      else if remote && c.data.length < c.size then
        let (a, k) := c.readRun n
        match s.engBytes core c .rd true a 1 with
        | .error e => s.cardFail core c e
        | .ok [] => (s, c)
        | .ok (t :: _) => match (s.engFill core c a 1).flushSpan core t.loc k with
          | (false, s) => (s, c)
          | (true, s) => match s.cardSend core c 1 c.src t.loc (va56 a) k [] with
            | some (s, seq) => (s, { c with waiting := some (t.aux, 0, seq), stuck := false })
            | none => (s, c)
      else match (if remote then .ok (c.data.take c.size) else s.cardSource core c n) with
        | .error e => s.cardFail core c e
        | .ok bs =>
          let a := c.dstAddr n
          match s.engBytes core c .wr c.dst.rmt a c.size with
          | .error e => s.cardFail core c e
          | .ok ts =>
            let s := s.engFill core c a c.size
            let s := if remote || c.op = .fill then s else s.engFill core c (c.srcAddr n) c.size
            let moved := (range 0 c.size).map (fun (i : Nat) => ((match ts[i]? with | some t => t.loc | none => 0), (a + i).toNat, bs.getD i 0))
            s.cardFlush core { c with pos := n + 1, data := c.data.drop c.size, words := c.words ++ moved, stuck := false }

/-- Units of a card's work, at most n. -/
def State.cardRun (s : State) (core : Nat) (c : Card) : Nat → State × Card
  | 0 => (s, c)
  | n + 1 => let (s, c) := s.cardUnit core c; s.cardRun core c n

/-- Put a card back. -/
def State.putCard (s : State) (core : Nat) (c : Card) : State :=
  s.modCore core (fun o => { o with cards := mapIf (fun d => d.id == c.id) (fun _ => c) o.cards })

/-- An earlier card of its task holds a card back (R200). -/
def Core.cardBlocked (o : Core) (c : Card) : Bool := o.cards.any (fun a => a.id < c.id && a.blocks c)

/-- The requests of a card that still await their answer (R390). -/
def State.cardOutstanding (s : State) (core : Nat) (c : Card) : Bool := (s.die (coreDie core)).window.any (fun r => r.origin == (1, core, c.id))

/-- ENGINE_JOB_START: a card that no earlier one holds back starts, or goes on, by at most `burst` units (R200). -/
def execEngineJobStart (core card burst : Nat) (s : State) : Out :=
  match (s.core core).cards.find? (fun c => c.id == card) with
  | none => .next s
  | some c =>
    if (s.core core).cardBlocked c || (s.die (coreDie core)).halted c.job then .next s
    else
      let (s, c) := s.cardRun core { c with started := true } burst
      .next (s.putCard core c)

/-- The completion of a card (R198): its writes become visible, the completion word, the counter, and for a failed job the engine
fault on its task at the next boundary, or the monitor's event if the task has ended. The task's waits observe it (R201). -/
def State.completeCard (s : State) (core : Nat) (c : Card) : State :=
  let die := coreDie core
  let s := s.modCore core (fun o => { o with cards := o.cards.filter (fun d => d.id != c.id) })
  let s := s.publish core 2
  let status := match c.failed with | some (k, _) => k | none => 0
  let s := match c.cw with
    | none => s
    | some a =>
      let word := bytesOf 8 (c.ticket.toNat * 2 ^ 32 + status * 2 ^ 8 + 1)
      match s.xlSpan (c.xc core) .wr 8 a with
      | .error _ => s
      | .ok t => (s.engWrite core c.job t.loc (vaOf a) word).publish core 2
  let s := match s.whereIs die c.job c.tid, c.writes with
    | some p, some (lo, hi) => s.modCtxAt p (fun x => { x with jobsDone := x.jobsDone ++ [(if c.ken then c.k else 32, lo.toNat, hi.toNat)].filter (fun j => !x.jobsDone.contains j) })
    | _, _ => s
  let s := if c.ken then s.bumpK die c.job c.tid c.k (kDelta c.out) else s
  match c.failed with
  | none => s
  | some (k, va) => s.faultTask die c.job c.tid { cause := 0x0A01, addr := va, aux := w64 (c.ticket.toNat * 2 ^ 32 + k) } (some (coreId core c.ctx))

/-- A card runs as far as it can, and completes if nothing of it is outstanding. -/
def State.finishCard (s : State) (core card : Nat) : State :=
  match (s.core core).cards.find? (fun c => c.id == card) with
  | none => s
  | some c =>
    if (s.core core).cardBlocked c then s
    else
      let (s, c) := s.cardRun core { c with started := true } (c.total - c.pos + 1)
      let s := s.putCard core c
      if (c.failed.isSome || c.total ≤ c.pos) && c.words.isEmpty && c.waiting.isNone && !s.cardOutstanding core c then s.completeCard core c else s

/-- ENGINE_JOB_COMPLETION (R198). -/
def execEngineJobCompletion (core card : Nat) (s : State) : Out :=
  .next (if (s.core core).cards.any (fun c => c.id == card && (s.die (coreDie core)).halted c.job) then s else s.finishCard core card)

/-- Every card of a context, in issue order, as far as it can run (R203). -/
def State.finishCards (s : State) (p : Place) : State :=
  (((s.core p.core).cards.filter (fun c => c.ctx == p.ctx)).map (·.id)).foldl (fun s i => s.finishCard p.core i) s

end Sys2Proof.Machine
end

