-- ==== Sys2Proof/Machine/Tables.lean ====
section
/-! DEFINITION. The tables of a pipeline program (R261 to R267, R269), arrival counters (R33, R270), and the X slot's table
instructions (R211 to R214). -/

namespace Sys2Proof.Machine

/-! ## Programs and tables -/

/-- The pipeline program of a job on a die (R274). -/
def Die.progOf (d : Die) (job : Nat) : Option Program := d.progs.find? (fun g => g.job == job)
/-- Change a job's pipeline program. -/
def Die.modProg (d : Die) (job : Nat) (f : Program → Program) : Die := { d with progs := mapIf (fun g => g.job == job) f d.progs }
/-- Add one to a counter of R275: 0 PREJ, 1 NODISP, 2 ABSREF, 3 PUNTFULL, 4 TGTX, 5 MRTBAD, 6 REGIDX. -/
def Program.tally (g : Program) (c : Nat) : Program := { g with counts := SMap.upd 0 g.counts c (· + 1) }

/-- The fields of a table descriptor (R261). -/
def PTable.w (t : PTable) (i : Nat) : Word := wd t.desc i
def PTable.valid (t : PTable) : Bool := bit (t.w 0) 3
def PTable.kind (t : PTable) : Nat := bits (t.w 0) 2 0
def PTable.cluster (t : PTable) : Nat := bits (t.w 0) 51 48
def PTable.cap (t : PTable) : Nat := bits (t.w 0) 47 32 + 1
def PTable.gneg (t : PTable) : Bool := bit (t.w 0) 30
def PTable.gbit (t : PTable) : Nat := bits (t.w 0) 29 27
def PTable.goff (t : PTable) : Nat := bits (t.w 0) 26 18
def PTable.klen (t : PTable) : Nat := bits (t.w 0) 17 13 + 1
def PTable.koff (t : PTable) : Nat := bits (t.w 0) 12 4
def PTable.nreg (t : PTable) : Nat := bits (t.w 1) 48 32
def PTable.woff (t : PTable) : Nat := bits (t.w 1) 31 0
def PTable.defact (t : PTable) : List Word := (t.desc.drop 2).take 7

/-- The table T of a program, if its slot is in use. -/
def Program.table (g : Program) (n : Nat) : Option PTable :=
  let t := SMap.get {} g.tables n
  if t.valid then some t else none

/-- The clusters in which the tables of a program on a die stand (R261). -/
def Program.tableCls (g : Program) (die : Nat) : List Nat := (g.tables.filter (fun t => t.2.valid)).map (fun t => die * 8 + t.2.cluster)

/-- The fields of a counter array word and of a slot set (R269). -/
def carrV (w : Word) : Bool := bit w 0
def carrCl (w : Word) : Nat := bits w 3 1
def carrN (w : Word) : Nat := bits w 24 8
def carrOff (w : Word) : Nat := bits w 63 32
def ssV (s : List Word) : Bool := bit (wd s 0) 0
def ssLog (s : List Word) : Nat := bits (wd s 0) 5 1
def ssAuto (s : List Word) : Bool := bit (wd s 0) 6
def ssCstg (s : List Word) : Nat := bits (wd s 0) 11 8
def ssCbase (s : List Word) : Nat := bits (wd s 0) 31 16
def ssOff (s : List Word) : Nat := bits (wd s 0) 63 32
def ssThr (s : List Word) : Nat := bits (wd s 1) 30 0
def ssNslot (s : List Word) : Nat := bits (wd s 1) 47 32
def ssFlow (s : List Word) : Nat := bits (wd s 1) 55 48
def ssStg (s : List Word) : Nat := bits (wd s 1) 58 56
def ssArgp (s : List Word) : Word := w64 (bits (wd s 2) 55 0)
/-- The counter array word of a stage. -/
def Program.arr (g : Program) (stage : Nat) : Word := wd g.carr stage

/-! ## Malformed actions and images (R262, R264 to R266) -/

/-- Every bit of a primitive outside its opcode and the listed fields is zero (R264). -/
def onlyBits (w : Word) (fields : List (Nat × Nat)) : Bool :=
  w &&& ~~~(fields.foldl (fun m f => m ||| maskFrom f.2 (f.1 + 1 - f.2)) 0xFF) == 0

/-- A range of the PHV that a program reads or writes (R265). -/
def phvRd (off len : Nat) : Bool := off + len ≤ 512
def phvWr (off len : Nat) : Bool := 32 ≤ off && off + len ≤ 512

/-- An mrt result word with a malformed KIND or reserved field (R266). -/
def resultBad (w : Word) : Bool :=
  bits w 62 42 ≠ 0 || bits w 23 20 ≠ 0 || bits w 41 40 ≥ 2 || (bits w 41 40 = 1 && bits w 39 32 > 3) || (bits w 41 40 = 0 && bits w 39 32 ≠ 0)

/-- A malformed primitive of a table of a stage (R264, R265). -/
def primBad (g : Program) (nmod stage : Nat) (w : Word) : Bool :=
  let f (hi lo : Nat) := bits w hi lo
  match bits w 7 0 with
  | 0x01 => !(onlyBits w [(16, 8), (18, 17), (63, 32)] && phvWr (f 16 8) (f 18 17 + 1))
  | 0x02 => !(onlyBits w [(16, 8), (25, 17), (31, 26)] && phvWr (f 16 8) (f 31 26 + 1) && phvRd (f 25 17) (f 31 26 + 1))
  | 0x03 => !(onlyBits w [(9, 8), (18, 10), (27, 19)] && phvWr (f 27 19) 8 && phvRd (f 18 10) 2 &&
             (match g.table (4 * stage + f 9 8) with | some t => t.kind == 4 | none => false))
  | 0x04 => !(if bit w 8 then onlyBits w [(8, 8), (10, 9)] else onlyBits w [(23, 16)])
  | 0x05 => !(onlyBits w [(16, 8), (25, 17), (26, 26)] && f 16 8 % 8 == 0 && phvRd (f 25 17) 2)
  | 0x06 => !(onlyBits w [(11, 8), (20, 12), (29, 21), (30, 30)] && phvRd (f 20 12) 2 && phvRd (f 29 21) 2 && ssV (g.slots.getD (f 11 8) []))
  | 0x07 => !(onlyBits w [(15, 8), (20, 16)] && f 20 16 < nmod)
  | 0x08 => !(onlyBits w [(10, 8)] && bit (wd (g.rings.getD (f 10 8) []) 0) 0)
  | 0x09 => !onlyBits w [(23, 8)]
  | 0x0A => !onlyBits w []
  | 0x0B => !(onlyBits w [(9, 8), (18, 10), (27, 19), (36, 28), (45, 37)] && phvRd (f 18 10) 2 && phvRd (f 27 19) 4 && phvRd (f 36 28) 4 &&
             (f 45 37 == 0 || phvWr (f 45 37) 4))
  | _ => true

/-- A malformed action (R264, R265): seven words; opcode 0x00 ends it, and it and every later word are zero. -/
def actionBad (g : Program) (nmod stage : Nat) (ws : List Word) : Bool :=
  let live := ws.takeWhile (fun w => bits w 7 0 ≠ 0)
  (ws.drop live.length).any (fun w => w ≠ 0) || live.any (primBad g nmod stage) ||
  (live.filter (fun w => bits w 7 0 == 0x0B)).length > 1 || (live.filter (fun w => bits w 7 0 == 0x09)).length > 1

/-- The ones of a byte string, from bit 7 of byte 0 downward, form one run (R262). -/
def prefixMask (bs : List Byte) : Bool :=
  let n := bs.foldl (fun a b => a * 256 + b.toNat) 0
  let len := 8 * bs.length
  (List.range (len + 1)).any (fun k => n == (2 ^ k - 1) * 2 ^ (len - k))

/-- Bytewise and of two byte strings. -/
def andBytes (a b : List Byte) : List Byte := (a.zip b).map (fun e => e.1 &&& e.2)

/-- A malformed entry image of table T (R262). -/
def imageBad (g : Program) (nmod n : Nat) (t : PTable) (ws : List Word) : Bool :=
  let w0 := wd ws 0
  let key := ((ws.drop 1).take 4).flatMap (fun w => bytesOf 8 w.toNat)
  let mask := ((ws.drop 5).take 4).flatMap (fun w => bytesOf 8 w.toNat)
  let act := (ws.drop 9).take 7
  let zero (bs : List Byte) : Bool := bs.all (· == 0)
  let lo := ofBytes (key.take t.klen)
  let hi := ofBytes (mask.take t.klen)
  !bit w0 63 || bits w0 62 48 ≠ 0 || bits w0 31 0 ≠ 0 || (bits w0 47 32 ≠ 0 && t.kind ≠ 1 && t.kind ≠ 3) ||
  (if t.kind = 4 then
     !zero mask || !zero (key.drop 2) || t.cap ≤ ofBytes (key.take 2) || resultBad (wd act 0) || (act.drop 1).any (· ≠ 0)
   else
     !zero (key.drop t.klen) || actionBad g nmod (n / 4) act ||
     (match t.kind with
      | 0 => !zero mask
      | 1 => andBytes key mask != key
      | 2 => !prefixMask mask || andBytes key mask != key
      | _ => hi < lo))

/-- The entry that an image stands for (R262). -/
def entryOf (ws : List Word) : PEntry :=
  { prio := bits (wd ws 0) 47 32, key := ((ws.drop 1).take 4).flatMap (fun w => bytesOf 8 w.toNat),
    mask := ((ws.drop 5).take 4).flatMap (fun w => bytesOf 8 w.toNat), act := (ws.drop 9).take 7 }
/-- The image of an entry (R262). -/
def PEntry.image (e : PEntry) : List Byte := bytesOf 8 (2 ^ 63 + e.prio * 2 ^ 32) ++ e.key ++ e.mask ++ e.act.flatMap (fun w => bytesOf 8 w.toNat)
/-- Two entries are the same when KEY, MASK and PRIO are equal (R262). -/
def PEntry.same (a b : PEntry) : Bool := a.key == b.key && a.mask == b.mask && a.prio == b.prio

/-! ## Arrival counters (R33, R269, R270) -/

/-- The slot set that covers a counter of a stage's array, if one does (R269). -/
def Program.setFor (g : Program) (stage i : Nat) : Option (List Word) :=
  g.slots.find? (fun s => ssV s && ssCstg s == stage && ssCbase s ≤ i && i ≤ ssCbase s + ssNslot s)

/-- An indivisible add to an arrival counter, with its test, its launch and the AUTO subtraction (R33, R270). -/
def State.countAdd (s : State) (die job stage i : Nat) (delta : BitVec 32) : State :=
  match (s.die die).progOf job with
  | none => s
  | some g =>
    let ix := stage * 65536 + i
    let old := SMap.get 0 g.cnt ix
    let new := old + delta
    let put (s : State) (v : BitVec 32) : State := s.modDie die (fun d => d.modProg job (fun g => { g with cnt := SMap.put g.cnt ix v }))
    match g.setFor stage i with
    | none => put s new
    | some z =>
      if old.toInt < ssThr z && (ssThr z : Int) ≤ new.toInt then
        let r : TaskRec := { coord := w64 (i - ssCbase z), argp := ssArgp z, job := job, flow := ssFlow z, orig := 1, stg := ssStg z,
                             inl := [0, 0, 0, 0] }
        (put s (if ssAuto z then new - BitVec.ofNat 32 (ssThr z) else new)).launchNow die (carrCl (g.arr stage)) r
      else put s new

/-! ## Table instructions (R211 to R213) -/

/-- The checks of an image or request at g (R211 to R213): alignment, translation, the scratchpad window, the table. The answer is the
home, the table and the program. -/
def State.tableReq (s : State) (g : BitVec 5) (t : BitVec 6) (align n : Nat) : Except Bad (Nat × PTable × Program) :=
  let a := s.rs g
  if a.toNat % align ≠ 0 then .error (0x0801, a)
  else
    let units := (range 0 (n / 8)).map (fun i => a + w64 (8 * i))
    match units.mapM (fun v => (s.xlateEa s.xc v .wr).map (fun x => (v, x))) with
    | .error c => .error (c, match units.find? (fun v => match s.xlateEa s.xc v .wr with | .ok _ => false | .error _ => true) with
                             | some v => faultVa v 0 | none => a)
    | .ok ts =>
      match ts.find? (fun e => e.2.rc != .scratch) with
      | some e => .error (0x0501, faultVa e.1 0)
      | none =>
        match ts.findSome? (fun e => (s.readPoison s.cur.core e.2 8).map (fun c => (c, faultVa e.1 0))) with
        | some b => .error b
        | none =>
          match (s.die (coreDie s.cur.core)).progOf s.xc.job with
          | none => .error (0x0601, a)
          | some p => match p.table t.toNat, ts with
            | some tab, e :: _ => .ok (e.2.loc, tab, p)
            | _, _ => .error (0x0601, a)

/-- An image that the instruction reads, checked (R212). -/
def State.tableImage (s : State) (g : BitVec 5) (t : BitVec 6) : Except Bad (Nat × PTable × PEntry) :=
  match s.tableReq g t 64 128 with
  | .error b => .error b
  | .ok (loc, tab, p) =>
    let ws := wordsOf 16 (s.bytesAt loc 128)
    if imageBad p s.nmod t.toNat tab ws then .error (0x0A07, 0) else .ok (loc, tab, entryOf ws)

/-- Change table T of the job of the context in issue. -/
def State.modTable (s : State) (t : Nat) (f : PTable → PTable) : State :=
  s.modDie (coreDie s.cur.core) (fun d => d.modProg s.xc.job (fun g => { g with tables := SMap.upd {} g.tables t f }))

/-- A table instruction takes its turn (R214): in one cycle after those of lower core IDs and contexts; packets of the cycle that have not yet passed
wait for the next one. It waits for clusters of tables and counters that sleep (R403), and where it may launch a task, for the next cycle as R28 asks. -/
def State.inOrder (s : State) (f : State → State) : State :=
  let die := coreDie s.cur.core
  let who := s.cur.core % 128 * 2 + s.cur.ctx
  match (s.die die).progOf s.xc.job with
  | some g =>
    let cls := g.tableCls die ++ (g.carr.filter carrV).map (fun w => die * 8 + carrCl w)
    if s.asleep cls then (s.callAll cls).hold
    else if (s.die die).overtaken s.cycle s.xc.job then s.hold
    else if g.touched.any (fun t => t.1 == s.cycle && who < t.2) then s.hold
              else f (s.modDie die (fun d => d.modProg s.xc.job (fun g => { g with touched := some (s.cycle, who) })))
  | none => f s

/-- The effect of `mtins` (R212): an entry with the same key, mask and priority is replaced in its place. -/
def State.mtins (s : State) (k g : BitVec 5) (t : BitVec 6) : State :=
  match s.tableImage g t with
  | .error (c, a) => s.takeTrap c a
  | .ok (_, tab, e) =>
    if tab.entries.any e.same then
      ((s.modTable t.toNat (fun x => { x with entries := mapIf e.same (fun _ => e) x.entries })).writeK k.toNat 1)
    else if tab.cap ≤ tab.entries.length then s.writeK k.toNat (0 - 1)
    else (s.modTable t.toNat (fun x => { x with entries := x.entries ++ [e] })).writeK k.toNat 0
/-- `mtins` (R212, R214). -/
def execMtins (k g : BitVec 5) (t : BitVec 6) (s : State) : Out := .next (s.inOrder (·.mtins k g t))

/-- The effect of `mtdel` (R212). -/
def State.mtdel (s : State) (k g : BitVec 5) (t : BitVec 6) : State :=
  match s.tableImage g t with
  | .error (c, a) => s.takeTrap c a
  | .ok (_, tab, e) =>
    if tab.entries.any e.same then
      ((s.modTable t.toNat (fun x => { x with entries := x.entries.filter (fun o => !e.same o) })).writeK k.toNat 0)
    else s.writeK k.toNat (0 - 2)
/-- `mtdel` (R212, R214). -/
def execMtdel (k g : BitVec 5) (t : BitVec 6) (s : State) : Out := .next (s.inOrder (·.mtdel k g t))

/-- The effect of `mtrd` (R212): the stored entry is written over the image. -/
def State.mtrd (s : State) (k g : BitVec 5) (t : BitVec 6) : State :=
  match s.tableImage g t with
  | .error (c, a) => s.takeTrap c a
  | .ok (loc, tab, e) =>
    match tab.entries.find? e.same with
    | some o => (s.homeWrite loc o.image).writeK k.toNat 0
    | none => s.writeK k.toNat (0 - 2)
/-- `mtrd` (R212, R214). -/
def execMtrd (k g : BitVec 5) (t : BitVec 6) (s : State) : Out := .next (s.inOrder (·.mtrd k g t))

/-- `mtreg` (R213, R250): op 0 add, 1 max, 2 min, 3 cas, 4 read. On an arrival counter an add releases and acquires at cluster scope,
a read acquires. -/
def State.mtreg (s : State) (op : Nat) (k g : BitVec 5) (t : BitVec 6) (tgt : Bool) : State :=
  match s.tableReq g t 32 32 with
  | .error (c, a) => s.takeTrap c a
  | .ok (loc, tab, p) =>
    let ws := wordsOf 4 (s.bytesAt loc 32)
    let die := coreDie s.cur.core
    let job := s.xc.job
    let stage := t.toNat / 4
    let ix := bits (wd ws 0) 31 0
    let v : BitVec 32 := (wd ws 1).extractLsb' 0 32
    let cmp : BitVec 32 := (wd ws 2).extractLsb' 0 32
    let size := if tgt then (if carrV (p.arr stage) then carrN (p.arr stage) else 0) else tab.nreg
    if bits (wd ws 0) 63 32 ≠ 0 || bits (wd ws 1) 63 32 ≠ 0 || bits (wd ws 2) 63 32 ≠ 0 then s.takeTrap 0x0A07 0
    else if size ≤ ix then s.takeTrap 0x0601 (s.rs g)
    else
      let old := if tgt then SMap.get 0 p.cnt (stage * 65536 + ix) else SMap.get 0 tab.regs ix
      let new := match op with
        | 0 => old + v
        | 1 => if old.toInt < v.toInt then v else old
        | 2 => if v.toInt < old.toInt then v else old
        | 3 => if old = cmp then v else old
        | _ => old
      let s := if tgt && op = 0 then s.releaseCore s.cur.core 1 else s
      let s := if tgt && op = 0 then s.countAdd die job stage ix v
               else if tgt then s.modDie die (fun d => d.modProg job (fun g => { g with cnt := SMap.put g.cnt (stage * 65536 + ix) new }))
               else s.modTable t.toNat (fun x => { x with regs := SMap.put x.regs ix new })
      let s := if tgt && (op = 0 || op = 4) then s.acquireCore s.cur.core else s
      (s.homeWrite (loc + 24) (bytesOf 8 old.toNat)).writeK k.toNat 0

/-- `mtreg.add` (R213). -/
def execMtregAdd (k g : BitVec 5) (t : BitVec 6) (tgt : Bool) (s : State) : Out := .next (s.inOrder (·.mtreg 0 k g t tgt))
/-- `mtreg.max` (R213). -/
def execMtregMax (k g : BitVec 5) (t : BitVec 6) (tgt : Bool) (s : State) : Out := .next (s.inOrder (·.mtreg 1 k g t tgt))
/-- `mtreg.min` (R213). -/
def execMtregMin (k g : BitVec 5) (t : BitVec 6) (tgt : Bool) (s : State) : Out := .next (s.inOrder (·.mtreg 2 k g t tgt))
/-- `mtreg.cas` (R213). -/
def execMtregCas (k g : BitVec 5) (t : BitVec 6) (tgt : Bool) (s : State) : Out := .next (s.inOrder (·.mtreg 3 k g t tgt))
/-- `mtreg.read` (R213). -/
def execMtregRead (k g : BitVec 5) (t : BitVec 6) (tgt : Bool) (s : State) : Out := .next (s.inOrder (·.mtreg 4 k g t tgt))

end Sys2Proof.Machine
end

