-- ==== Sys2Proof/Machine/Pipeline.lean ====
section
/-! DEFINITION. How a packet reaches a die (R355, R360, R381 to R383, R388, R391), and the packet pipeline (R255 to R275, R395). -/

namespace Sys2Proof

open Machine

/-! ## Packets -/

/-- The die that numbered a packet (R390). -/
def Packet.source (p : Packet) : Nat := p.via.getD p.src
/-- A request, as against a response (R383). -/
def Packet.request (p : Packet) : Bool := !(0x10 ≤ p.op && p.op ≤ 0x1F)

/-- The die that a packet is for (R381, R389): of a multicast copy the one that its mask, or its prefix, still names. -/
def Packet.ends (p : Packet) : Nat :=
  if p.op ≠ 6 then p.dst
  else if p.out = 8 then p.at_
  else match (range 0 p.masks.length).find? (fun m => p.masks.getD m 0 ≠ 0) with
    | some m => m * 8 + Nat.log2 (p.masks.getD m 0)
    | none => p.at_ / 8 * 8 + Nat.log2 p.dst

/-- A packet that a receiving unit discards (R381 to R383): opcode, VC, class, lengths, form of the payload, reserved fields. -/
def Packet.bad (p : Packet) : Bool :=
  let ch := 2 ≤ p.vc && p.vc ≤ 5
  let vcOk := match p.op with
    | 0x01 | 0x03 => p.vc == 0
    | 0x02 => p.vc == 0 || ch
    | 0x06 | 0x07 => ch
    | 0x08 | 0x09 => p.vc == 6
    | 0x10 | 0x11 | 0x12 => p.vc == 1
    | 0x20 | 0x21 => p.vc == 7
    | _ => false
  let w := ofBytes (p.payload.take 8)
  let form := match p.op with
    | 0x01 | 0x11 => p.payload.isEmpty
    | 0x03 => p.payload.length == 32 && 1 ≤ w % 256 && w % 256 ≤ 8 && w / 2 ^ 10 == 0 && (p.payload.drop 24).all (· == 0)
    | 0x07 => p.payload.length % 200 == 0
    | 0x08 => p.payload.length == 80 || p.payload.length == 8 || p.payload.length == 72
    | 0x09 => p.payload.length == 24 || p.payload.length == 32
    | 0x12 => p.payload.length == 32 && 1 ≤ w % 256 && w % 256 ≤ 4 && w / 2 ^ 20 == 0 && (p.payload.drop 8).all (· == 0)
    | _ => true
  p.reserved || !vcOk || !form || (p.steer && p.op != 2 && p.op != 6) || p.payload.length > 4096 ||
  (if p.op = 1 then p.rlen == 0 || p.rlen > 4096 else p.rlen != 0)

/-- The bytes of a packet (R381, R382, R389): link head, header, prefix, payload padded to 32 bytes. -/
def Packet.bytes (p : Packet) : List Byte :=
  bytesOf 8 p.payload.length ++ bytesOf 8 p.rlen ++
  bytesOf 8 (b2n p.steer * 2 ^ 63 + p.vc * 2 ^ 60 + p.seq * 2 ^ 48 + p.dst * 2 ^ 40 + p.src * 2 ^ 32 + p.rkey) ++
  bytesOf 8 (p.op * 2 ^ 58 + p.job * 2 ^ 48 + p.offs) ++
  (if p.op = 6 && !p.masks.isEmpty then padTo 32 (p.masks.map (BitVec.ofNat 8)) else []) ++ padTo ((p.payload.length + 31) / 32 * 32) p.payload

/-- The bytes of an Ethernet frame (R395). -/
def EthFrame.size (f : EthFrame) : Nat := 12 + (if f.vlan.isSome then 4 else 0) + 2 + 16 + f.cipher.length + 16 + 4

end Sys2Proof

namespace Sys2Proof.Machine

/-! ## Reception -/

/-- The reply cache keeps a reply among the latest 256 to its source (R391); a later reply to one request takes the earlier one's place. -/
def Die.keepReply (d : Die) (src vc seq : Nat) (r : Packet) : Die :=
  if d.replies.any (fun e => e.1 == src && e.2.1 == vc && e.2.2.1 == seq) then
    { d with replies := mapIf (fun e : Nat × Nat × Nat × Packet => e.1 == src && e.2.1 == vc && e.2.2.1 == seq) (fun _ => (src, vc, seq, r)) d.replies }
  else
    let kept := match (if (d.replies.filter (fun e => e.1 == src)).length ≥ 256 then findIdx (fun e : Nat × Nat × Nat × Packet => e.1 == src) 0 d.replies else none) with
      | some (i, _) => d.replies.eraseIdx i
      | none => d.replies
    { d with replies := kept ++ [(src, vc, seq, r)] }

/-- Answer a request (R383, R391): the reply carries its SEQ, and the home keeps it. -/
def State.reply (s : State) (die : Nat) (req : Packet) (op : Nat) (payload : List Byte) : State :=
  let r : Packet := { op := op, job := req.job, offs := 0, steer := false, vc := 1, seq := req.seq, dst := req.source, src := die, rkey := 0,
                      payload := payload, rvc := req.vc }
  (s.modDie die (fun d => d.keepReply req.source req.vc req.seq r)).sendRaw r

/-- A NACK with its reason (R383). -/
def State.nack (s : State) (die : Nat) (req : Packet) (reason : Nat) : State := s.reply die req 0x12 (padTo 32 (bytesOf 4 (reason + req.seq * 256)))

/-- The BUF field of a packet that stands at a station (R355): the Ethernet subport, 0 for the ring and the bridge; the direction; the VC. -/
def stationBuf (ing vc : Nat) : Nat := if ing < 4 then ing % 2 * 256 + vc else if ing < 8 then (ing - 4) * 4096 + vc else vc

/-- A request of a job that goes out is not waited for (R353; log 89), if the die still waits for it. Of one pair they stand in the order of their numbers. -/
def insertSkip (x : Skip) : List Skip → List Skip
  | [] => [x]
  | y :: t => if y.key == x.key && wrap ((y.seq : Int) - x.seq) 12 < 2048 then x :: y :: t else y :: insertSkip x t
/-- The die expects a SEQ next, or once the requests of jobs that are out are passed over (R353; log 89). -/
def Die.expect (d : Die) (key : Nat) : Nat → Nat → Die
  | 0, e => { d with seqIn := SMap.put d.seqIn key e }
  | n + 1, e =>
    let isIt (x : Skip) : Bool := x.key == key && x.seq == e && !x.past
    if d.skipped.any isIt then Die.expect { d with skipped := mapIf isIt (fun x => { x with past := true }) d.skipped } key n ((e + 1) % 4096)
    else { d with seqIn := SMap.put d.seqIn key e }
def Die.skip (d : Die) (key job seq : Nat) : Die :=
  let e := SMap.get 0 d.seqIn key
  if wrap ((seq : Int) - e) 12 ≤ 2047 && !d.skipped.any (fun x => x.key == key && x.job == job && x.seq == seq) then
    Die.expect { d with skipped := insertSkip { key := key, job := job, seq := seq } d.skipped } key (d.skipped.length + 1) e
  else d
/-- A request leaves the network with its job: the die that it is for does not wait for it. -/
def State.passOver (s : State) (p : Packet) : State :=
  if p.request then s.modDie p.ends (fun d => d.skip (p.source * 8 + p.vc) p.job p.seq) else s

/-- A late packet (R360): logged, or counted as lost, of which the system core learns (R315, R324; DEDUCED, log 77). -/
def State.lateArrive (s : State) (die : Nat) (p : Packet) : State :=
  let s := s.passOver p
  if (s.die die).late.length < 4096 then
    s.modDie die (fun d =>
      let item : PPkt := { pkt := p, aseq := d.aseq, lane := 0, pos := 0, ing := p.ing }
      { d with late := d.late ++ [(p.job, { aseq := d.aseq, cls := 8, pos := 0, buf := stationBuf p.ing p.vc, item := item })], aseq := d.aseq + 1 })
  else (s.modDie die (fun d => { d with lateLost := SMap.upd 0 d.lateLost p.job (· + 1), aseq := d.aseq + 1 })).event die 6 0x0D01 none p.job 0 0

/-- A packet comes in at a station of a die (R256, R360): it stands there, or it is late. -/
def State.comeIn (s : State) (die ing : Nat) (p : Packet) : State :=
  if (s.die die).closed.contains p.job then s.lateArrive die { p with ing := ing } else s.join die (s.stand die ing p)

/-- The SEQ of an expected request is consumed (R391). -/
def Die.takeSeq (d : Die) (key job : Nat) : Die :=
  let e := SMap.get 0 d.seqIn key
  let d := { d with skipped := d.skipped.filter (fun x => !(x.key == key && x.job == job && x.seq == e && !x.past)) }
  d.expect key d.skipped.length ((e + 1) % 4096)

/-- A request is the first that its pair owes of its job among those passed over (log 89). -/
def Die.owes (d : Die) (p : Packet) : Bool :=
  match d.skipped.find? (fun x => x.key == p.source * 8 + p.vc && x.job == p.job) with
  | some x => p.request && x.past && x.seq == p.seq
  | none => false

/-- The distance of a packet's SEQ from the one expected (R391). -/
def Die.seqGap (d : Die) (p : Packet) : Nat := wrap ((p.seq : Int) - SMap.get 0 d.seqIn (p.source * 8 + p.vc)) 12

/-- A WR on a channel that belongs to no communicator of its job (R383). -/
def State.offChannel (s : State) (p : Packet) : Bool :=
  p.op == 2 && p.vc != 0 && !s.dies.any (fun d => d.2.comms.any (fun c => c.2.valid && c.1 / 256 == p.job && 2 + c.2.pclass == p.vc))

/-- Reception of a packet at its die (R360, R383, R391). `.error` is a packet that goes no further: late, malformed, out of order
or a duplicate answered from the reply cache; `.ok` is one to be performed, its SEQ consumed. -/
def State.arrive (s : State) (die : Nat) (p : Packet) : Except State State :=
  let d := s.die die
  let key := p.source * 8 + p.vc
  let take (s : State) : State := s.modDie die (fun d => d.takeSeq key p.job)
  if d.closed.contains p.job then .error (s.lateArrive die p)
  else if p.bad || s.offChannel p then
    let s := s.modDie die (fun d => { d with badpkt := d.badpkt + 1 })
    .error (if p.request then (if d.seqGap p = 0 then take s else s).nack die p 4 else s)
  else if !p.request then .ok s
  else if d.owes p then
    .ok (s.modDie die (fun d => { d with skipped := d.skipped.filter (fun x => !(x.key == key && x.job == p.job && x.seq == p.seq && x.past)) }))
  else if d.seqGap p = 0 then .ok (take s)
  else if d.seqGap p ≤ 2047 then .error s
  else match d.replies.find? (fun r => r.1 == p.source && r.2.1 == p.vc && r.2.2.1 == p.seq) with
    | some r => .error (s.sendRaw r.2.2.2)
    | none => .error s

/-- A packet that `arrive` lets be performed. -/
def State.takes (s : State) (die : Nat) (p : Packet) : Bool :=
  let d := s.die die
  !d.closed.contains p.job && !p.bad && !s.offChannel p && (!p.request || d.owes p || d.seqGap p == 0)

/-- A unit that cannot take a packet refuses its slot (R388): once it goes round its ring again, twice it is discarded with NACK 0x01; a
multicast copy is discarded here alone. `p` has left the network. -/
def State.refuse (s : State) (die : Nat) (p : Packet) : State :=
  if p.turned = 0 then
    let round : Packet := if p.op ≠ 6 then p else if p.ing < 2 then { p with dst := 2 ^ (die % 8) } else { s.aimed p with dst := 0 }
    { s with net := s.net ++ [if p.ing < 4 then { round with turned := 1, out := p.ing } else { p with turned := 1 }] }
  else if p.op = 6 then s
  else s.sendRaw { op := 0x12, job := p.job, offs := 0, steer := false, vc := 1, seq := p.seq, dst := p.source, src := die, rkey := 0,
                   payload := padTo 32 (bytesOf 4 (1 + p.seq * 256)), rvc := p.vc }

/-- Take the first packet of the network that meets a test. -/
def State.pick (s : State) (f : Packet → Bool) : Option (Packet × State) :=
  match findIdx f 0 s.net with
  | some (i, p) => some (p, { s with net := s.net.eraseIdx i })
  | none => none

/-! ## Remote keys (R392, R393) -/

/-- The key check of a request (R393): the home of its first byte, or the NACK reason. A request without a key names no region and is
refused (DEDUCED, log 41). -/
def State.keyCheck (s : State) (die rkey job offs len : Nat) (acc : Acc) : Except Nat Nat :=
  let e := SMap.get [] (s.die die).regions (rkey % 4096)
  let w0 := wd e 0
  let perm := match acc with | .wr => bit w0 61 | .at => bit w0 60 | _ => bit w0 62
  if rkey = 0 then .error 2
  else if !bit w0 63 || bits w0 31 12 ≠ rkey / 4096 then .error 3
  else if bits w0 59 50 ≠ job || !perm || bits (wd e 2) 40 0 < offs + len then .error 2
  else .ok (homePa (die / 8) (bits (wd e 1) 51 0 + offs))

/-! ## Lanes (R257) -/

/-- The lane of a flow (R257). -/
def laneOf (job src ing vc : Nat) : Nat := b2n (parity 34 (job % 1024 + src % 256 * 2 ^ 10 + ing % 256 * 2 ^ 18 + vc % 256 * 2 ^ 26))

/-- The packets of a lane. -/
def Die.laneQ (d : Die) (lane : Nat) : List PPkt := if lane = 0 then d.lane0 else d.lane1
def Die.setLane (d : Die) (lane : Nat) (q : List PPkt) : Die := if lane = 0 then { d with lane0 := q } else { d with lane1 := q }

/-- A disposition whose copies wait for the replay window stalls both lanes and the ingress (R273). -/
def Die.stalled (d : Die) : Bool :=
  d.window.length ≥ 256 &&
  (d.lane0.take 1 ++ d.lane1.take 1).any (fun p => p.pos == 16 && p.absDone && (p.disp.targets.drop p.tdone).any (fun t => !t.1))

/-- A packet enters its lane (R256, R257) with its ASEQ: each lane accepts one a cycle. -/
def State.enterLane (s : State) (die : Nat) (p : Packet) : State :=
  s.modDie die (fun d =>
    let lane := laneOf p.job p.src p.ing p.vc
    let t : Word := match (d.laneQ lane).getLast? with
      | some q => if (s.cycle - q.entered).toInt ≤ 0 then q.entered + 1 else s.cycle
      | none => s.cycle
    d.setLane lane (d.laneQ lane ++ [{ pkt := p, aseq := p.aseq, lane := lane, pos := 0, ing := p.ing, entered := t }]))

/-- A packet of an Ethernet frame that runs no program (R255, R256): in transit, or not steered. -/
def PPkt.plain (p : PPkt) (die : Nat) : Bool := p.pkt.dst != die || p.pkt.out != 8 || !p.pkt.steer

/-- A packet must wait for the cycle in which it entered to end, then for one of lane 0 that entered in it (R15, R272), or for a table instruction of
this cycle (R214). `before` selects the packets of lane 0 that have not come as far. -/
def State.laneWaits (s : State) (die lane : Nat) (p : PPkt) (before : PPkt → Bool) : Bool :=
  let d := s.die die
  (s.cycle - p.entered).toInt ≤ 0 || (lane != 0 && d.lane0.any (fun q => q.entered == p.entered && before q)) ||
  (match d.progOf p.pkt.job with | some g => g.touched.any (fun t => t.1 == s.cycle) | none => false)

/-! ## The parser (R258 to R260) -/

/-- The metadata of the packet header vector, with BOFF (R258). -/
def phvMeta (p : PPkt) (boff : Nat) : List Byte :=
  bytesOf 2 (p.pkt.job % 1024) ++ bytesOf 1 p.pkt.src ++ bytesOf 1 p.pkt.dst ++ bytesOf 1 p.ing ++ bytesOf 1 p.pkt.vc ++ bytesOf 2 p.pkt.payload.length ++
  bytesOf 8 (p.pkt.offs % 2 ^ 48) ++ bytesOf 4 p.pkt.rkey ++ bytesOf 2 boff ++ bytesOf 2 (p.pkt.payload.length - boff) ++ bytesOf 1 p.lane ++
  List.replicate 7 0

/-- A transition of a parse state (R259). -/
def transition (st : List Word) (t : Nat) : Nat := ((wd st 1).toNat + (wd st 2).toNat * 2 ^ 64 + (wd st 3).toNat * 2 ^ 128) / 2 ^ (48 * t) % 2 ^ 48

/-- The walk of the parse graph (R260), in at most 32 states: the PHV, the extracts (payload position, PHV offset, length), BOFF. -/
def parseFrom (states : List (List Word)) (pay : List Byte) : Nat → Nat → Nat → List Byte → List (Nat × Nat × Nat) →
    Option (List Byte × List (Nat × Nat × Nat) × Nat)
  | 0, _, _, _, _ => none
  | fuel + 1, st, cur, phv, ext =>
    let q := states.getD st []
    let w0 := wd q 0
    let lim := min pay.length 512
    let w := bits w0 34 33
    let elen := bits w0 7 0
    let soff := bits w0 32 25
    if cur + elen > lim || (w > 0 && cur + soff + w > lim) then none
    else
      let phv := if elen = 0 then phv else overlay phv (bits w0 16 8) (slice pay cur elen)
      let ext := if elen = 0 then ext else ext ++ [(cur, bits w0 16 8, elen)]
      let sel := ofBytes (slice pay (cur + soff) w)
      let hit := if w = 0 then none else (List.range 4).find? (fun t =>
        let r := transition q t
        nbits r 39 39 == 1 && sel &&& nbits r 31 16 == nbits r 15 0)
      let nx := match hit with | some t => nbits (transition q t) 38 32 | none => bits w0 41 35
      let cur := cur + bits w0 24 17
      if nx = 0x40 then some (phv, ext, min cur pay.length)
      else if nx = 0x41 then none
      else parseFrom states pay fuel nx cur phv ext

/-! ## Lookups (R263) -/

/-- The gate of a table (R263). -/
def PTable.gate (t : PTable) (phv : List Byte) : Bool := t.goff == 0 || xor ((phv.getD t.goff 0).getLsbD t.gbit) t.gneg

/-- An entry matches a key of 32 bytes (R263). -/
def PTable.hits (t : PTable) (key : List Byte) (e : PEntry) : Bool :=
  match t.kind with
  | 0 => key == e.key
  | 1 | 2 => andBytes key e.mask == e.key
  | 3 =>
    let k := ofBytes (key.take t.klen)
    ofBytes (e.key.take t.klen) ≤ k && k ≤ ofBytes (e.mask.take t.klen)
  | _ => false
/-- The rank by which a match wins, the earlier one among equals (R263). -/
def PTable.rank (t : PTable) (e : PEntry) : Nat :=
  match t.kind with
  | 2 => e.mask.foldl (fun n b => n + ones 8 b.toNat) 0
  | 0 => 0
  | _ => e.prio
/-- The winner of a lookup. -/
def PTable.lookup (t : PTable) (phv : List Byte) : Option PEntry :=
  let key := padTo 32 (slice phv t.koff t.klen)
  (t.entries.filter (t.hits key)).foldl (fun b e => match b with
    | none => some e
    | some o => if t.rank o < t.rank e then some e else some o) none

/-! ## Actions (R264 to R267) -/

/-- What a packet carries through the stages. -/
structure PRun where
  g : Program
  phv : List Byte
  disp : Disp
  deriving DecidableEq, Repr

/-- Values of the PHV; offset 0 stands for zero (R265). -/
def phv16 (phv : List Byte) (off : Nat) : Nat := if off = 0 then 0 else ofBytes (slice phv off 2)
def phv32 (phv : List Byte) (off : Nat) : Nat := if off = 0 then 0 else ofBytes (slice phv off 4)

/-- Add a target (R267). -/
def PRun.target (r : PRun) (die : Nat) (eth : Bool) (n : Nat) : PRun :=
  if r.disp.targets.length ≥ 8 || (!eth && n == die) then { r with g := r.g.tally 4 }
  else { r with disp := { r.disp with targets := r.disp.targets ++ [(eth, n)] } }

/-- Change a register of table T, or count REGIDX where the index is out of range. -/
def PRun.setReg (r : PRun) (n ix : Nat) (v : BitVec 32) : PRun :=
  { r with g := { r.g with tables := SMap.upd {} r.g.tables n (fun t => { t with regs := SMap.put t.regs ix v }) } }

/-- One primitive of table T (R264, R266). -/
def PRun.prim (die n : Nat) (r : PRun) (w : Word) : PRun :=
  let f (hi lo : Nat) := bits w hi lo
  let tab := SMap.get {} r.g.tables n
  match f 7 0 with
  | 0x01 => { r with phv := overlay r.phv (f 16 8) (bytesOf (f 18 17 + 1) (f 63 32)) }
  | 0x02 => { r with phv := overlay r.phv (f 16 8) (slice r.phv (f 25 17) (f 31 26 + 1)) }
  | 0x03 =>
    let id := phv16 r.phv (f 18 10)
    let m := SMap.get {} r.g.tables (n / 4 * 4 + f 9 8)
    let v := match m.entries.find? (fun e => ofBytes e.key == id) with | some e => wd e.act 0 | none => 0
    { r with phv := overlay r.phv (f 27 19) (bytesOf 8 v.toNat) }
  | 0x04 => if bit w 8 then r.target die true (f 10 9) else r.target die false (f 23 16)
  | 0x05 =>
    let v := wordOf (slice r.phv (f 16 8) 8)
    if resultBad v then { r with g := r.g.tally 5 }
    else if !bit v 63 then r
    else if bits v 41 40 = 1 then r.target die true (bits v 39 32)
    else if bits v 31 24 ≠ die then r.target die false (bits v 31 24)
    else { r with disp := { r.disp with absorb := some (bits v 19 16, bits v 15 0, phv16 r.phv (f 25 17), bit w 26) } }
  | 0x06 => { r with disp := { r.disp with absorb := some (f 11 8, phv16 r.phv (f 20 12), phv16 r.phv (f 29 21), bit w 30) } }
  | 0x07 => (List.range 8).foldl (fun r d => if bit w (8 + d) then r.target die false (8 * f 20 16 + d) else r) r
  | 0x08 => { r with disp := { r.disp with punt := some (f 10 8) } }
  | 0x09 =>
    let ix := f 23 8
    if tab.nreg ≤ ix + 1 then { r with g := r.g.tally 6 }
    else (r.setReg n ix (SMap.get 0 tab.regs ix + 1)).setReg n (ix + 1) (SMap.get 0 tab.regs (ix + 1) + BitVec.ofNat 32 (ofBytes (slice r.phv 22 2)))
  | 0x0A => { r with disp := { r.disp with drop := true } }
  | 0x0B =>
    let ix := phv16 r.phv (f 18 10)
    let v : BitVec 32 := BitVec.ofNat 32 (phv32 r.phv (f 27 19))
    let cmp : BitVec 32 := BitVec.ofNat 32 (phv32 r.phv (f 36 28))
    if tab.nreg ≤ ix then { r with g := r.g.tally 6 }
    else
      let old := SMap.get 0 tab.regs ix
      let new := match f 9 8 with
        | 0 => old + v
        | 1 => if old.toInt < v.toInt then v else old
        | 2 => if v.toInt < old.toInt then v else old
        | _ => if old = cmp then v else old
      let r := r.setReg n ix new
      if f 45 37 = 0 then r else { r with phv := overlay r.phv (f 45 37) (bytesOf 4 old.toNat) }
  | _ => r

/-- The primitives of an action, up to the one that ends it. -/
def PRun.action (die n : Nat) (r : PRun) (ws : List Word) : PRun := (ws.takeWhile (fun w => bits w 7 0 ≠ 0)).foldl (PRun.prim die n) r

/-- One stage (R268): every lookup reads the PHV as the packet enters. The HIT bit of a slot is set as its own action begins (R263; DESIGN CHOICE, log 98). -/
def PRun.stage (die : Nat) (r : PRun) (st : Nat) : PRun :=
  let e := r.phv
  let looked := (List.range 4).filterMap (fun t => match r.g.table (4 * st + t) with
    | some tab => if tab.kind = 4 || !tab.gate e then none else some (t, tab, tab.lookup e)
    | none => none)
  looked.foldl (fun r l => match l.2.2 with
    | some en =>
      let b := 4 * st + l.1
      let r := { r with phv := overlay r.phv (32 + b / 8) [(r.phv.getD (32 + b / 8) 0) ||| BitVec.ofNat 8 (2 ^ (b % 8))] }
      r.action die (4 * st + l.1) en.act
    | none => r.action die (4 * st + l.1) l.2.1.defact) r

/-- PIPELINE_PACKET (R255 to R257, R268, R272): the first packet of a lane that has not been through the stages is parsed and runs them, once the clusters
of the tables are awake (R403); one that runs no program passes. -/
def execPipelinePacket (die lane : Nat) (s : State) : Out :=
  let d := s.die die
  match findIdx (fun p : PPkt => p.pos != 16) 0 (d.laneQ lane) with
  | none => .next s
  | some (i, p) =>
    if d.stalled || d.halted p.pkt.job || s.laneWaits die lane p (·.pos != 16) then .next s
    else if p.plain die then .next (s.modDie die (fun d => d.setLane lane (setAt (d.laneQ lane) i { p with pos := 16 })))
    else
      let gone (d : Die) : Die := d.setLane lane ((d.laneQ lane).eraseIdx i)
      match d.progOf p.pkt.job with
      | none => .next (s.modDie die (fun d => { gone d with noprog := d.noprog + 1 }))
      | some g =>
        if s.asleep (g.tableCls die) then .next (s.callAll (g.tableCls die)) else
        let parsed := if p.pos = 0 && p.phv.isEmpty then
            (parseFrom g.states p.pkt.payload 32 0 0 (padTo 512 (phvMeta p 0)) []).map (fun r => (overlay r.1 0 (phvMeta p r.2.2), r.2.1))
          else some (p.phv, p.extracts)
        match parsed with
        | none => .next (s.modDie die (fun d => (gone d).modProg p.pkt.job (·.tally 0)))
        | some (phv, ext) =>
          let r := (range p.pos (16 - p.pos)).foldl (PRun.stage die) { g := g, phv := phv, disp := p.disp }
          let p' := { p with pos := 16, phv := r.phv, extracts := ext, disp := r.disp }
          .next (s.modDie die (fun d => (d.setLane lane (setAt (d.laneQ lane) i p')).modProg p.pkt.job (fun _ => r.g)))

/-! ## Disposition (R267, R270, R271) -/

/-- The deparsed payload (R267). -/
def PPkt.deparse (p : PPkt) : List Byte := p.extracts.foldl (fun pay e => overlay pay e.1 (slice p.phv e.2.1 e.2.2)) p.pkt.payload

/-- The home of a byte of a job's cluster window on a die (R11). -/
def State.windowHome (s : State) (die job cl off : Nat) : Nat := homeCluster (die * 8 + cl) ((SMap.get (0, 0) (s.die die).cwins (job * 8 + cl)).1 + off)

/-- An absorb (R270). A result word that names an undeclared slot set is counted as a refused absorb. -/
def State.absorb (s : State) (die : Nat) (p : PPkt) (pay : List Byte) (ss c po : Nat) (addb : Bool) : State :=
  match (s.die die).progOf p.pkt.job with
  | none => s
  | some g =>
    let z := g.slots.getD ss []
    let boff := ofBytes (slice p.phv 20 2)
    let body := pay.drop boff
    let size := 2 ^ ssLog z
    if !ssV z || c > ssNslot z || po + body.length > size then s.modDie die (fun d => d.modProg p.pkt.job (·.tally 2))
    else
      let cl := carrCl (g.arr (ssCstg z))
      let s := s.homeWrite (s.windowHome die p.pkt.job cl (ssOff z + c * size + po)) body
      s.countAdd die p.pkt.job (ssCstg z) (ssCbase z + c) (BitVec.ofNat 32 (if addb then body.length else 1))

/-- A punt (R271). Where the word of an index is poisoned the packet drops, counted in PREJ (R405). -/
def State.punt (s : State) (die : Nat) (p : PPkt) (pay : List Byte) (ring : Nat) : State :=
  match (s.die die).progOf p.pkt.job with
  | none => s
  | some g =>
    let w := wd (g.rings.getD ring []) 0
    let at_ (o : Nat) : Nat := s.windowHome die p.pkt.job (bits w 3 1) (bits w 63 32 + o)
    let n := bits w 23 8 + 1
    let size := 2 ^ (bits w 7 4 + 7)
    let widx := ofBytes (s.bytesAt (at_ 0) 8)
    let ridx := ofBytes (s.bytesAt (at_ 8) 8)
    if s.poisoned (at_ 0) 16 then s.modDie die (fun d => d.modProg p.pkt.job (·.tally 0))
    else if n ≤ wrap ((widx : Int) - ridx) 64 then s.modDie die (fun d => d.modProg p.pkt.job (·.tally 3))
    else
      let kept := pay.take (size - 64)
      let head := slice p.phv 0 32 ++ bytesOf 2 kept.length ++ bytesOf 1 (b2n (decide (kept.length < pay.length))) ++ List.replicate 29 0
      (s.homeWrite (at_ (64 + widx % n * size)) (head ++ kept)).homeWrite (at_ 0) (bytesOf 8 (widx + 1))

/-- A copy for a die (R267): JOB, SRC, VC and the steered class stay; this die numbers it (R390). Nothing where the replay window
is full. -/
def State.sendCopy (s : State) (die dst : Nat) (p : Packet) (pay : List Byte) : Option State :=
  (s.sendReq die { p with op := 2, masks := [], dst := dst, payload := pay, via := some die, turned := 0 } (5, die, 0)).map (·.1)

/-- The copies of a disposition from the first not yet sent (R267): the state, and how many are done. -/
def State.copies (s : State) (die : Nat) (p : Packet) (pay : List Byte) : Nat → List (Bool × Nat) → State × Nat
  | n, [] => (s, n)
  | n, (eth, t) :: rest =>
    if eth then
      (s.modDie die (fun d => { d with egress := d.egress ++ [({ p with payload := pay, at_ := die, aseq := d.aseq }, t)], aseq := d.aseq + 1 })).copies die p pay
        (n + 1) rest
    else match s.sendCopy die t p pay with
      | some s => s.copies die p pay (n + 1) rest
      | none => (s, n)

/-- The clusters whose SRAM the disposition of a packet reaches (R403): that of its slot set, that of its punt ring. -/
def Program.dispCls (g : Program) (die : Nat) (p : PPkt) : List Nat :=
  (match p.disp.absorb with
   | some (ss, _, _, _) => if p.absDone || p.disp.drop then [] else [die * 8 + carrCl (g.arr (ssCstg (g.slots.getD ss [])))]
   | none => []) ++
  (match p.disp.punt with
   | some r => if p.disp.drop then [] else [die * 8 + bits (wd (g.rings.getD r []) 0) 3 1]
   | none => [])

/-- A packet that a lane lets pass goes on from the die (R255, R256): as it stands, or as copies with numbers of their own. -/
def State.passOn (s : State) (die : Nat) (p : Packet) : State :=
  if p.op = 6 then s.join die (s.stand die p.ing p) else { s with net := s.net ++ s.stand die p.ing p }

/-- DISPOSITION (R267): the packet at the head of a lane that has been through the stages is dropped, absorbed, copied and punted, in
that order; one whose copies cannot leave keeps what it has done and stalls the lanes (R273). A frame in transit goes on by the route table, one that is
not steered to the die's fabric station (R255, R256). It waits for clusters that sleep (R403), and an arrival count for the next cycle where a record
that comes after it in the order of R28 has entered a sub-queue of its job in this one. -/
def execDisposition (die lane : Nat) (s : State) : Out :=
  match (s.die die).laneQ lane with
  | [] => .next s
  | p :: _ =>
    let done (s : State) : State := s.modDie die (fun d => d.setLane lane ((d.laneQ lane).drop 1))
    if p.pos ≠ 16 || ((s.die die).stalled && !p.absDone) || s.laneWaits die lane p (fun _ => true) then .next s
    else if p.plain die then .next ((done s).passOn die p.pkt)
    else
      let cls := match (s.die die).progOf p.pkt.job with | some g => g.dispCls die p | none => []
      if s.asleep cls then .next (s.callAll cls)
      else if p.disp.absorb.isSome && (s.die die).overtaken s.cycle p.pkt.job then .next s else
      let pay := p.deparse
      if p.disp.drop then .next (done s)
      else if p.disp.absorb.isNone && p.disp.targets.isEmpty && p.disp.punt.isNone then
        .next (done (s.modDie die (fun d => d.modProg p.pkt.job (·.tally 1))))
      else
        let s := if p.absDone then s else match p.disp.absorb with
          | some (ss, c, po, ab) => s.absorb die p pay ss c po ab
          | none => s
        let (s, n) := s.copies die p.pkt pay p.tdone (p.disp.targets.drop p.tdone)
        if n < p.disp.targets.length then
          .next (s.modDie die (fun d => d.setLane lane ({ p with absDone := true, tdone := n } :: (d.laneQ lane).drop 1)))
        else
          let s := match p.disp.punt with | some r => s.punt die p pay r | none => s
          .next (done s)

/-! ## Ethernet ingress (R255, R256, R394, R395) -/

/-- The bytes that wait in the Ethernet ingress FIFO of a die (R395). -/
def State.fifo (s : State) (die : Nat) : Nat :=
  ((s.die die).lane0 ++ (s.die die).lane1).foldl (fun n p => if 4 ≤ p.ing && p.pos ≠ 16 then n + p.pkt.bytes.length else n) 0
/-- The slots in use at the Ethernet stations of a die (R386). -/
def State.ethSlots (s : State) (die : Nat) : Nat := (s.net.filter (fun p => p.at_ == die && 4 ≤ p.ing && p.ing < 8)).length

/-- The ID of a direction of a link with a frame number (R384; DESIGN CHOICE, log 22). -/
def linkIv (die port n : Nat) : BitVec 96 := BitVec.ofNat 96 ((die * 8 + port) * 2 ^ 64 + n % 2 ^ 64)
/-- The key of the direction that ends at a station of a die (R384). -/
def State.linkKey (s : State) (die port : Nat) : BitVec 256 := SMap.get 0 (s.die die).linkKeys port

/-- The subports of a die's Ethernet port (R394): one, two or four by the mode that link training set (log 45). -/
def Die.subports (d : Die) : Nat := if d.ethMode = 0 then 1 else if d.ethMode = 1 then 2 else 4

/-- The packet of an Ethernet frame leaves the die that sends it, if it comes from a die of the domain: from its Ethernet station, or from the egress queue
of its pipeline. The VC of a request that it answers and the die that numbered it come with it. -/
def State.leaveEth (s : State) (w : Packet) : Packet × State :=
  match s.pick (fun p => 4 ≤ p.out && p.out < 8 && p.bytes == w.bytes) with
  | some (p, s) => (p, s)
  | none => match s.dies.find? (fun d => d.2.egress.any (fun e => e.1.bytes == w.bytes)) with
    | some (k, d) => match findIdx (fun e : Packet × Nat => e.1.bytes == w.bytes) 0 d.egress with
      | some (i, e) => (e.1, s.modDie k (fun d => { d with egress := d.egress.eraseIdx i }))
      | none => (w, s)
    | none => (w, s)

/-- A packet of a frame takes a lane of the die (R255, R256), one steered to this die under the sequence rule (R391): of a multicast packet that is
steered to this die among others the copy for this die, while the others go on. -/
def State.ethTake (s : State) (die ing : Nat) (p : Packet) : State :=
  let copies := s.stand die ing p
  match copies.find? (fun q => p.steer && q.out == 8) with
  | some q =>
    let s := s.join die (copies.filter (fun c => c.out != 8))
    let q := { q with aseq := (s.die die).aseq }
    let s := s.modDie die (fun d => { d with aseq := d.aseq + 1 })
    (match s.arrive die q with
     | .error s => s
     | .ok s => (s.enterLane die q).reply die q 0x11 [])
  | none =>
    (s.enterLane die { p with ing := ing, at_ := die, out := 9, aseq := (s.die die).aseq }).modDie die (fun d => { d with aseq := d.aseq + 1 })

/-- ETH_FRAME_RX (R255, R256, R395): the packet of a frame enters its lane. While the ingress FIFO, or the station's 512 slots, are full a frame is paused or
dropped. A frame whose ciphertext is that of another packet than the event names, or one longer than 4,352 bytes, is none (R10). -/
def execEthFrameRx (die sub : Nat) (frame : EthFrame) (s : State) : Out :=
  let d := s.die die
  let key := s.linkKey die (4 + sub)
  if d.subports ≤ sub || 4352 < frame.size then .next s else
  let aad := bytesOf 8 frame.head.toNat ++ bytesOf 8 frame.counter.toNat
  if frame.etherType ≠ d.etherType then .next (s.modDie die (fun d => { d with foreign := d.foreign + 1 }))
  else if s.fifo die + frame.cipher.length > 2097152 || 512 ≤ s.ethSlots die then
    .next (if d.pfc.contains sub then s else s.modDie die (fun d => { d with ethdrop := d.ethdrop + 1 }))
  else if Config.gcmTag key (linkIv die (4 + sub) frame.counter.toNat) aad frame.cipher ≠ frame.tag then
    .next (s.modDie die (fun d => { d with ethbad := d.ethbad + 1 }))
  else if frame.head ≠ 1 then .next (s.modDie die (fun d => { d with badpkt := d.badpkt + 1 }))
  else if Config.gcmCrypt key (linkIv die (4 + sub) frame.counter.toNat) frame.cipher ≠ frame.packet.bytes then .next s
  else
    let (p, s) := s.leaveEth frame.packet
    .next (if (s.die die).closed.contains p.job then s.lateArrive die { p with ing := 4 + sub } else s.ethTake die (4 + sub) { p with turned := 0 })

end Sys2Proof.Machine
end

