-- ==== Sys2Proof/Machine/Sync.lean ====
section
/-! DEFINITION. The Y slot but for Drift (R215 to R232): atomics, fences, the binding table, phasers, wait on address. -/

namespace Sys2Proof.Machine

/-! ## Fences (R224, R243) -/

/-- A fence at a scope: nothing where it must still wait for its remote writes (R243, R251). -/
def State.fenceAt (s : State) (scope : Nat) (wb inv : Bool) : Except State State :=
  let core := s.cur.core
  let s := (if wb then s.writeBackAll core (fun _ => true) else s).publish core scope
  if s.unacked core scope then .error s else .ok (if inv then s.acquireCore core else s)

/-- `fence` (R224). -/
def execFence (sc : BitVec 3) (wb inv : Bool) (s : State) : Out :=
  match s.fenceAt sc.toNat wb inv with
  | .error s => .next s.hold
  | .ok s => .next s

/-! ## Atomics (R220 to R223, R248) -/

/-- The operations of R105, in opcode order. -/
inductive AmoOp where
  | add | min | max | and | or | xor | swap | cas
  deriving DecidableEq, Repr

/-- The code of an operation in an AMO packet: its Y-slot opcode order (R105, R383). -/
def AmoOp.code : AmoOp → Nat
  | .add => 1
  | .min => 2
  | .max => 3
  | .and => 4
  | .or => 5
  | .xor => 6
  | .swap => 7
  | .cas => 8
/-- The operation of a code. -/
def AmoOp.ofCode (n : Nat) : Option AmoOp :=
  match n with
  | 1 => some .add
  | 2 => some .min
  | 3 => some .max
  | 4 => some .and
  | 5 => some .or
  | 6 => some .xor
  | 7 => some .swap
  | 8 => some .cas
  | _ => none

/-- The new value of a read-modify-write of n bytes (R220). -/
def amoNew (op : AmoOp) (n : Nat) (signed : Bool) (old v c : Nat) : Nat :=
  let less (a b : Nat) : Bool := if signed then decide (sext a (8 * n) < sext b (8 * n)) else decide (a < b)
  match op with
  | .add => (old + v) % 2 ^ (8 * n)
  | .min => if less v old then v else old
  | .max => if less old v then v else old
  | .and => old &&& v
  | .or => old ||| v
  | .xor => old ^^^ v
  | .swap => v
  | .cas => if old = c then v else old

/-- Every buffered write to bytes of a location drains before an atomic on them (R248). -/
def State.drainFor (s : State) (a n : Nat) : State :=
  let p (w : BufW) : Bool := a < w.loc + w.bytes.length && w.loc < a + n
  let s := (s.clusters.map (·.1)).foldl (fun s k => s.drainClusterAll k p) s
  (s.dies.map (·.1)).foldl (fun s k => s.drainStationAll k p) s

/-- The indivisible read-modify-write at its home (R220): the old value. Nothing is written over one that the instruction cannot take (R62). -/
def State.rmw (s : State) (op : AmoOp) (a n : Nat) (signed : Bool) (v c : Nat) (low : Nat → Bool := fun _ => false) : Nat × State :=
  let s := s.drainFor a n
  let old := ofBytes (s.bytesAt a n)
  (old, if low old then s else s.homeWrite a (bytesOf n (amoNew op n signed old v c)))

/-- How one atomic of a bundle ends: its old value, a cause, or a wait. -/
inductive AmoEnd where
  | done (old : Nat)
  | bad (b : Bad)
  | wait
  deriving DecidableEq, Repr

/-- The AMO packet's payload (R383). -/
def amoPayload (op : AmoOp) (n : Nat) (signed : Bool) (v c : Nat) : List Byte :=
  bytesOf 8 (op.code + b2n (n == 8) * 2 ^ 8 + b2n signed * 2 ^ 9) ++ bytesOf 8 v ++ bytesOf 8 c ++ List.replicate 8 0

/-- Where an atomic at an effective address leads: its checks 3 and 4 of R173 and the poison of R405. -/
def State.amoTarget (s : State) (ea : Word) (n : Nat) : Except Bad Xl :=
  match s.xlElem .at n ea with
  | .error b => .error b
  | .ok t => match t.rc with
    | .scratch | .cluster => if s.poisoned t.loc n then .error (0x0F01, faultVa ea 0) else .ok t
    | .ordinary => if s.poisoned t.loc n then .error (0x0F02, faultVa ea 0) else .ok t
    | .remote => .ok t
    | _ => .error (0x0501, faultVa ea 0)

/-- One atomic where its address leads (R221): the core's line is written back and invalidated first; a remote one is a message that the
bundle waits for. -/
def State.amoAt (s : State) (op : AmoOp) (ea : Word) (t : Xl) (n : Nat) (signed : Bool) (v c : Nat) (low : Nat → Bool := fun _ => false) : AmoEnd × State :=
  let s := s.tlbFill s.xc (vaOf ea)
  let flush (s : State) : State := s.invalidate s.cur.core (fun l => l.loc / 64 == t.loc / 64)
  match t.rc with
  | .remote =>
    (match s.iss.resp with
     | some (.data bs) => (.done (ofBytes (bs.take n)), s.clearReq)
     | some (.nack r) => (.bad (nackCause r, faultVa ea 0), s.clearReq)
     | _ =>
       if s.iss.req.isSome then (.wait, s)
       else
         let s := (flush s).drainFor t.loc n
         if (s.die (coreDie s.cur.core)).station.any (fun w => w.meets { loc := t.loc, bytes := List.replicate n 0, core := 0, job := 0 }) then (.wait, s)
         else
           let (die, rkey, off) := remParts t.loc
           (.wait, s.request { op := 3, job := s.xc.job, offs := off, steer := false, vc := 0, seq := 0, dst := die, src := 0, rkey := rkey,
                               payload := amoPayload op n signed v c } (0, 0)))
  | .ordinary =>
    let (old, s) := (flush s).rmw op t.loc n signed v c low
    (.done old, s)
  | _ =>
    let (old, s) := s.rmw op t.loc n signed v c low
    (.done old, s)

/-- The old value of an atomic as gV takes it (R220). -/
def amoResult (n : Nat) (signed : Bool) (old : Nat) : Word := if signed then BitVec.ofInt 64 (sext old (8 * n)) else w64 old

/-- The end of an atomic that has taken effect (R220): gV, then the fence of an acquire. A value that R62 keeps out of g30 is a fault, which of a remote
atomic comes after its effect (DESIGN CHOICE, log 75). While the fence waits, the bundle keeps the old value. -/
def State.amoEnd (s : State) (v : BitVec 5) (scope : BitVec 3) (n : Nat) (signed acq : Bool) (old : Nat) : State :=
  let r := amoResult n signed old
  if s.lowSp v r then s.takeTrap 0x0701 r
  else if acq then
    match s.fenceAt scope.toNat false true with
    | .error s => (s.modIss (fun i => { i with amoOld := some old })).hold
    | .ok s => (s.modIss (fun i => { i with amoOld := none })).modR (fun g => g.setG v.toNat r)
  else s.modR (fun g => g.setG v.toNat r)

/-- `amo.op` (R220): the fence of a release, the checks, the atomic, gV, the fence of an acquire. -/
def State.amo (s : State) (op : AmoOp) (a v c : BitVec 5) (scope : BitVec 3) (dw z rel acq : Bool) : State :=
  let n := if dw then 8 else 4
  let signed := (op == .min || op == .max) && !z
  let ea := s.rs a
  match s.iss.amoOld with
  | some old => s.amoEnd v scope n signed acq old
  | none =>
    match (if rel then s.fenceAt scope.toNat true false else .ok s) with
    | .error s => s.hold
    | .ok s =>
      match s.stackBad a [(0, ea)] with
      | some (k, x) => s.takeTrap k x
      | none =>
        if ea.toNat % n ≠ 0 then s.takeTrap 0x0801 ea
        else match s.amoTarget ea n with
          | .error (k, x) => s.takeTrap k x
          | .ok t =>
            match s.amoAt op ea t n signed ((s.rs v).toNat % 2 ^ (8 * n)) ((s.rs c).toNat % 2 ^ (8 * n)) (fun o => s.lowSp v (amoResult n signed o)) with
            | (.bad (k, x), s) => s.takeTrap k x
            | (.wait, s) => s.hold
            | (.done old, s) => s.amoEnd v scope n signed acq old

/-- `amo.add` (R220). -/
def execAmoAdd (a v : BitVec 5) (sc : BitVec 3) (dw rel acq : Bool) (s : State) : Out := .next (s.amo .add a v 0 sc dw false rel acq)
/-- `amo.min` (R220). -/
def execAmoMin (a v : BitVec 5) (sc : BitVec 3) (dw z rel acq : Bool) (s : State) : Out := .next (s.amo .min a v 0 sc dw z rel acq)
/-- `amo.max` (R220). -/
def execAmoMax (a v : BitVec 5) (sc : BitVec 3) (dw z rel acq : Bool) (s : State) : Out := .next (s.amo .max a v 0 sc dw z rel acq)
/-- `amo.and` (R220). -/
def execAmoAnd (a v : BitVec 5) (sc : BitVec 3) (dw rel acq : Bool) (s : State) : Out := .next (s.amo .and a v 0 sc dw false rel acq)
/-- `amo.or` (R220). -/
def execAmoOr (a v : BitVec 5) (sc : BitVec 3) (dw rel acq : Bool) (s : State) : Out := .next (s.amo .or a v 0 sc dw false rel acq)
/-- `amo.xor` (R220). -/
def execAmoXor (a v : BitVec 5) (sc : BitVec 3) (dw rel acq : Bool) (s : State) : Out := .next (s.amo .xor a v 0 sc dw false rel acq)
/-- `amo.swap` (R220). -/
def execAmoSwap (a v : BitVec 5) (sc : BitVec 3) (dw rel acq : Bool) (s : State) : Out := .next (s.amo .swap a v 0 sc dw false rel acq)
/-- `amo.cas` (R220). -/
def execAmoCas (a v c : BitVec 5) (sc : BitVec 3) (dw rel acq : Bool) (s : State) : Out := .next (s.amo .cas a v c sc dw false rel acq)

/-! ## Vector atomics (R222, R223) -/

/-- A row as latched for the Y slot. -/
def State.rowS (s : State) (n : Nat) : List Lane := rowOf s.iss.syncV s.cx.t.vb s.cur.ctx (n % 64)

/-- Write lane i of row n. -/
def State.setLane (s : State) (n i : Nat) (v : Lane) : State :=
  match vkey s.cx.t.vb s.cur.ctx n i with
  | some k => s.modCo (fun c => { c with vfile := SMap.put c.vfile k v })
  | none => s

/-- The lanes of a vamo still to apply, in ascending order (R223): the first that fails stops it, a remote one waits. `true` is the
end of the instruction. -/
def State.vamoLanes (s : State) (op : AmoOp) (d : Nat) (signed : Bool) (addr : Nat → Word) (cmp : List Lane) : List Nat → Bool × State
  | [] => (true, s)
  | i :: rest =>
    match s.amoTarget (addr i) 4 with
    | .error (k, x) => (false, s.takeTrap k x)
    | .ok t => match s.amoAt op (addr i) t 4 signed ((s.rowS d).getD i 0).toNat (cmp.getD i 0).toNat with
      | (.bad (k, x), s) => (false, s.takeTrap k x)
      | (.wait, s) => (false, s.hold)
      | (.done old, s) =>
        ((s.setLane d i (BitVec.ofNat 32 old)).modIss (fun r => { r with lmask := r.lmask ||| w64 (2 ^ i) })).vamoLanes op d signed addr cmp rest

/-- `vamo.op` (R222, R223). -/
def State.vamo (s : State) (op : AmoOp) (a : BitVec 5) (v : BitVec 6) (scope : BitVec 3) (z rel acq idx : Bool) : State :=
  let d := v.toNat
  let base := s.rs a
  let signed := (op == .min || op == .max) && !z
  let ix := s.rowS (d + 1)
  let cmp := if idx then s.rowS (d + 2) else s.rowS (d + 1)
  let addr (i : Nat) : Word := if idx then base + BitVec.ofInt 64 (4 * (ix.getD i 0).toInt) else base + w64 (4 * i)
  let all := (range 0 64).filter (fun i => s.enb i && i < s.lanes)
  let lanes := all.filter (fun i => !s.iss.lmask.getLsbD i)
  if all.isEmpty then s
  else match s.stackBad a (all.map (fun i => (i, addr i))) with
    | some (k, x) => s.takeTrap k x
    | none =>
      if base.toNat % 4 ≠ 0 then s.takeTrap 0x0801 base
      else
        match (if rel then s.fenceAt scope.toNat true false else .ok s) with
        | .error s => s.hold
        | .ok s =>
          match s.vamoLanes op d signed addr cmp lanes with
          | (true, s) => if acq then (match s.fenceAt scope.toNat false true with | .error s => s.hold | .ok s => s) else s
          | (false, s) => s

/-- `vamo.add` (R222). -/
def execVamoAdd (a : BitVec 5) (v : BitVec 6) (sc : BitVec 3) (rel acq idx : Bool) (s : State) : Out := .next (s.vamo .add a v sc false rel acq idx)
/-- `vamo.min` (R222). -/
def execVamoMin (a : BitVec 5) (v : BitVec 6) (sc : BitVec 3) (z rel acq idx : Bool) (s : State) : Out := .next (s.vamo .min a v sc z rel acq idx)
/-- `vamo.max` (R222). -/
def execVamoMax (a : BitVec 5) (v : BitVec 6) (sc : BitVec 3) (z rel acq idx : Bool) (s : State) : Out := .next (s.vamo .max a v sc z rel acq idx)
/-- `vamo.and` (R222). -/
def execVamoAnd (a : BitVec 5) (v : BitVec 6) (sc : BitVec 3) (rel acq idx : Bool) (s : State) : Out := .next (s.vamo .and a v sc false rel acq idx)
/-- `vamo.or` (R222). -/
def execVamoOr (a : BitVec 5) (v : BitVec 6) (sc : BitVec 3) (rel acq idx : Bool) (s : State) : Out := .next (s.vamo .or a v sc false rel acq idx)
/-- `vamo.xor` (R222). -/
def execVamoXor (a : BitVec 5) (v : BitVec 6) (sc : BitVec 3) (rel acq idx : Bool) (s : State) : Out := .next (s.vamo .xor a v sc false rel acq idx)
/-- `vamo.swap` (R222). -/
def execVamoSwap (a : BitVec 5) (v : BitVec 6) (sc : BitVec 3) (rel acq idx : Bool) (s : State) : Out := .next (s.vamo .swap a v sc false rel acq idx)
/-- `vamo.cas` (R222). -/
def execVamoCas (a : BitVec 5) (v : BitVec 6) (sc : BitVec 3) (rel acq idx : Bool) (s : State) : Out := .next (s.vamo .cas a v sc false rel acq idx)

/-! ## Handles (R51) -/

/-- The handle bN of the core in issue. -/
def State.handle (s : State) (b : BitVec 6) : Word := SMap.get 0 s.co.handles b.toNat
/-- Set bN of the core in issue. -/
def State.setHandle (s : State) (b : BitVec 6) (v : Word) : State := s.modCo (fun c => { c with handles := SMap.put c.handles b.toNat v })
/-- The fields of a handle or phaser name (R51). -/
def hScope (h : Word) : Nat := bits h 62 60
def hMode (h : Word) : Nat := bits h 59 58
def hJob (h : Word) : Nat := bits h 57 48
def hObj (h : Word) : Nat := bits h 47 0
/-- The handle check of R51: valid, of the task's job, with a mode. -/
def State.handleBad (s : State) (b : BitVec 6) : Bool :=
  let h := s.handle b
  !bit h 63 || hJob h ≠ s.xc.job || hMode h = 3

/-! ## The binding table (R225, R226) -/

/-- `bind` (R225). -/
def execBind (a l : BitVec 5) (b : BitVec 6) (s : State) : Out :=
  let base := s.rs a
  let len := s.rs l
  let tab := s.cx.r.binds
  let e : Bind := ⟨base, len, b.toNat⟩
  if base.toNat % 64 ≠ 0 then .next (s.takeTrap 0x0801 base)
  else if len.toNat % 64 ≠ 0 || len = 0 || len.toNat > 2 ^ 40 then .next (s.takeTrap 0x0801 base)
  else if s.handleBad b then .next (s.takeTrap 0x0601 0)
  else if tab.any (fun t => t.h != b.toNat && base.toNat < t.base.toNat + t.len.toNat && t.base.toNat < base.toNat + len.toNat) then
    .next (s.takeTrap 0x0602 base)
  else if tab.contains e then .next s
  else if tab.length ≥ 16 then .next (s.takeTrap 0x0603 base)
  else .next (s.modR (fun r => { r with binds := r.binds ++ [e] }))

/-- `unbind` (R226). -/
def execUnbind (a : BitVec 5) (s : State) : Out := .next (s.modR (fun r => { r with binds := r.binds.filter (fun t => t.base != s.rs a) }))

/-! ## Phasers (R227 to R231) -/

/-- The place of a phaser object: its die and the core it was made around. The OBJ of a name is [47:40] die, [39:32] core of the die,
[31:0] number (DESIGN CHOICE, log 26). -/
def objDie (obj : Nat) : Nat := nbits obj 47 40
def objCore (obj : Nat) : Nat := objDie obj * 128 + nbits obj 39 32 % 128

/-- A core lies in the scope instance of a phaser (R236, R245). -/
def inScope (scope core obj : Nat) : Bool :=
  let c := objCore obj
  match scope with
  | 0 => core == c
  | 1 => coreCluster core == coreCluster c
  | 2 => coreDie core == coreDie c
  | 3 => coreDie core / 8 == coreDie c / 8
  | _ => true

/-- The phaser at a place. -/
def State.phaser (s : State) (obj : Nat) : Option Phaser := (s.die (objDie obj)).phasers.find? (fun f => f.obj == obj)

/-- A member with signal capability (R227). -/
def Member.signals (m : Member) : Bool := m.mode == 0 || m.mode == 2

/-- A wait for a target is met (R227). -/
def Phaser.met (f : Phaser) (t : BitVec 16) : Bool := decide (0 ≤ (f.p - t).toInt)

/-- The advance check (R227): every wait whose target is now met is satisfied. -/
def Phaser.advance (f : Phaser) : Phaser :=
  let sig := f.members.filter (·.signals)
  let f := if !sig.isEmpty && sig.all (fun m => m.m == f.p + 1) then { f with p := f.p + 1 } else f
  { f with waits := f.waits.map (fun w => if f.met w.target then { w with met := true } else w) }

/-! ### Requests to the sync engine of another die (R218; DESIGN CHOICE, log 26) -/

/-- The member that a handle of a core names. -/
def Member.isAt (m : Member) (core : Nat) (b : BitVec 6) : Bool := m.core == core && m.h == b.toNat

/-- A SYNC request packet (R383; DESIGN CHOICE, log 26): 24 bytes. w0 [7:0] 1 register, 2 drop, 3 query, 4 signal, 5 wait; [9:8] mode, [15:10] handle,
[22:16] core of the die, [23] context, [26:24] scope, [42:27] target; w1 [47:0] OBJ; w2 TASK_ID. -/
def syncAsk (op mode : Nat) (b : BitVec 6) (core ctx scope : Nat) (t : BitVec 16) (obj job tid : Nat) : Packet :=
  { op := 9, job := job, offs := 0, steer := false, vc := 6, seq := 0, dst := objDie obj, src := core / 128, rkey := 0,
    payload := bytesOf 8 (op % 2 ^ 8 + mode % 4 * 2 ^ 8 + b.toNat * 2 ^ 10 + core % 128 * 2 ^ 16 + ctx % 2 * 2 ^ 23 + scope % 8 * 2 ^ 24 + t.toNat * 2 ^ 27) ++
               bytesOf 8 (obj % 2 ^ 48) ++ bytesOf 8 tid }
/-- A SYNC reply packet (DESIGN CHOICE, log 26): 32 bytes. w0 [7:0] status, [19:8] FSEQ, [26:20] core of the die, [27] context; w1 [47:0] OBJ; w2 the
value. -/
def syncTell (src core ctx obj job fseq status : Nat) (v : Word) : Packet :=
  { op := 9, job := job, offs := 0, steer := false, vc := 6, seq := 0, dst := core / 128, src := src, rkey := 0,
    payload := bytesOf 8 (status % 2 ^ 8 + fseq % 2 ^ 12 * 2 ^ 8 + core % 128 * 2 ^ 20 + ctx % 2 * 2 ^ 27) ++ bytesOf 8 (obj % 2 ^ 48) ++ bytesOf 8 v.toNat ++
               bytesOf 8 0 }

/-- A met wait of another die's context is told so and ends; a full replay window holds the reply back (R390). -/
def State.tellWait (s : State) (f : Phaser) (w : PWait) : State :=
  match w.fseq with
  | none => s
  | some n =>
    let die := objDie f.obj
    match s.sendReq die (syncTell die w.core w.ctx f.obj f.job n 0 0) (5, die, 0) with
    | none => s
    | some (s, _) => s.modDie die (fun d => { d with phasers := mapIf (fun g => g.obj == f.obj) (fun g => { g with waits := g.waits.filter (· != w) }) d.phasers })

/-- The met waits of other dies' contexts at a phaser are told so. -/
def State.tellWaits (s : State) (obj : Nat) : State :=
  match s.phaser obj with
  | none => s
  | some f => (f.waits.filter (fun w => w.met && w.fseq.isSome)).foldl (fun s w => s.tellWait f w) s

/-- An operation on a phaser, with the advance check after it (R227). -/
def State.phaserOp (s : State) (obj : Nat) (op : Phaser → Phaser) : State :=
  State.tellWaits (s.modDie (objDie obj) (fun d => { d with phasers := mapIf (fun f => f.obj == obj) (fun f => (op f).advance) d.phasers })) obj

/-- The target that a member keeps for a task whose `psw` has signalled (R229). -/
def Member.owedBy (m : Member) (tid : Nat) : Option (BitVec 16) := m.owed.bind (fun o => if o.1 = tid then some o.2 else none)

/-- A new member (R228). -/
def Phaser.enrol (f : Phaser) (core : Nat) (b : BitVec 6) (mode : Nat) : Phaser :=
  { f with members := f.members ++ [{ core := core, h := b.toNat, mode := mode, m := f.p }] }
/-- The member of a handle leaves (R228). -/
def Phaser.leave (f : Phaser) (core : Nat) (b : BitVec 6) : Phaser := { f with members := f.members.filter (fun m => !m.isAt core b) }
/-- The member of a handle signals (R229). -/
def Phaser.signalled (f : Phaser) (core : Nat) (b : BitVec 6) : Phaser :=
  { f with members := mapIf (fun m => m.isAt core b) (fun m => { m with m := m.m + 1 }) f.members }
/-- What `pquery.phase` reads (R231). -/
def Phaser.view (f : Phaser) (m : Member) : Word := w64 (f.p.toNat + m.m.toNat * 2 ^ 16 + (f.members.filter (·.signals)).length % 65536 * 2 ^ 32)
/-- A phaser takes no `preg` of a job in a scope (R228): 1 bad phaser, 2 full; else 0. -/
def Phaser.bars (f : Phaser) (job scope core : Nat) : Nat :=
  if f.job ≠ job || f.scope ≠ scope || !inScope f.scope core f.obj then 1 else if f.members.length ≥ 65535 then 2 else 0

/-- A sync engine serves a request of another die (R227 to R231): what it replies at once; a wait not yet met has its reply later. Status 1: no such
phaser or member; 3: the task's earlier `psw` has signalled, and the value holds its target in [63:48], which the engine forgets. -/
def State.syncServe (s : State) (p : Packet) : Option (Nat × Word) × State :=
  let w (i : Nat) : Word := wordOf (slice p.payload (8 * i) 8)
  let obj := bits (w 1) 47 0
  let core := p.source * 128 + bits (w 0) 22 16
  let b : BitVec 6 := BitVec.ofNat 6 (bits (w 0) 15 10)
  match s.phaser obj with
  | none => (some (1, 0), s)
  | some f =>
    if bits (w 0) 7 0 = 1 then
      let n := f.bars p.job (bits (w 0) 26 24) core
      (some (n, 0), if n = 0 then s.phaserOp obj (fun f => f.enrol core b (bits (w 0) 9 8)) else s)
    else if bits (w 0) 7 0 = 2 then (some (0, 0), s.phaserOp obj (fun f => f.leave core b))
    else match f.members.find? (fun m => m.isAt core b) with
      | none => (some (1, 0), s)
      | some m =>
        if bits (w 0) 7 0 = 3 then
          match m.owedBy (w 2).toNat with
          | some t =>
            (some (3, f.view m ||| w64 (t.toNat * 2 ^ 48)),
             s.modDie (objDie obj) (fun d => { d with phasers := mapIf (fun f => f.obj == obj) (fun f =>
               { f with members := mapIf (fun m => m.isAt core b) (fun m => { m with owed := none }) f.members }) d.phasers }))
          | none => (some (0, f.view m), s)
        else if bits (w 0) 7 0 = 4 then (some (0, 0), s.phaserOp obj (fun f => f.signalled core b))
        else
          let t : BitVec 16 := BitVec.ofNat 16 (bits (w 0) 42 27)
          if f.met t then (some (0, 0), s)
          else
            let wt : PWait := { core := core, ctx := bits (w 0) 23 23, target := t, fseq := some p.seq }
            (none, s.modDie (objDie obj) (fun d => { d with phasers := mapIf (fun g => g.obj == obj) (fun g => { g with waits := g.waits ++ [wt] }) d.phasers }))

/-- A SYNC request reaches its engine (R218, R391, R393): acknowledged, served, answered; the reply cache keeps the answer. It waits while the replay window
has no room for the answer. -/
def State.syncArrive (s : State) (die : Nat) (p : Packet) : State :=
  match s.arrive die p with
  | .error s => s
  | .ok s => match (if p.rkey = 0 then .ok 0 else s.keyCheck die p.rkey p.job p.offs 8 .at) with
    | .error r => s.nack die p r
    | .ok _ =>
      let w (i : Nat) : Word := wordOf (slice p.payload (8 * i) 8)
      match (s.reply die p 0x11 []).syncServe p with
      | (none, s) => s
      | (some (st, v), s) =>
        let r := syncTell die (p.source * 128 + bits (w 0) 22 16) (bits (w 0) 23 23) (bits (w 1) 47 0) p.job p.seq st v
        match s.sendReq die r (5, die, 0) with
        | none => s
        | some (s, n) => s.modDie die (fun d => d.keepReply p.source 6 p.seq { r with seq := n })

/-- A SYNC reply reaches the context whose request it answers (R218, R359). -/
def State.syncTake (s : State) (p : Packet) : State :=
  let w (i : Nat) : Word := wordOf (slice p.payload (8 * i) 8)
  let obj := bits (w 1) 47 0
  let mine (i : Iss) : Bool := match i.req with | some r => r == (p.src, 6, bits (w 0) 19 8) | none => i.phase == some obj && i.resp.isNone
  s.modCtxAt ⟨p.dst * 128 + bits (w 0) 26 20, bits (w 0) 27 27⟩ (fun c => { c with held := c.held.map (fun i =>
    if mine i then { i with req := none, resp := some (.sync (bits (w 0) 7 0) (w 2)) } else i) })

/-- A SYNC packet is a request. -/
def syncAsks (p : Packet) : Bool := p.op == 9 && p.payload.length == 24

/-- The first SYNC packet for a phaser that stands at a die, first on its way; of a job not stopped there (R353). A request waits while the replay window is
full. -/
def State.syncNext (s : State) (die obj : Nat) : Option (Packet × State) :=
  let d := s.die die
  let isIt (p : Packet) : Bool :=
    p.op == 9 && p.at_ == die && p.out == 8 && (p.bad || bits (wordOf (slice p.payload 8 8)) 47 0 == obj) &&
    (!d.deaf p.job || d.closed.contains p.job) && (!syncAsks p || d.window.length < 256) &&
    s.net.find? (fun q => q.source == p.source && q.dst == p.dst && q.vc == p.vc && q.at_ == die && q.out == 8) == some p
  s.pick isIt

/-- The phaser of a handle stands at another die's engine. -/
def State.far (s : State) (b : BitVec 6) : Bool := objDie (hObj (s.handle b)) != coreDie s.cur.core

/-- What has come of the Y slot's request to another die's engine: none made, none answered, a refusal, or the stage it was made in with status and
value. -/
inductive FarEnd where
  | idle | waits
  | bad (cause : Nat)
  | got (stage status : Nat) (v : Word)
  deriving DecidableEq, Repr

def State.farEnd (s : State) : FarEnd :=
  match s.iss.resp with
  | some (.sync st v) => .got (if s.iss.phase.isSome then 3 else s.iss.sy) st v
  | some (.nack r) => .bad (nackCause r)
  | _ => if s.iss.sy = 0 && s.iss.phase.isNone then .idle else .waits

/-- The Y slot is done with its requests. -/
def State.farClear (s : State) : State := s.modIss (fun i => { i with sy := 0, req := none, resp := none, phase := none })

/-- The Y slot makes a request to the engine of a phaser on another die: `stage` 1 asks, 2 acts, 3 waits, attached. It is held while the request cannot go
(R390). -/
def State.farAsk (s : State) (op mode stage : Nat) (b : BitVec 6) (nm : Word) (t : BitVec 16) : State :=
  let core := s.cur.core
  let p := syncAsk op mode b core s.cur.ctx (hScope nm) t (hObj nm) s.xc.job s.cx.t.trc.tid
  match s.sendReq (coreDie core) p (0, core, s.cur.ctx) with
  | none => s.hold
  | some (s, n) =>
    (s.modIss (fun i => { i with sy := stage, req := some (p.dst, 6, n), resp := none, phase := if stage = 3 then some (hObj nm) else none,
                                 att := stage == 3 })).hold

/-- `preg` (R228). -/
def execPreg (p : BitVec 5) (b : BitVec 6) (m : BitVec 2) (s : State) : Out :=
  let nm := s.rs p
  let done (s : State) (n : Nat) : State :=
    if n = 0 then s.setHandle b (nm ||| w64 (2 ^ 63 + m.toNat * 2 ^ 58)) else s.takeTrap (if n = 2 then 0x0606 else 0x0605) 0
  if bit (s.handle b) 63 then .next (s.takeTrap 0x0604 0)
  else if bit nm 63 || hMode nm ≠ 0 || hScope nm > 4 || hJob nm ≠ s.xc.job then .next (s.takeTrap 0x0605 0)
  else if objDie (hObj nm) ≠ coreDie s.cur.core then
    match s.farEnd with
    | .idle => .next (s.farAsk 1 m.toNat 2 b nm 0)
    | .waits => .next s.hold
    | .bad c => .next (s.farClear.takeTrap c 0)
    | .got _ n _ => .next (done s.farClear n)
  else match s.phaser (hObj nm) with
    | none => .next (done s 1)
    | some f =>
      let n := f.bars s.xc.job (hScope nm) s.cur.core
      .next (done (if n = 0 then s.phaserOp f.obj (fun f => f.enrol s.cur.core b m.toNat) else s) n)

/-- `pdrop` (R228). -/
def execPdrop (b : BitVec 6) (s : State) : Out :=
  if s.handleBad b then .next (s.takeTrap 0x0601 0)
  else if s.far b then
    match s.farEnd with
    | .idle => .next (s.farAsk 2 0 2 b (s.handle b) 0)
    | .waits => .next s.hold
    | .bad c => .next (s.farClear.takeTrap c 0)
    | .got _ _ _ => .next (s.farClear.setHandle b 0)
  else .next ((s.phaserOp (hObj (s.handle b)) (fun f => f.leave s.cur.core b)).setHandle b 0)

/-- A line, by an address it was reached under, overlaps a region bound to a handle in the context's table (R230, R247). -/
def State.bound (s : State) (b : BitVec 6) (l : Line) : Bool :=
  l.tags.any (fun a => a.1 == s.xc.asid &&
    s.cx.r.binds.any (fun t => t.h == b.toNat && a.2 < vaOf t.base + t.len.toNat && vaOf t.base < a.2 + 64))

/-- The release of a signal (R230): nothing where it must wait for its remote writes. -/
def State.signalRelease (s : State) (b : BitVec 6) : Except State State :=
  let core := s.cur.core
  let scope := hScope (s.handle b)
  let s := (s.writeBackAll core (s.bound b)).publish core scope
  if s.unacked core scope then .error s else .ok s

/-- The acquire of a satisfied wait (R230). -/
def State.waitAcquire (s : State) (b : BitVec 6) : State :=
  s.acquireSpans s.cur.core (s.bound b) s.xc.asid
    (((s.cx.r.binds.filter (fun t => t.h == b.toNat && t.len != 0))).map (fun t => (vaOf t.base, vaOf t.base + t.len.toNat - 1)))

/-- A context waits attached to a phaser or a slice (R217, R353). -/
def State.attach (s : State) : State := s.hold.modIss (fun i => { i with att := true })

/-- The Y slot waits at a phaser for a target, and goes on when its wait has been satisfied (R227, R229); a wait already met goes on at
once. -/
def State.phaseWait (s : State) (f : Phaser) (t : BitVec 16) (go : State → State) : State :=
  if f.met t then go s
  else
    let w : PWait := { core := s.cur.core, ctx := s.cur.ctx, target := t }
    ((s.modDie (objDie f.obj) (fun d => { d with phasers := mapIf (fun g => g.obj == f.obj) (fun g => { g with waits := g.waits ++ [w] }) d.phasers })).modIss
      (fun i => { i with phase := some f.obj })).attach

/-- A Y slot that waits at a phaser looks whether its wait has been satisfied: `none` where it makes no wait. -/
def State.phaseDone (s : State) : Option (Bool × State) :=
  match s.iss.phase with
  | none => none
  | some obj =>
    match s.phaser obj with
    | none => some (false, s)
    | some f =>
      if f.waits.any (fun w => w.core == s.cur.core && w.ctx == s.cur.ctx && w.met) then
        some (true, (s.dropPhaseWaits s.cur).modIss (fun i => { i with phase := none }))
      else some (false, s)

/-- The member's signal (R229). -/
def State.signal (s : State) (b : BitVec 6) : State := s.phaserOp (hObj (s.handle b)) (fun f => f.signalled s.cur.core b)

/-- A handle that is invalid, or whose mode lacks the capability (R51, R229). -/
def State.handleLacks (s : State) (b : BitVec 6) (ok : Nat → Bool) : Bool := s.handleBad b || !ok (hMode (s.handle b))

/-- The phaser and the member of a handle, or the footprint fault (R51, R229). -/
def State.member (s : State) (b : BitVec 6) (ok : Nat → Bool) : Option (Phaser × Member) :=
  if s.handleLacks b ok then none
  else match s.phaser (hObj (s.handle b)) with
    | none => none
    | some f => (f.members.find? (fun m => m.isAt s.cur.core b)).map (fun m => (f, m))

/-- Release and signal of a member (R229, R230), then what follows. -/
def State.releaseSignal (s : State) (b : BitVec 6) (go : State → State) : State :=
  match s.signalRelease b with
  | .error s => s.attach
  | .ok s => go (s.signal b)

/-- Release of a member at another die's phaser (R230), then the request that signals; `psw` keeps its target. -/
def State.farSignal (s : State) (b : BitVec 6) (target : Option (BitVec 16)) : State :=
  match s.signalRelease b with
  | .error s => s.attach
  | .ok s => (s.modIss (fun i => { i with target := target })).farAsk 4 0 2 b (s.handle b) 0

/-- P and m as a query of another die's phaser gave them (R231). -/
def viewP (v : Word) : BitVec 16 := v.extractLsb' 0 16
def viewM (v : Word) : BitVec 16 := v.extractLsb' 16 16

/-- `psig` at another die's phaser (R229): query, wait for m = P, release, signal. -/
def State.farPsig (s : State) (b : BitVec 6) : State :=
  match s.farEnd with
  | .idle => s.farAsk 3 0 1 b (s.handle b) 0
  | .waits => if s.iss.phase.isSome then s.attach else s.hold
  | .bad c => s.farClear.takeTrap c 0
  | .got stage st v =>
    if stage = 2 then s.farClear
    else if st = 1 then s.farClear.takeTrap 0x0601 0
    else if stage = 3 || viewM v = viewP v then s.farSignal b none
    else s.farAsk 5 0 3 b (s.handle b) (viewM v)

/-- `pwait` at another die's phaser (R229). -/
def State.farPwait (s : State) (b : BitVec 6) (t : BitVec 16) : State :=
  match s.farEnd with
  | .idle => s.farAsk 5 0 3 b (s.handle b) t
  | .waits => s.attach
  | .bad c => s.farClear.takeTrap c 0
  | .got _ st _ => if st = 1 then s.farClear.takeTrap 0x0601 0 else s.farClear.waitAcquire b

/-- `psw` at another die's phaser (R229): query, release and signal unless it has signalled, wait. -/
def State.farPsw (s : State) (b : BitVec 6) : State :=
  match s.farEnd with
  | .idle => match s.iss.target with
    | some t => s.farAsk 5 0 3 b (s.handle b) t
    | none => s.farAsk 3 0 1 b (s.handle b) 0
  | .waits => if s.iss.phase.isSome then s.attach else s.hold
  | .bad c => s.farClear.takeTrap c 0
  | .got stage st v =>
    if stage = 3 then (if st = 1 then s.farClear.takeTrap 0x0601 0 else s.farClear.waitAcquire b)
    else if stage = 2 then s.farAsk 5 0 3 b (s.handle b) (s.iss.target.getD 0)
    else if st = 1 then s.farClear.takeTrap 0x0601 0
    else
      let wait (t : BitVec 16) : State := (s.modIss (fun i => { i with target := some t })).farAsk 5 0 3 b (s.handle b) t
      if st = 3 then wait (v.extractLsb' 48 16)
      else if viewM v = viewP v then s.farSignal b (some (viewM v + 1))
      else wait (viewM v)

/-- `psig` (R229): it waits for m = P, which is the wait for target m. -/
def execPsig (b : BitVec 6) (s : State) : Out :=
  let ok : Nat → Bool := fun m => m == 0 || m == 2
  if s.far b && !s.handleLacks b ok then .next (s.farPsig b)
  else match s.phaseDone with
  | some (false, s) => .next s.attach
  | r =>
    let s := match r with | some (_, s) => s | none => s
    match s.member b ok with
    | none => .next (s.takeTrap 0x0601 0)
    | some (f, m) => .next (if m.m = f.p then s.releaseSignal b id else s.phaseWait f m.m id)

/-- `pwait` (R229). -/
def execPwait (t : BitVec 5) (b : BitVec 6) (s : State) : Out :=
  let ok : Nat → Bool := fun m => m == 1 || m == 2
  if s.far b && !s.handleLacks b ok then .next (s.farPwait b ((s.rs t).extractLsb' 0 16))
  else match s.phaseDone with
  | some (true, s) => .next (s.waitAcquire b)
  | some (false, s) => .next s.attach
  | none =>
    match s.member b ok with
    | none => .next (s.takeTrap 0x0601 0)
    | some (f, _) => .next (s.phaseWait f ((s.rs t).extractLsb' 0 16) (fun s => s.waitAcquire b))

/-- The wait of `psw` for its target (R229). -/
def State.pswWait (s : State) (b : BitVec 6) (t : BitVec 16) : State :=
  let s := s.modIss (fun i => { i with target := some t })
  match s.phaser (hObj (s.handle b)) with
  | none => s.attach
  | some f => s.phaseWait f t (fun s => s.waitAcquire b)

/-- The member of a handle keeps no target any more. -/
def State.forgetOwed (s : State) (b : BitVec 6) : State :=
  let obj := hObj (s.handle b)
  let drop (f : Phaser) : Phaser := { f with members := mapIf (fun m => m.isAt s.cur.core b) (fun m => { m with owed := none }) f.members }
  s.modDie (objDie obj) (fun d => { d with phasers := mapIf (fun f => f.obj == obj) drop d.phasers })

/-- `psw` (R229): one that has signalled only waits. -/
def execPsw (b : BitVec 6) (s : State) : Out :=
  let ok : Nat → Bool := fun m => m == 2
  if s.far b && !s.handleLacks b ok then .next (s.farPsw b)
  else match s.phaseDone with
  | some (true, s) => .next (s.waitAcquire b)
  | some (false, s) => .next s.attach
  | none =>
    match s.member b ok with
    | none => .next (s.takeTrap 0x0601 0)
    | some (f, m) =>
      match (match s.iss.target with | some t => some t | none => m.owedBy s.cx.t.trc.tid) with
      | some t => .next ((s.forgetOwed b).pswWait b t)
      | none => .next (if m.m = f.p then s.releaseSignal b (fun s => s.pswWait b (m.m + 1)) else s.pswWait b m.m)

/-- `pquery` (R231). -/
def execPquery (d : BitVec 5) (b : BitVec 6) (s : State) : Out := .next (s.wg d (s.handle b))
/-- `pquery.phase` (R231). -/
def execPqueryPhase (d : BitVec 5) (b : BitVec 6) (s : State) : Out :=
  if s.far b && !s.handleBad b then
    match s.farEnd with
    | .idle => .next (s.farAsk 3 0 1 b (s.handle b) 0)
    | .waits => .next s.hold
    | .bad c => .next (s.farClear.takeTrap c 0)
    | .got _ st v => .next (if st = 1 then s.farClear.takeTrap 0x0601 0 else s.farClear.wg d (v &&& maskFrom 0 48))
  else match s.member b (fun _ => true) with
  | none => .next (s.takeTrap 0x0601 0)
  | some (f, m) => .next (s.wg d (f.view m))

/-- What an operation of an agent outside the domain's cores does at a sync engine (R227; DESIGN CHOICE, log 26): its members carry no core of the
model. -/
def State.outsideOp (s : State) (obj : Nat) (op : PhaserOp) : State :=
  let far : Nat := 2 ^ 20
  match op with
  | .register mode =>
    s.phaserOp obj (fun f =>
      if f.members.length ≥ 65535 then f else { f with members := f.members ++ [{ core := far, h := 0, mode := mode, m := f.p }] })
  | .drop mode m =>
    s.phaserOp obj (fun f =>
      match findIdx (fun x : Member => x.core == far && x.mode == mode && x.m.toNat == m) 0 f.members with
      | some (i, _) => { f with members := f.members.eraseIdx i }
      | none => f)
  | .signal mode m =>
    s.phaserOp obj (fun f =>
      if f.p.toNat ≠ m then f
      else match findIdx (fun x : Member => x.core == far && x.mode == mode && x.m.toNat == m) 0 f.members with
        | some (i, x) => { f with members := setAt f.members i { x with m := x.m + 1 } }
        | none => f)
  | .query => s

/-- SYNC_PHASER_OP (R218, R227, R383): the first SYNC packet for the phaser that has come to the die is taken, a request by the engine, a reply by its context;
with none, the operation is one of an agent outside the domain's cores (log 26). -/
def execSyncPhaserOp (die obj : Nat) (op : PhaserOp) (s : State) : Out :=
  match s.syncNext die obj with
  | some (p, s) =>
    if syncAsks p || p.bad then .next (s.syncArrive die p)
    else match s.arrive die p with
      | .error s => .next s
      | .ok s => .next ((s.syncTake p).reply die p 0x11 [])
  | none => .next (if objDie obj ≠ die then s else s.outsideOp obj op)

/-! ## Wait on address (R232) -/

/-- The completion of a `waita` with status 0: the acquire of the whole data cache. -/
def State.waitaDone (s : State) (d : BitVec 5) : State := (s.wg d 0).acquireCore s.cur.core

/-- `waita` (R232). -/
def execWaita (a v d : BitVec 5) (s : State) : Out :=
  let ea := s.rs a
  let mine (w : Watch) : Bool := w.core == s.cur.core && w.ctx == s.cur.ctx
  let cl := coreCluster s.cur.core
  match s.watches.find? mine with
  | some w =>
    if w.fired then .next (State.waitaDone { s with watches := s.watches.filter (fun w => !mine w) } d) else .next s.hold
  | none =>
    match s.stackBad a [(0, ea)] with
    | some (k, x) => .next (s.takeTrap k x)
    | none =>
      if ea.toNat % 8 ≠ 0 then .next (s.takeTrap 0x0801 ea)
      else match s.xlElem .rd 8 ea with
        | .error (k, x) => .next (s.takeTrap k x)
        | .ok t =>
          if !(t.rc == .scratch || t.rc == .cluster || t.rc == .ordinary) then .next (s.takeTrap 0x0501 (faultVa ea 0))
          else if s.poisoned t.loc 8 then .next (s.takeTrap (if t.rc == .ordinary then 0x0F02 else 0x0F01) (faultVa ea 0))
          else
            let s := s.tlbFill s.xc (vaOf ea)
            let x := wordOf (s.bytesAt t.loc 8)
            if x ≠ s.rs v then .next (s.waitaDone d)
            else if (s.watches.filter (fun w => w.cluster == cl)).length ≥ 64 then .next (s.wg d 1)
            else .next (State.hold { s with watches := s.watches ++ [{ cluster := cl, core := s.cur.core, ctx := s.cur.ctx, addr := t.loc, val := s.rs v }] })

end Sys2Proof.Machine
end

