-- ==== Sys2Proof/Machine/Drift.lean ====
section
/-! DEFINITION. Drift: the instructions (R233 to R235) and the memory-slice engines (R277 to R287). -/

namespace Sys2Proof.Machine

/-! ## Matching (R233) -/

/-- The slice a tag chooses (R279). -/
def sliceOf (desc : Word) (tag : Word) : Nat :=
  (List.range 16).foldl (fun x i => x ^^^ bits tag (4 * i + 3) (4 * i)) (bits desc 47 44)

/-- A tuple matches a key under a mode (R233). -/
def tupleMatch (key : List Word) (mode : Nat) (t : List Word) : Bool :=
  (List.range 8).all (fun w =>
    let a := wd t w
    let k := wd key w
    match nbits mode (2 * w + 1) (2 * w) with
    | 0 => true
    | 1 => a == k
    | 2 => a ≤ k
    | _ => k ≤ a)

/-! ## The slice (R281 to R285) -/

/-- Replace a slice. -/
def Die.setSlice (d : Die) (n : Nat) (sl : Slice) : Die := { d with slices := SMap.put d.slices n sl }

/-- The capacity of a region per slice (R278). -/
def Die.driftCap (d : Die) (rgn : Nat) : Nat := bits (wd (SMap.get [] d.driftR rgn) 0) 19 0 + 1
/-- A slice holds as many tuples of a region as it may (R279). -/
def Slice.isFull (sl : Slice) (rgn cap : Nat) : Bool := cap ≤ (sl.tuples.filter (fun t => t.rgn == rgn)).length

/-- Reply to a request (R284, R285). -/
def Slice.say (sl : Slice) (r : DReq) (status : Nat) (x : List Word) : Slice := { sl with outbox := sl.outbox ++ [(r, .drift status x)] }

/-- Park a request, or answer that the table is full (R283). -/
def Slice.park (sl : Slice) (r : DReq) : Slice :=
  if sl.parked.length ≥ 256 then sl.say r 2 []
  else { sl with parked := sl.parked ++ [{ r with pnum := sl.pnum, park := true }], pnum := sl.pnum + 1 }

/-- An entry was parked before another (R280). -/
def DReq.before (a b : DReq) : Bool := decide (sext (wrap ((a.pnum.toNat : Int) - b.pnum.toNat) 32) 32 < 0)
/-- Put an entry among others by park number, after those that are not later. -/
def insertPark (r : DReq) : List DReq → List DReq
  | [] => [r]
  | q :: t => if r.before q then r :: q :: t else q :: insertPark r t
/-- Entries in park order (R280). -/
def parkOrder (l : List DReq) : List DReq := l.foldl (fun m r => insertPark r m) []

/-- Deposit(G, x) (R284): the slice, and whether x is placed. -/
def Slice.deposit (sl : Slice) (rgn cap : Nat) (x : List Word) : Slice × Bool :=
  let w := (parkOrder sl.parked).filter (fun r => r.rgn == rgn && r.kind != 2 && tupleMatch r.tuple r.mode x)
  let k := w.find? (fun r => r.kind == 1)
  let c := w.takeWhile (fun r => r.kind != 1)
  if k.isNone && sl.isFull rgn cap then (sl, false)
  else
    let free (sl : Slice) (r : DReq) : Slice := { sl with parked := sl.parked.filter (fun q => q != r) }
    let sl := c.foldl (fun sl r => (free sl r).say r 0 x) sl
    match k with
    | some r => ((free sl r).say r 0 x, true)
    | none => ({ sl with tuples := sl.tuples ++ [⟨rgn, x, sl.age⟩], age := sl.age + 1 }, true)

/-- Room(G) (R284): parked deposits in park order while the region is not full. -/
def Slice.room (rgn cap : Nat) : Nat → Slice → Slice
  | 0, sl => sl
  | n + 1, sl =>
    match (parkOrder sl.parked).find? (fun r => r.rgn == rgn && r.kind == 2) with
    | none => sl
    | some d =>
      if sl.isFull rgn cap then sl
      else
        let sl := { sl with parked := sl.parked.filter (fun q => q != d) }
        Slice.room rgn cap n ((sl.deposit rgn cap d.tuple).1.say d 0 [])

/-- The stored tuple of least age that a request matches (R284); tuples stand in order of age. -/
def Slice.oldest (sl : Slice) (r : DReq) : Option Tuple := sl.tuples.find? (fun t => t.rgn == r.rgn && tupleMatch r.tuple r.mode t.words)

/-- A copy or take served (R284). -/
def Slice.fetch (sl : Slice) (r : DReq) (cap : Nat) : Slice :=
  match sl.oldest r with
  | some t =>
    if r.kind = 1 then
      let sl := ({ sl with tuples := sl.tuples.filter (fun u => u.age != t.age) }).say r 0 t.words
      Slice.room r.rgn cap 256 sl
    else sl.say r 0 t.words
  | none => if r.park then sl.park r else sl.say r 1 []

/-- A deposit served (R284). -/
def Slice.put (sl : Slice) (r : DReq) (cap : Nat) : Slice :=
  match sl.deposit r.rgn cap r.tuple with
  | (sl, true) => sl.say r 0 []
  | (sl, false) => if r.park then sl.park r else sl.say r 3 []

/-- The region descriptor refuses a request (R282). -/
def Die.noRegion (d : Die) (r : DReq) : Bool :=
  let w := wd (SMap.get [] d.driftR r.rgn) 0
  !bit w 63 || bits w 57 48 ≠ r.job

/-! ## Requests and replies as packets (R233 to R235, R283) -/

/-- An entry of the parked-request table (R283): 128 bytes. -/
def DReq.bytes (r : DReq) : List Byte :=
  padTo 128 (((range 0 8).flatMap (fun i => bytesOf 8 (wd r.tuple i).toNat)) ++
    bytesOf 8 (r.mode % 2 ^ 16 * 2 ^ 48 + r.kind % 4 * 2 ^ 40 + r.rgn % 2 ^ 12 * 2 ^ 28 + r.job % 2 ^ 10 * 2 ^ 18) ++
    bytesOf 8 (r.pnum.toNat * 2 ^ 32 + r.core / 128 % 256 * 2 ^ 24 + coreId r.core 0 % 512 * 2 ^ 15 + r.ctx % 2 * 2 ^ 14 + r.scope % 8 * 2 ^ 11) ++
    bytesOf 8 (r.fseq % 2 ^ 12 * 2 ^ 40))
/-- The entry that 128 bytes spell. -/
def DReq.ofEntry (b : List Byte) : DReq :=
  let w (i : Nat) : Word := wordOf (slice b (8 * i) 8)
  { kind := bits (w 8) 41 40, park := true, rgn := bits (w 8) 39 28, job := bits (w 8) 27 18, tuple := (range 0 8).map w, mode := bits (w 8) 63 48,
    core := bits (w 9) 31 24 * 128 + bits (w 9) 20 15, ctx := bits (w 9) 14 14, scope := bits (w 9) 13 11, fseq := bits (w 10) 51 40,
    pnum := BitVec.ofNat 32 (bits (w 9) 63 32) }

/-- A DRIFT request packet (R233): OP 0x08 on VC6, of 80 bytes: words 0 to 9 of the entry it may become (R283), with PNUM zero and the parking form
in w8 [0] (DESIGN CHOICE, log 76). -/
def DReq.packet (r : DReq) (home : Nat) : Packet :=
  let b := { r with pnum := 0 }.bytes
  { op := 8, job := r.job, offs := 0, steer := false, vc := 6, seq := 0, dst := home, src := r.core / 128, rkey := 0,
    payload := b.take 64 ++ bytesOf 8 (ofBytes (slice b 64 8) + b2n r.park) ++ slice b 72 8 }
/-- The request of a packet. -/
def driftReq (p : Packet) : DReq :=
  { DReq.ofEntry p.payload with park := bit (wordOf (slice p.payload 64 8)) 0, fseq := p.seq, job := p.job, core := p.source * 128 + bits (wordOf (slice p.payload 72 8)) 20 15 }
/-- A DRIFT packet is a request. -/
def driftAsks (p : Packet) : Bool := p.op == 8 && p.payload.length == 80

/-- A DRIFT reply packet (R234, R285; DESIGN CHOICE, log 76): [7:0] status, [15:8] fault kind or 0, [27:16] FSEQ, [28] context, [37:29] core ID,
[41:38] slice; then the tuple of status 0. -/
def driftSays (r : DReq) (die slice : Nat) (a : Resp) : Packet :=
  let (st, k, x) := match a with | .drift n x => (n, 0, x) | .driftFault k => (0, k, []) | _ => (0, 0, [])
  { op := 8, job := r.job, offs := 0, steer := false, vc := 6, seq := 0, dst := r.core / 128, src := die, rkey := 0,
    payload := bytesOf 8 (st % 256 + k % 256 * 2 ^ 8 + r.fseq % 2 ^ 12 * 2 ^ 16 + r.ctx % 2 * 2 ^ 28 + coreId r.core 0 % 512 * 2 ^ 29 + slice % 16 * 2 ^ 38) ++
               x.flatMap (fun w => bytesOf 8 w.toNat) }
/-- What a reply packet says. -/
def driftResp (p : Packet) : Resp :=
  let w := wordOf (p.payload.take 8)
  if bits w 15 8 = 0 then .drift (bits w 7 0) (wordsOf ((p.payload.length - 8) / 8) (p.payload.drop 8)) else .driftFault (bits w 15 8)

/-- A packet that has come to its die stands first among those of its source, destination and channel. -/
def State.first (s : State) (p : Packet) : Bool :=
  p.at_ == p.dst && p.out == 8 && s.net.find? (fun q => q.source == p.source && q.dst == p.dst && q.vc == p.vc && q.at_ == p.dst && q.out == 8) == some p

/-- The order of requests that reach a slice in one cycle (R281): source die, core, context. -/
def insertReq (r : DReq) : List DReq → List DReq
  | [] => [r]
  | q :: t => if r.core * 2 + r.ctx < q.core * 2 + q.ctx then r :: q :: t else q :: insertReq r t

/-- The slice that a request goes to (R279). -/
def Die.sliceFor (d : Die) (r : DReq) : Nat := sliceOf (wd (SMap.get [] d.driftR r.rgn) 0) (wd r.tuple 0)

/-- The access of a Drift request under a remote key (R332, R393). -/
def DReq.acc (r : DReq) : Acc := match r.kind with | 0 => .rd | 1 => .at | _ => .wr

/-- The packets of one cycle for a slice among those that stand at a die (R281): the first, and others as they may come, no packet before an earlier one of its
source; `off` lists the sources that send no more in the cycle. -/
def pickCycle (isIt elsewhere : Packet → Bool) : List Nat → List Packet → Nat → List Packet → List Packet
  | _, now, _, [] => now
  | off, now, n, p :: t =>
    if elsewhere p then pickCycle isIt elsewhere off now n t
    else if off.contains p.source then pickCycle isIt elsewhere off now n t
    else if isIt p && (now.isEmpty || n % 2 == 1) then pickCycle isIt elsewhere off (now ++ [p]) (if now.isEmpty then n else n / 2) t
    else pickCycle isIt elsewhere (p.source :: off) now (if isIt p then n / 2 else n) t

/-- A request that has reached its slice (R218, R281, R391, R393): acknowledged, in the inbox in its order; a duplicate is answered from the reply cache. -/
def State.reachOne (s : State) (die slice : Nat) (p : Packet) : State :=
  match s.arrive die p with
  | .error s => s
  | .ok s => match (if p.rkey = 0 then .ok 0 else s.keyCheck die p.rkey p.job p.offs 64 (driftReq p).acc) with
    | .error r => s.nack die p r
    | .ok _ => (s.modDie die (fun d => { d with slices := SMap.upd {} d.slices slice (fun sl => { sl with inbox := insertReq (driftReq p) sl.inbox }) })).reply die p 0x11 []

/-- The requests of one cycle reach a slice (R218, R281). -/
def State.reach (s : State) (die slice : Nat) : State :=
  let d := s.die die
  let isIt (p : Packet) : Bool :=
    driftAsks p && (p.bad || d.sliceFor (driftReq p) == slice) && (!d.deaf p.job || d.closed.contains p.job)
  let now := pickCycle isIt (fun p => !(p.at_ == die && p.dst == die && p.out == 8 && p.vc == 6)) [] [] (Config.arrivals s.fresh) s.net
  let s : State := { s with net := s.net.filter (fun p => !now.contains p), fresh := s.fresh + 1 }
  now.foldl (fun s p => s.reachOne die slice p) s

/-- A slice serves the request at the head of its inbox, if it is of the kind named (R281, R282, R284); an empty inbox takes in what reaches the
slice first. -/
def State.sliceServe (s : State) (die slice : Nat) (kind : Nat) : State :=
  let s := if (SMap.get {} (s.die die).slices slice).inbox.isEmpty && s.net.any driftAsks then s.reach die slice else s
  s.modDie die (fun d =>
    let sl := SMap.get {} d.slices slice
    match sl.inbox with
    | [] => d
    | r :: rest =>
      if r.kind ≠ kind then d
      else
        let sl := { sl with inbox := rest }
        let cap := d.driftCap r.rgn
        let sl := if d.noRegion r then { sl with outbox := sl.outbox ++ [(r, .driftFault 2)] }
                  else if kind = 2 then sl.put r cap else sl.fetch r cap
        { d with slices := SMap.put d.slices slice sl })

/-- SLICE_COPY (R284). -/
def execSliceCopy (die slice : Nat) (s : State) : Out := .next (s.sliceServe die slice 0)
/-- SLICE_TAKE (R284). -/
def execSliceTake (die slice : Nat) (s : State) : Out := .next (s.sliceServe die slice 1)
/-- SLICE_DEPOSIT (R284). -/
def execSliceDeposit (die slice : Nat) (s : State) : Out := .next (s.sliceServe die slice 2)

/-- A context whose Drift request is withdrawn sends it again when its bundle goes on (R217). -/
def State.unsend (s : State) (r : DReq) : State :=
  s.modCtxAt ⟨r.core, r.ctx⟩ (fun c => { c with held := c.held.map (fun i => { i with sent := false, att := false, req := none }) })

/-- Withdraw the parked entry of a number (R286); nothing where it has been served. -/
def State.withdraw (s : State) (die slice pnum : Nat) : State :=
  let sl := SMap.get {} (s.die die).slices slice
  match sl.parked.find? (fun r => r.pnum.toNat == pnum) with
  | none => s
  | some r => (s.modDie die (fun d => { d with slices := SMap.put d.slices slice { sl with parked := sl.parked.filter (fun q => q != r) } })).unsend r

/-- SLICE_WITHDRAW (R286). -/
def execSliceWithdraw (die slice pnum : Nat) (s : State) : Out := .next (s.withdraw die slice pnum)

/-- REGION_DESTROY (R287): tuples go, parked requests end with the fault, the descriptor is no longer valid. -/
def execRegionDestroy (die rgn : Nat) (s : State) : Out :=
  .next (s.modDie die (fun d =>
    let slice (e : Nat × Slice) : Nat × Slice :=
      let sl := e.2
      let gone := sl.parked.filter (fun r => r.rgn == rgn)
      (e.1, { sl with tuples := sl.tuples.filter (fun t => t.rgn != rgn), parked := sl.parked.filter (fun r => r.rgn != rgn),
                      outbox := sl.outbox ++ gone.map (fun r => (r, .driftFault 3)) })
    let desc := SMap.get [] d.driftR rgn
    { d with slices := d.slices.map slice, driftR := SMap.put d.driftR rgn ((wd desc 0 &&& ~~~(w64 (2 ^ 63))) :: desc.drop 1) }))

/-- A reply reaches the context whose request it answers (R234, R285, R359): its core, context and, where it sent the request itself, its FSEQ. -/
def State.driftTake (s : State) (p : Packet) : State :=
  let w := wordOf (p.payload.take 8)
  let mine (i : Iss) : Bool := i.sent && (match i.req with | some (d, vc, n) => d == p.src && vc == 6 && n == bits w 27 16 | none => true)
  s.modCtxAt ⟨p.dst * 128 + bits w 34 29, bits w 28 28⟩ (fun c => { c with held := c.held.map (fun i =>
    if mine i then { i with req := none, resp := some (driftResp p) } else i) })

/-- DRIFT_REPLY (R234, R235, R285): a reply of this slice number that has come to the die reaches its context; with none there, the slice sends its
first reply, which its die's reply cache keeps for the request's FSEQ. A full replay window holds it back (R390). -/
def execDriftReply (die slice : Nat) (s : State) : Out :=
  let isIt (p : Packet) : Bool :=
    p.op == 8 && !driftAsks p && p.dst == die && s.first p && (p.bad || bits (wordOf (p.payload.take 8)) 41 38 == slice) &&
    (!(s.die die).deaf p.job || (s.die die).closed.contains p.job)
  match s.pick isIt with
  | some (p, s) => match s.arrive die p with
    | .error s => .next s
    | .ok s => .next ((s.driftTake p).reply die p 0x11 [])
  | none =>
    let sl := SMap.get {} (s.die die).slices slice
    match sl.outbox with
    | [] => .next s
    | (r, a) :: rest =>
      match s.sendReq die (driftSays r die slice a) (5, die, slice) with
      | none => .next s
      | some (s, n) =>
        .next (s.modDie die (fun d =>
          (d.keepReply (r.core / 128) 6 r.fseq { driftSays r die slice a with seq := n }).setSlice slice { sl with outbox := rest }))

/-! ## The instructions (R233 to R235) -/

/-- The words of the tuple or key in lanes 0 to 15 of a row (R233). -/
def State.driftWords (s : State) (v : BitVec 6) : List Word :=
  let l := s.rowS v.toNat
  (List.range 8).map (fun w => w64 ((l.getD (2 * w) 0).toNat + (l.getD (2 * w + 1) 0).toNat * 2 ^ 32))

/-- Write a tuple to lanes 0 to 15 of a row (R234). -/
def State.driftWrite (s : State) (v : BitVec 6) (x : List Word) : State :=
  (List.range 8).foldl (fun s w =>
    (s.setLane v.toNat (2 * w) ((wd x w).extractLsb' 0 32)).setLane v.toNat (2 * w + 1) ((wd x w).extractLsb' 32 32)) s

/-- A Drift instruction (R233 to R235): kind 0 copy, 1 take, 2 deposit. It sends its request once, as a packet with a sequence number (R218), and
waits for the reply. A copy needs R of the page, a deposit W, a take both (R332). -/
def State.drift (s : State) (kind : Nat) (park : Bool) (a : BitVec 5) (v : BitVec 6) (m : BitVec 5) (scope : BitVec 3) : State :=
  let clear (s : State) : State := s.modIss (fun i => { i with sent := false, resp := none, att := false, req := none })
  match s.iss.resp with
  | some (.driftFault k) => (clear s).takeTrap (0x0B00 + k) 0
  | some (.nack r) => (clear s).takeTrap (nackCause r) (faultVa (s.rs a) 0)
  | some (.drift st x) =>
    let acq := kind ≠ 2 && st = 0
    let fenced : Except State State := if acq then s.fenceAt scope.toNat false true else .ok s
    (match fenced with
     | .error s => s.hold
     | .ok s => (clear (if acq then s.driftWrite v x else s)).wg m (w64 st))
  | _ =>
    if s.iss.sent then (if s.iss.att then s.attach else s.hold)
    else
      let ea := s.rs a
      match s.stackBad a [(0, ea)] with
      | some (k, x) => s.takeTrap k x
      | none => match s.xlateEa s.xc ea (match kind with | 0 => .rd | 1 => .at | _ => .wr) with
        | .error c => s.takeTrap c (faultVa ea 0)
        | .ok t =>
          let mode := if kind = 2 then 0 else bits (s.rs m) 15 0
          if t.rc != .drift then s.takeTrap 0x0501 (faultVa ea 0)
          else if kind ≠ 2 && mode % 4 ≠ 1 then s.takeTrap 0x0B01 0
          else
            let fenced : Except State State := if kind = 2 then s.fenceAt scope.toNat true false else .ok s
            match fenced with
            | .error s => s.hold
            | .ok s =>
              let s := s.tlbFill s.xc (vaOf ea)
              let r : DReq := { kind := kind, park := park, rgn := t.rkey, job := s.xc.job, tuple := s.driftWords v, mode := mode, core := s.cur.core,
                                ctx := s.cur.ctx, scope := scope.toNat }
              match s.sendReq (coreDie s.cur.core) (r.packet t.aux) (0, s.cur.core, s.cur.ctx) with
              | none => s.hold
              | some (s, n) =>
                let s := s.modIss (fun i => { i with sent := true, req := some (t.aux, 6, n) })
                if park then s.attach else s.hold

/-- `tdep` (R234). -/
def execTdep (a : BitVec 5) (v : BitVec 6) (m : BitVec 5) (sc : BitVec 3) (s : State) : Out := .next (s.drift 2 false a v m sc)
/-- `tdep.park` (R234). -/
def execTdepPark (a : BitVec 5) (v : BitVec 6) (m : BitVec 5) (sc : BitVec 3) (s : State) : Out := .next (s.drift 2 true a v m sc)
/-- `tcopy` (R234). -/
def execTcopy (a : BitVec 5) (v : BitVec 6) (m : BitVec 5) (sc : BitVec 3) (s : State) : Out := .next (s.drift 0 false a v m sc)
/-- `tcopy.park` (R234). -/
def execTcopyPark (a : BitVec 5) (v : BitVec 6) (m : BitVec 5) (sc : BitVec 3) (s : State) : Out := .next (s.drift 0 true a v m sc)
/-- `ttake` (R234). -/
def execTtake (a : BitVec 5) (v : BitVec 6) (m : BitVec 5) (sc : BitVec 3) (s : State) : Out := .next (s.drift 1 false a v m sc)
/-- `ttake.park` (R234). -/
def execTtakePark (a : BitVec 5) (v : BitVec 6) (m : BitVec 5) (sc : BitVec 3) (s : State) : Out := .next (s.drift 1 true a v m sc)

end Sys2Proof.Machine
end

