-- ==== Sys2Proof/Machine/Collective.lean ====
section
/-! DEFINITION. Communicators and collective work (R208, R210, R288 to R303), WF48 reductions (R80 to R84). -/

namespace Sys2Proof.Machine

/-! ## Backing and staging areas (R288 to R290) -/

/-- The home of a byte of a member's backing area (R288, R289). -/
def Comm.home (c : Comm) (die off : Nat) : Nat := homePa (die / 8) (die % 8 * 2 ^ 45 + bits (c.w 2) 55 0 + off)
/-- The home of a member's staging area (R288, R289). -/
def Comm.stage (c : Comm) (die : Nat) : Nat := homePa (die / 8) (die % 8 * 2 ^ 45 + bits (c.w 3) 55 0)

/-- A handle that is malformed (R290). -/
def State.qphBad (s : State) (h : Word) (job : Nat) : Bool :=
  let c := s.comm (coreDie s.cur.core) (job * 256 + bits h 39 32)
  !bit h 63 || bits h 62 58 ≠ 0 || bits h 47 40 ≠ 0 || bits h 31 4 ≠ 0 || !c.valid || bits (c.w 0) 57 48 ≠ job

/-! ## WF48 (R80 to R84) -/

/-- ExpOf of a contribution (R80); −126 for zero and for what is not finite. -/
def wfExp (x : Wide) : Int :=
  match x with
  | .fin _ m e => if m = 0 then -126 else max (-126) ((ilog2 m : Int) + e + 1)
  | _ => -126

/-- One contribution on the grid of E (R81): q, and whether it saturated, and whether it is a NaN or infinite. -/
def wfQ (e : Int) (x : Wide) : Int × Bool × Bool :=
  match x with
  | .fin neg m ex =>
    let n : Int := (roundQ m ex (e - 38) false).1
    let v := if neg then -n else n
    let r := sat v (-(2 ^ 39 - 1)) (2 ^ 39 - 1)
    (r, r ≠ v, false)
  | _ => (0, false, true)

/-- The wire bytes of a block (R82). -/
def wfBytes (eb : Nat) (qs : List (Int × Bool × Bool)) : List Byte :=
  bytesOf 8 (eb + b2n (qs.any (·.2.2)) * 2 ^ 8 + b2n (qs.any (·.2.1)) * 2 ^ 9) ++ qs.flatMap (fun q => bytesOf 6 (wrap q.1 48))

/-- The result of element i of a complete block (R84), with the flags of R67. -/
def Partial.result (p : Partial) (i : Nat) : List Byte × Flags :=
  if p.pois then (bytesOf 4 (fnan .f32), fNV)
  else
    let v := p.q.getD i 0
    let (c, f) := encFmt 0x0A (.fin (decide (v < 0)) v.natAbs ((p.eb : Int) - 127 - 38))
    (bytesOf 4 c, f)

/-- Combine one block of a rank into the staging area (R83). A header with EB 0x00 or a reserved bit is malformed (R4, R82). -/
def Comm.combine (c : Comm) (qp seq block rank : Nat) (bs : List Byte) : Comm :=
  let h := ofBytes (bs.take 8)
  let bad := h % 256 == 0 || h / 2 ^ 10 != 0
  let q : List Int := (List.range 32).map (fun i => sext (ofBytes (slice bs (8 + 6 * i) 6)) 48)
  let isIt (p : Partial) : Bool := p.qp == qp && p.seq == seq && p.block == block
  match c.partials.find? isIt with
  | none =>
    { c with partials := c.partials ++ [{ qp := qp, seq := seq, block := block, from_ := [rank], eb := h % 256, pois := h / 2 ^ 8 % 2 == 1,
                                          ovf := h / 2 ^ 9 % 2 == 1, q := q, bad := bad }] }
  | some p =>
    if p.from_.contains rank then c
    else
      let p' : Partial := { p with from_ := p.from_ ++ [rank], pois := p.pois || h / 2 ^ 8 % 2 == 1, ovf := p.ovf || h / 2 ^ 9 % 2 == 1,
                                   q := (p.q.zip q).map (fun e => e.1 + e.2), bad := p.bad || bad || h % 256 ≠ p.eb }
      { c with partials := mapIf isIt (fun _ => p') c.partials }

/-! ## Entries -/

/-- The number of source elements of an entry. -/
def CEntry.count (e : CEntry) : Nat := e.src.count
/-- The size of a destination element. -/
def CEntry.size (e : CEntry) : Nat := fmtBytes e.dst.fmt
/-- The WF48 blocks of an entry (R80). -/
def CEntry.blocks (e : CEntry) : Nat := (e.count + 31) / 32
/-- The card by whose rules the engine reads and writes for an entry (R198). -/
def CEntry.card (e : CEntry) : Card :=
  { id := 0, ctx := e.ctx, tid := e.tid, job := e.job, asid := e.asid, ptroot := e.ptroot, splo := e.splo, sphi := e.sphi, slim := e.slim,
    taskLevel := e.lvl == 0, op := .copy, src := e.src, dst := e.dst, idx := {}, fill := 0, ken := e.ken, out := e.out, ord := false, k := e.k,
    cw := none, ticket := 0 }

/-- The blocks whose result a rank of n receives (R294): the first, and how many. -/
def CEntry.blocksOf (e : CEntry) (rank n : Nat) : Nat × Nat :=
  match e.dest with
  | 0 => (0, e.blocks)
  | 1 => if rank = e.root then (0, e.blocks) else (0, 0)
  | _ => (rank * (e.blocks / n), e.blocks / n)

/-- The header that matched entries compare (R293). -/
def CEntry.header (e : CEntry) : Nat :=
  e.op + 4 * (e.dest + 4 * (b2n e.sync + 2 * (b2n e.grid + 2 * (b2n e.eba + 2 * (e.root + 256 * (e.eb + 256 * e.count))))))

/-- SEQ as a packet carries it (DEDUCED, log 21). -/
def CEntry.tag (e : CEntry) : Nat := e.seq.getD 0 % 2 ^ 19
/-- RKEY of a packet of a communicator (DEDUCED, log 21): COMM, queue pair, matched, SEQ. -/
def CEntry.rkey (e : CEntry) (key qp : Nat) : Nat := key % 256 + qp * 2 ^ 8 + b2n e.seq.isSome * 2 ^ 12 + e.tag * 2 ^ 13

/-- The entries of a queue pair. -/
def Comm.entries (c : Comm) (qp : Nat) : List CEntry := (SMap.get {} c.qps qp).entries
/-- The entry of a matched collective. -/
def Comm.matched (c : Comm) (qp seq : Nat) : Option CEntry := (c.entries qp).find? (fun e => e.seq.isSome && e.tag == seq && e.ver == c.ver)

/-- The origin of an entry's packets in the replay window (R390). -/
def entryOrigin (key qp no : Nat) : Nat × Nat × Nat := (3, key * 16 + qp, no)
/-- An entry's packets that await their answer. -/
def State.entryOut (s : State) (die key qp no : Nat) : Bool := (s.die die).window.any (fun r => r.origin == entryOrigin key qp no)

/-! ## Failing entries (R198, R295, R341) -/

/-- An entry fails at a member (R295): the fault on its task, the abort elsewhere. -/
def State.failEntry (s : State) (die key qp : Nat) (e : CEntry) (k : Nat) (va : Word) : State :=
  let s := s.modComm die key (fun c => c.finish qp .failed k (fun x => x.no == e.no))
  let s := s.faultTask die e.job e.tid { cause := 0x0A01, addr := va, aux := w64 k } (some (coreId e.core e.ctx))
  match e.seq with
  | some q => s.endElsewhere die key qp q .aborted 6
  | none => s

/-- An entry's access fails, or waits on a poisoned table entry, of which the system core learns once (R341). -/
def State.entryFails (s : State) (die key qp : Nat) (e : CEntry) (b : Nat × Word) : State :=
  if b.1 = 0x0F02 then
    if e.stuck then s
    else (s.event die 5 0x0F02 (some (coreId e.core e.ctx)) e.job b.2 0).modEntry die key qp e.no (fun e => { e with stuck := true })
  else s.failEntry die key qp e b.1 b.2

/-! ## `xcoll` and `xabort` (R208, R210, R291, R292) -/

/-- The fields of a work entry that R291 makes malformed. -/
def workBad (ws : List Word) (n : Nat) : Bool :=
  let w9 := wd ws 9
  let op := bits w9 1 0
  let dest := bits w9 3 2
  bits w9 63 24 ≠ 0 || bit w9 7 || op = 0 || op = 3 || dest = 3 || (dest = 2 && op = 1) || (dest = 1 && bits w9 23 16 ≥ n) ||
  (bit w9 4 && op ≠ 1) || (bit w9 5 && !bit w9 6 && bits w9 15 8 = 0) || bits (wd ws 10) 63 56 ≠ 0 || bits (wd ws 11) 63 56 ≠ 0 ||
  bits (wd ws 11) 4 0 ≠ 0 || (!bit w9 6 && wd ws 10 ≠ 0) || (ws.drop 12).any (· ≠ 0) ||
  (op = 1 && (bit w9 5 || bit w9 6 || bits w9 15 8 ≠ 0))

/-- The shape conditions of R292, for an operation that R291 knows. -/
def collShapesBad (ws : List Word) (src dst : Shape) (n : Nat) : Bool :=
  let w9 := wd ws 9
  match bits w9 1 0 with
  | 1 => src.fmt != dst.fmt || src.count != dst.count
  | 2 =>
    !(src.fmt == 0x0A || src.fmt == 8 || src.fmt == 9) || dst.fmt != 0x0A ||
    (if bits w9 3 2 = 2 then src.count % (32 * n) ≠ 0 || dst.count * n ≠ src.count else dst.count ≠ src.count)
  | _ => false

/-- The first place from `a` to `hi` at which a destination leaves its communicator's window or SIZE, page by page (R292). -/
def State.mcastBad (s : State) (x : XCtx) (comm size : Nat) (hi : Int) : Nat → Int → Option Bad
  | 0, _ => none
  | f + 1, a =>
    if hi < a then none
    else if a < 0 || 2 ^ 56 ≤ a then some (0x0404, w64 (wrap a 64))
    else match s.xlate x a.toNat .wr with
      | .error e => some (e, w64 a.toNat)
      | .ok t =>
        let last := min hi (a - a % 4096 + 4095)
        if t.rc != .mcast || t.aux ≠ comm then some (0x0501, w64 a.toNat)
        else if size ≤ t.loc + (last - a).toNat then some (0x0401, w64 (a.toNat + (size - t.loc)))
        else s.mcastBad x comm size hi f (last + 1)

/-- A byte that stands in another window or page than a source may (R292). One that does not translate fails later (R295). -/
def State.srcBad (s : State) (x : XCtx) (a : Int) : Option Bad :=
  if a < 0 || 2 ^ 56 ≤ a then none
  else match s.xlate x a.toNat .rd with
    | .error _ => none
    | .ok t => if t.rc == .scratch || t.rc == .cluster || t.rc == .ordinary then none else some (0x0501, w64 a.toNat)

/-- The sides of a work entry (R292): every source element in a window or an ordinary page, the whole destination in the multicast window. -/
def State.sidesBad (s : State) (x : XCtx) (comm size : Nat) (src dst : Shape) : Option Bad :=
  let side (n : Nat) : Option Bad := match s.srcBad x (src.elemAddr n) with
    | some b => some b
    | none => s.srcBad x (src.elemAddr n + fmtBytes src.fmt - 1)
  match (range 0 src.count).findSome? side, dst.footprint with
  | some b, _ => some b
  | none, none => none
  | none, some (lo, hi) => s.mcastBad x comm size hi ((hi - lo).toNat / 4096 + 2) lo

/-- `xcoll` (R208, R291, R292). The shape conditions of R292 stand with the shape checks of R208, before the predicate (DEDUCED, log 21). -/
def execXcoll (sh d : BitVec 4) (k g : BitVec 5) (ken out : Bool) (s : State) : Out :=
  match s.entryBytes (s.rs g) 128 with
  | .error (c, a) => .next (s.takeTrap c a)
  | .ok bs =>
    let ws := wordsOf 16 bs
    let h := wd ws 8
    let x := s.xc
    let die := coreDie s.cur.core
    let src := s.rhS sh
    let dst := s.rhS d
    let key := x.job * 256 + bits h 39 32
    let qp := bits h 3 0
    let c := s.comm die key
    if bits h 57 48 ≠ x.job then .next (s.takeTrap 0x0601 0)
    else if src.cardBad || dst.cardBad || (src.rmt && dst.rmt) || collShapesBad ws src dst c.n then .next (s.takeTrap 0x0A02 0)
    else if !dst.wr then .next (s.takeTrap 0x0601 (w64 dst.base))
    else match Pred.parse (ws.take 8) [0, 1, 2] with
      | none => .next (s.takeTrap 0x0A04 0)
      | some pr =>
        if pr.act ≠ 0 || s.qphBad h x.job || workBad ws c.n then .next (s.takeTrap 0x0A06 0)
        else match s.sidesBad x (bits h 39 32) c.size src dst with
          | some (e, a) => .next (s.takeTrap e a)
          | none =>
            let q := SMap.get {} c.qps qp
            if q.entries.length ≥ 64 then .next s.hold
            else
              let w9 := wd ws 9
              let matched := bits w9 1 0 = 2 || bit w9 4
              let tid := s.cx.t.trc.tid
              let e : CEntry :=
                { no := q.next, core := s.cur.core, ctx := s.cur.ctx, tid := tid, job := x.job, asid := x.asid, ptroot := x.ptroot, splo := x.splo,
                  sphi := x.sphi, slim := x.slim, lvl := x.level, ks := .task die x.job tid, src := src, dst := dst, pred := pr,
                  op := bits w9 1 0, dest := bits w9 3 2, root := bits w9 23 16, sync := bit w9 4, grid := bit w9 5, eba := bit w9 6,
                  eb := bits w9 15 8, ebaddr := wd ws 10, reca := wd ws 11, ken := ken, out := out, k := k.toNat, ver := c.ver,
                  seq := if matched then some q.seq else none }
              let s := s.modComm die key (fun c => { c with qps := SMap.upd {} c.qps qp (fun q =>
                { q with entries := q.entries ++ [e], next := q.next + 1, seq := if matched then q.seq + 1 else q.seq }) })
              let s := if ken && out then s.addK k.toNat 1 else s
              .next (s.kChanged die)

/-- `xabort` (R210): g0 disarms the task's triggers; a handle aborts every entry not yet complete on its pair, and the entries
matched with them at every member (R299). Of a handle that is both malformed and not the job's, V and bits [62:58] are looked at first, then
the job, then the other fields (DESIGN CHOICE, log 80: R210 and R290 give no order). -/
def execXabort (g : BitVec 5) (s : State) : Out :=
  let die := coreDie s.cur.core
  let h := s.rs g
  let job := s.xc.job
  if g = 0 then .next (s.modDie die (fun d => { d with trigs := d.trigs.filter (fun t => t.owner != (job, s.cx.t.trc.tid) || t.fired.isSome) }))
  else if bit h 63 && bits h 62 58 = 0 && bits h 57 48 ≠ job then .next (s.takeTrap 0x0601 0)
  else if s.qphBad h job then .next (s.takeTrap 0x0A06 0)
  else .next (s.abortEntries die (job * 256 + bits h 39 32) (bits h 3 0) (fun _ => true))

/-! ## Where an entry writes (R288, R298, R299) -/

/-- The window offset of a byte of an entry's destination, or the job status and the failing VA (R198). -/
def State.collOff (s : State) (key size : Nat) (e : CEntry) (a : Int) : Except (Nat × Word) Nat :=
  if a < 0 || 2 ^ 56 ≤ a then .error (1, w64 (wrap a 64))
  else match s.xlate (e.card.xc e.core) a.toNat .wr with
    | .error k => .error (if k = 0x0F02 then k else 1, w64 a.toNat)
    | .ok t => if t.rc != .mcast || t.aux ≠ key % 256 then .error (2, w64 a.toNat) else if t.loc < size then .ok t.loc else .error (1, w64 a.toNat)

/-- The 32-byte chunks of an entry's destination footprint (R298, R299). -/
def CEntry.nch (e : CEntry) : Nat := match e.dst.footprint with | some (lo, hi) => ((hi - lo).toNat + 32) / 32 | none => 0
/-- The destination elements that meet a chunk. -/
def CEntry.inChunk (e : CEntry) (i : Nat) : List Nat :=
  match e.dst.footprint with
  | none => []
  | some (lo, _) => (range 0 e.dst.count).filter (fun n => e.dst.elemAddr n < lo + 32 * i + 32 && lo + 32 * i < e.dst.elemAddr n + e.size)
/-- The chunks that bytes at a VA lie in. -/
def CEntry.chunksAt (e : CEntry) (va n : Nat) : List Nat :=
  match e.dst.footprint with
  | some (lo, _) => let f := (va - lo).toNat; if n = 0 then [] else range (f / 32) ((f + n - 1) / 32 - f / 32 + 1)
  | none => []

/-- Write bytes into a member's backing area, or nothing where it is not sealed for the job (R288, R369). -/
def State.backWrite (s : State) (die key : Nat) (off : Nat) (bs : List Byte) : Option State :=
  let h := (s.comm die key).home die off
  if (range 0 bs.length).all (fun i => s.sealOk (key / 256) (h + i)) then some (s.homeWrite h bs) else none

/-! ## Delivery (R84, R294, R295, R299) -/

/-- A block whose declared exponents differ among the members, or are malformed, is written nowhere (R295). -/
def Comm.badBlock (c : Comm) (qp : Nat) (e : CEntry) (b : Nat) : Bool :=
  e.op == 2 && e.grid && e.eba &&
  (let vs := (c.maxima.filter (fun m => m.1 == qp && m.2.1 == e.tag)).map (fun m => m.2.2.2.getD b 0)
   vs.any (fun v => v == 0 || some v != vs.head?))

/-- The result of destination element i of this rank: not there yet, bad, or the bytes with the flags and the POIS and OVF of its block. -/
inductive CRes where
  | wait
  | bad
  | val (bs : List Byte) (fl : Flags) (pois ovf : Bool)
  deriving DecidableEq, Repr

/-- The results that stand in a staging area for this rank's destination elements. -/
def Comm.result (c : Comm) (qp : Nat) (e : CEntry) (i : Nat) : CRes :=
  let b := (e.blocksOf c.rank c.n).1 + i / 32
  if c.badBlock qp e b then .bad
  else match c.partials.find? (fun p => p.qp == qp && p.seq == e.tag && p.block == b) with
    | some p =>
      if p.from_.length ≠ c.n then .wait
      else if p.bad then .bad else let r := p.result (i % 32); .val r.1 r.2 p.pois p.ovf
    | none => .wait

/-- The bytes of a chunk's elements that have a result, with their offsets and addresses. -/
def State.chunkBytes (s : State) (key : Nat) (c : Comm) (qp : Nat) (e : CEntry) (i : Nat) : Except (Nat × Word) (List (Nat × Nat × Byte)) :=
  let lo : Int := match e.dst.footprint with | some (lo, _) => lo | none => 0
  let bytes : List (Int × Byte) := (e.inChunk i).flatMap (fun n => match c.result qp e n with
    | .val bs _ _ _ => ((range 0 bs.length).map (fun (j : Nat) => (e.dst.elemAddr n + (j : Int), bs.getD j 0))).filter
        (fun b => lo + 32 * i ≤ b.1 && b.1 < lo + 32 * i + 32)
    | _ => [])
  bytes.mapM (fun b => (s.collOff key c.size e b.1).map (fun o => (o, b.1.toNat, b.2)))

/-- Write one chunk of results at once (R299): the state, or the job status and the failing VA. -/
def State.writeChunk (s : State) (die key qp : Nat) (e : CEntry) (i : Nat) : Except (Nat × Word) State :=
  match s.chunkBytes key (s.comm die key) qp e i with
  | .error b => .error b
  | .ok l =>
    let runs := joinBytes (fun _ => 2 ^ 56) ((lastBytes l).foldl (fun l e => insertByte e l) [])
    runs.foldl (fun r w => match r with
      | .error b => .error b
      | .ok s => match s.backWrite die key w.1 w.2.2 with
        | some s => .ok s
        | none => .error (1, w64 w.2.1)) (.ok s)

/-- Flags of an entry's results go to the task that posted it (R84); a saved one has them when it is resumed. -/
def State.taskFlags (s : State) (die job tid : Nat) (f : Flags) : State :=
  match s.whereIs die job tid with
  | some p => s.modCtxAt p (fun x => { x with r := { x.r with aflags := x.r.aflags ||| f } })
  | none => match (s.die die).sets.find? (fun d => d.2.used && d.2.back && d.2.job == job && d.2.tid == tid) with
    | some (i, _) => s.modDie die (fun d => { d with sets := SMap.upd {} d.sets i (fun t => { t with aflags := t.aflags ||| f }) })
    | none => s

/-- Deliver the chunks of a started `wrr` entry whose results all stand (R294, R299), one after another. A block that is bad is left out, and
the rest of its chunks is written (R295). -/
def State.deliver (s : State) (die key qp : Nat) (e : CEntry) : State :=
  let c := s.comm die key
  let ready := if (e.blocksOf c.rank c.n).2 ≠ 0 && e.op = 2 && e.phase == .started then
      (range 0 e.nch).filter (fun i => !e.chunksDone.contains i && (e.inChunk i).all (fun n => c.result qp e n != .wait)) else []
  let step (r : State × Bool) (i : Nat) : State × Bool :=
    if r.2 then r
    else match r.1.writeChunk die key qp e i with
      | .error b => (r.1.entryFails die key qp e b, true)
      | .ok s =>
        let res := (e.inChunk i).map (c.result qp e)
        let fl : Flags := res.foldl (fun f x => match x with | .val _ g _ _ => f ||| g | _ => f) 0
        let pois := res.any (fun x => match x with | .val _ _ p _ => p | _ => false)
        let ovf := res.any (fun x => match x with | .val _ _ _ o => o | _ => false)
        ((s.taskFlags die e.job e.tid fl).modEntry die key qp e.no
          (fun e => { e with chunksDone := e.chunksDone ++ [i], stuck := false, pois := e.pois || pois, ovf := e.ovf || ovf }), false)
  (ready.foldl step (s, false)).1

/-- Blocks of a rank arrive in the staging area of a die (R83, R295), if the collective runs there: nothing where the area is not sealed for the
job (R369). -/
def State.stageBlocks (s : State) (die key qp seq block rank : Nat) (bs : List Byte) : Option State :=
  if !s.sealOk (key / 256) ((s.comm die key).stage die) then none
  else match (s.comm die key).matched qp seq with
    | none => some s
    | some e =>
      if e.phase != .started then some s
      else
        let s := s.modComm die key (fun c =>
          (List.range (bs.length / 200)).foldl (fun c i => c.combine qp seq (block + i) rank (slice bs (200 * i) 200)) c)
        match (s.comm die key).matched qp seq with
        | some e => some (s.deliver die key qp e)
        | none => some s

/-- A WRR packet stands in its slot until the collective's entry has started here (R303): it is posted later, or is posted and has not
started. -/
def Comm.holds (c : Comm) (qp seq : Nat) : Bool :=
  match c.matched qp seq with
  | some e => e.phase == .queued
  | none => wrap ((seq : Int) - (SMap.get {} c.qps qp).seq) 19 < 2 ^ 18

/-! ## Sending (R301 to R303) -/

/-- A byte as the collective engine of a die reads it: it belongs to its die (R236). -/
def State.collRead (s : State) (die : Nat) (t : Xl) : Byte := match t.rc with | .ordinary => s.dieByte die t.loc | _ => s.byte t.loc
/-- Source element n of an entry, or the job status and the failing VA. -/
def State.collElem (s : State) (die : Nat) (e : CEntry) (n : Nat) : Except (Nat × Word) (List Byte) :=
  (s.engBytes e.core e.card .rd false (e.src.elemAddr n) (fmtBytes e.src.fmt)).map (fun ts => ts.map (s.collRead die))

/-- The exponent of a block (R80, R294): declared, or the maximum over the members. -/
def Comm.blockE (c : Comm) (qp : Nat) (e : CEntry) (b : Nat) : Int :=
  if e.grid then ((if e.eba then e.ebs.getD b 0 else e.eb : Nat) : Int) - 127
  else (c.maxima.filter (fun m => m.1 == qp && m.2.1 == e.tag)).foldl (fun a m => max a (m.2.2.2.getD b (-126))) (-126)

/-- Every member's header of a matched entry is here, and with it its maxima or exponents (R80, R293). -/
def Comm.met (c : Comm) (qp : Nat) (e : CEntry) : Bool :=
  e.seq.isNone || (c.heads.filter (fun h => h.1 == qp && h.2.1 == e.tag)).length == c.n
/-- An entry may send: a `wr` and a measured grid wait for every header, while blocks on a declared grid go to staging areas at once (R293,
R294). -/
def Comm.mayGo (c : Comm) (qp : Nat) (e : CEntry) : Bool := (e.op == 2 && e.grid) || c.met qp e

/-- The ranks that a `wr`, or the block b of a `wrr`, goes to (R294). -/
def Comm.targets (c : Comm) (e : CEntry) (b : Nat) : List Nat :=
  match e.dest with
  | 0 => List.range c.n
  | 1 => [e.root]
  | _ => [b / max 1 (e.blocks / c.n)]

/-- The elements of the next chunk (R302): 4 KiB of source for `wr`, 1,024 elements for `wrr`. -/
def CEntry.chunkLen (e : CEntry) : Nat :=
  min (if e.op = 1 then max 1 (4096 / fmtBytes e.src.fmt) else 1024) (e.count - e.pos)

/-- The packets of `n` elements of a `wrr` from `pos` on, as (first element, elements): whole groups of four blocks, at most five groups, within
one rank's part (R301). -/
def CEntry.cuts (e : CEntry) (part : Nat) : Nat → Nat → Nat → List (Nat × Nat)
  | 0, _, _ => []
  | f + 1, pos, n =>
    if n = 0 then [] else let l := min 640 (min n (part - pos % max 1 part)); (pos, max 1 l) :: e.cuts part f (pos + max 1 l) (n - max 1 l)

/-- A later element of a `wr` writes into chunk i of the destination (R299). -/
def CEntry.later (e : CEntry) (i : Nat) : Bool :=
  (range e.pos (e.count - e.pos)).any (fun n => (e.chunksAt (e.dst.elemAddr n).toNat e.size).contains i)

/-- Begin a chunk (R302): its source is read, and its packets stand ready. The bytes of a `wr` leave in whole 32-byte chunks of the destination
(R299, R301). -/
def State.beginChunk (s : State) (die key qp : Nat) (e : CEntry) : Except (Nat × Word) CEntry :=
  let c := s.comm die key
  let n := e.chunkLen
  let dies (b : Nat) : List Nat := (c.targets e b).map (fun r => c.members.getD r die)
  match (range e.pos n).mapM (s.collElem die e) with
  | .error x => .error x
  | .ok els =>
    if e.op = 1 then
      let bytes : List (Int × Byte) := (range 0 n).flatMap (fun j =>
        (range 0 e.size).map (fun (i : Nat) => (e.dst.elemAddr (e.pos + j) + (i : Int), (els.getD j []).getD i 0)))
      match bytes.mapM (fun b => (s.collOff key c.size e b.1).map (fun o => (o, b.1.toNat, b.2))) with
      | .error x => .error x
      | .ok l =>
        let e := { e with pos := e.pos + n, words := e.words ++ l }
        let go (w : Nat × Nat × Byte) : Bool := (e.chunksAt w.2.1 1).all (fun i => !e.later i)
        let lo : Nat := match e.dst.footprint with | some (lo, _) => lo.toNat | none => 0
        let cut := ((lastBytes (e.words.filter go)).foldl (fun l w => insertByte w l) []).map (fun w => (w.1, w.2.1 - lo, w.2.2))
        let runs := joinBytes (fun _ => 4096) cut
        .ok { e with words := e.words.filter (fun w => !go w), stuck := false,
                     queue := runs.flatMap (fun r => (dies 0).map (fun d => (d, r.1, lo + r.2.1, r.2.2))) }
    else
      let xs : List Wide := els.map (fun b => decFmt e.src.fmt (ofBytes b))
      let block (b : Nat) : List Byte :=
        let blk := (xs.drop (32 * b - e.pos)).take 32
        let ex := c.blockE qp e b
        wfBytes (ex + 127).toNat ((blk ++ List.replicate (32 - blk.length) (Wide.fin false 0 0)).map (wfQ ex))
      let part := if e.dest = 2 then e.count / max 1 c.n else e.count
      let pk (u : Nat × Nat) : List (Nat × Nat × Nat × List Byte) :=
        let b := u.1 / 32
        let bs := (range b ((u.2 + 31) / 32)).flatMap block
        (dies b).map (fun d => (d, b, (e.dst.elemAddr (u.1 % max 1 part)).toNat, bs))
      .ok { e with pos := e.pos + n, stuck := false, queue := (e.cuts part 1024 e.pos n).flatMap pk }

/-- The free slots of a communicator at the station by which its packets leave a die for another (R303): its QUOTA less the packets that stand there. -/
def State.slotsFree (s : State) (die key dst : Nat) : Nat :=
  let isIt (p : Packet) : Bool :=
    p.at_ == die && p.out == s.onward die 8 dst && 2 ≤ p.vc && p.vc ≤ 5 && p.job * 256 + p.rkey % 256 == key
  (s.comm die key).quota - (s.net.filter isIt).length

/-- A packet of a communicator can leave for a die: the window and a slot have room for n of them. -/
def State.roomFor (s : State) (die key dst n : Nat) : Bool :=
  dst == die || ((s.die die).window.length < 256 && n ≤ s.slotsFree die key dst)

/-- The packets of a chunk all find room at once (R302, R303), for these dies. Of more than the window holds, or than QUOTA of one station, the first do. -/
def State.fits (s : State) (die key : Nat) (ds : List Nat) : Bool :=
  let out := ds.filter (· != die)
  (s.die die).window.length + min 256 out.length ≤ 256 &&
  out.all (fun d => s.roomFor die key d (min (s.comm die key).quota (out.filter (fun x => s.onward die 8 x == s.onward die 8 d)).length))

/-- The cluster whose windows an entry reaches: that of the core that posted it. -/
def CEntry.cls (e : CEntry) : List Nat := [coreCluster e.core]

/-- A pair's entry has a chunk ready (R302): the rest of one it has begun, or a new one for which there is room. -/
def State.chunkReady (s : State) (die key qp : Nat) (e : CEntry) : Bool :=
  let c := s.comm die key
  !s.asleep e.cls &&
  (match e.queue with
   | p :: _ => s.roomFor die key p.1 1
   | [] =>
     e.phase == .started && c.draining.isNone && e.pos < e.count && c.mayGo qp e &&
     (match s.beginChunk die key qp e with
      | .error _ => true
      | .ok e' => s.fits die key (e'.queue.map (·.1))))

/-- The bytes of a `wr` stand at this member: their chunks are final, but for one of which more is to come (R299). -/
def State.writeHere (s : State) (die key qp no off va : Nat) (bs : List Byte) : State :=
  match s.backWrite die key off bs with
  | some s => s.modEntry die key qp no (fun e =>
    let more (i : Nat) : Bool := e.queue.any (fun p => p.1 == die && (e.chunksAt p.2.2.1 p.2.2.2.length).contains i)
    { e with chunksDone := e.chunksDone ++ (e.chunksAt va bs.length).filter (fun i => !e.chunksDone.contains i && !more i) })
  | none => match (s.comm die key).entries qp |>.find? (fun e => e.no == no) with
    | some e => s.failEntry die key qp e 1 (w64 va)
    | none => s

/-- One packet of an entry goes to a member: nothing where it finds no room. -/
def State.sendPacket (s : State) (die key qp : Nat) (e : CEntry) (p : Nat × Nat × Nat × List Byte) : Option State :=
  let (d, off, va, bs) := p
  let c := s.comm die key
  if d = die then
    some (if e.op = 1 then s.writeHere die key qp e.no off va bs
          else match s.stageBlocks die key qp e.tag off c.rank bs with
            | some s => s
            | none => s.failEntry die key qp e 1 (w64 va))
  else if !s.roomFor die key d 1 then none
  else (s.sendReq die { op := if e.op = 1 then 6 else 7, job := e.job, offs := off, steer := false, vc := 2 + c.pclass, seq := 0, dst := d, src := die,
                        rkey := e.rkey key qp, payload := bs } (entryOrigin key qp e.no) (0, va)).map (·.1)

/-- Send what is left of a begun chunk (R302). -/
def State.sendQueue (s : State) (die key qp no : Nat) : Nat → State
  | 0 => s
  | f + 1 =>
    match (s.comm die key).entries qp |>.find? (fun e => e.no == no) with
    | none => s
    | some e => match e.queue with
      | [] => s
      | p :: _ =>
        match (s.modEntry die key qp no (fun e => { e with queue := e.queue.drop 1 })).sendPacket die key qp e p with
          | none => s
          | some s => s.sendQueue die key qp no f

/-- A chunk of an entry, from where it stands, as far as it can go. -/
def State.sendChunk (s : State) (die key qp no : Nat) : State :=
  match (s.comm die key).entries qp |>.find? (fun e => e.no == no) with
  | none => s
  | some e =>
    if !e.queue.isEmpty then s.sendQueue die key qp no e.queue.length
    else match s.beginChunk die key qp e with
      | .error b => s.entryFails die key qp e b
      | .ok e' => (s.modEntry die key qp no (fun _ => e')).sendQueue die key qp no e'.queue.length

/-- Chunks of an entry, at most n. -/
def State.sendAll (s : State) (die key qp no : Nat) : Nat → State
  | 0 => s
  | n + 1 => (s.sendChunk die key qp no).sendAll die key qp no n

/-- CHUNK_SEND (R302): one chunk of the pair of the highest class, least recently served, that has one ready; the rest of a begun chunk goes
first. -/
def execChunkSend (die : Nat) (s : State) : Out :=
  let d := s.die die
  let ready : List (Nat × Nat × Nat × Nat × Bool × Nat) := d.comms.flatMap (fun c => c.2.qps.filterMap (fun q =>
    match q.2.entries.find? (fun e => !d.halted e.job && s.chunkReady die c.1 q.1 e) with
    | some e => some (c.1, q.1, e.no, c.2.pclass, !e.queue.isEmpty, q.2.served)
    | none => none))
  let better (a b : Nat × Nat × Nat × Nat × Bool × Nat) : Bool :=
    if a.2.2.2.2.1 ≠ b.2.2.2.2.1 then a.2.2.2.2.1
    else if a.2.2.2.1 ≠ b.2.2.2.1 then a.2.2.2.1 > b.2.2.2.1 else a.2.2.2.2.2 < b.2.2.2.2.2
  match ready with
  | [] => .next (s.callAll (d.comms.flatMap (fun c => c.2.qps.flatMap (fun q => (q.2.entries.filter (fun e => e.phase == .started && !d.halted e.job)).flatMap (·.cls)))))
  | a :: t =>
    let (key, qp, no, _, _, _) := t.foldl (fun b x => if better x b then x else b) a
    let s := s.modDie die (fun d => { d with serves := d.serves + 1 })
    let s := s.modComm die key (fun c => { c with qps := SMap.upd {} c.qps qp (fun q => { q with served := (s.die die).serves }) })
    .next (s.sendChunk die key qp no)

/-! ## Starting (R293, R294, R297) -/

/-- The declared exponents read at EBADDR as an entry starts (R294). -/
def State.readEbs (s : State) (die : Nat) (e : CEntry) : Except (Nat × Word) (List Nat) :=
  if e.op = 2 && e.grid && e.eba then
    (s.engBytes e.core e.card .rd false (bits e.ebaddr 55 0) e.blocks).map (fun ts => ts.map (fun t => (s.collRead die t).toNat))
  else .ok []

/-- The block maxima of an entry in measured-grid mode (R80). -/
def State.readMaxima (s : State) (die : Nat) (e : CEntry) : Except (Nat × Word) (List Int) :=
  if e.op = 2 && !e.grid then
    match (range 0 e.count).mapM (s.collElem die e) with
    | .error x => .error x
    | .ok els =>
      let xs : List Int := els.map (fun b => wfExp (decFmt e.src.fmt (ofBytes b)))
      .ok ((List.range e.blocks).map (fun j => ((xs.drop (32 * j)).take 32).foldl max (-126)))
  else .ok []

/-- A matched entry's header, with its maxima or declared exponents, reaches every member (R293). A header that differs ends the collective
with status 0x07 at every member, and nothing of it is written. -/
def State.announce (s : State) (die key qp : Nat) (e : CEntry) (seq : Nat) (mx : List Int) : State :=
  let c := s.comm die key
  let add (c' : Comm) : Comm :=
    { c' with heads := c'.heads ++ [(qp, e.tag, c.rank, e.header, e.no)],
              maxima := if e.op = 2 then c'.maxima ++ [(qp, e.tag, c.rank, mx)] else c'.maxima }
  let s := c.members.foldl (fun s d => s.modComm d key add) s
  if ((s.comm die key).heads.filter (fun h => h.1 == qp && h.2.1 == e.tag)).any (fun h => h.2.2.2.1 ≠ e.header) then
    (s.modComm die key (fun c => c.finish qp .failed 7 (fun x => x.seq == some seq && x.ver == c.ver))).endElsewhere die key qp seq .failed 7
  else s

/-- A packet of a collective that waited in its slot is taken (R303). -/
def State.takeParked (s : State) (die key : Nat) : State :=
  let c := s.comm die key
  let held (p : Packet) : Bool := c.holds (p.rkey / 2 ^ 8 % 16) (p.rkey / 2 ^ 13)
  let s := s.modComm die key (fun c => { c with parked := c.parked.filter held })
  (c.parked.filter (fun p => !held p)).foldl (fun s p =>
    match s.stageBlocks die key (p.rkey / 2 ^ 8 % 16) (p.rkey / 2 ^ 13) p.offs ((findIdx (fun d => d == p.src) 0 c.members).map (·.1) |>.getD 0) p.payload with
    | some s => s.reply die p 0x11 []
    | none => s.nack die p 2) s

/-- COLLECTIVE_ENTRY_START (R294): the first entry of a pair that has not started starts, if its predicate has held. -/
def execCollectiveEntryStart (die key qp : Nat) (s : State) : Out :=
  let c := s.comm die key
  match (c.entries qp).find? (fun e => e.phase == .queued) with
  | none => .next s
  | some e =>
    if !e.held || c.draining.isSome || (s.die die).halted e.job then .next s
    else if s.asleep e.cls then .next (s.callAll e.cls)
    else if !c.valid || e.ver ≠ c.ver then .next (s.modEntry die key qp e.no (fun e => { e with phase := .failed, status := 8 }))
    else match c.dead.find? (fun d => d.1 == qp && e.seq == some d.2.1) with
      | some d => .next (s.modEntry die key qp e.no (fun e => { e with phase := if d.2.2 = 7 then .failed else .aborted, status := d.2.2 }))
      | none =>
        match s.readEbs die e, s.readMaxima die e with
        | .error b, _ => .next (s.entryFails die key qp e b)
        | _, .error b => .next (s.entryFails die key qp e b)
        | .ok ebs, .ok mx =>
          let s := s.modEntry die key qp e.no (fun e => { e with phase := .started, began := true, ebs := ebs, stuck := false })
          let s := match e.seq with | some q => s.announce die key qp e q (if e.grid then ebs.map (fun b => (b : Int)) else mx) | none => s
          let s := s.takeParked die key
          .next (if c.n = 1 then s.sendAll die key qp e.no (e.count + 1) else s)

/-! ## Local completion (R296 to R298) -/

/-- The writes of the entries of the pair before this one, from every member to this one, stand at their homes (R296); with `own` those of the
matched entries themselves too. -/
def State.standHome (s : State) (die key qp : Nat) (e : CEntry) (own : Bool) : Bool :=
  let c := s.comm die key
  e.ver != c.ver || (c.heads.filter (fun h => h.1 == qp && h.2.1 == e.tag)).all (fun h =>
    let d := c.members.getD h.2.2.1 die
    let upTo (no : Nat) : Bool := no < h.2.2.2.2 || (own && no == h.2.2.2.2)
    ((s.comm d key).entries qp).all (fun x => !upTo x.no || ((x.phase != .started || x.count ≤ x.pos) && x.queue.isEmpty)) &&
    !((s.die d).window ++ (s.die d).savedJobs.flatMap (·.window)).any (fun r => r.origin.1 == 3 && r.origin.2.1 == key * 16 + qp && upTo r.origin.2.2 && r.pkt.dst == die))

/-- An entry is locally complete (R296, R297, R299): a matched one too when its own writes have been answered, so that a refusal still finds it (R295;
DEDUCED, log 21). One that was aborted or has failed is when no write of it is under way. -/
def State.locally (s : State) (die key qp : Nat) (e : CEntry) : Bool :=
  let c := s.comm die key
  match e.phase with
  | .queued => false
  | .aborted | .failed => e.queue.isEmpty && !s.entryOut die key qp e.no && s.standHome die key qp e true
  | .started =>
    e.count ≤ e.pos && e.queue.isEmpty && !s.entryOut die key qp e.no &&
    (match e.seq with
     | none => true
     | some _ =>
       e.count = 0 || (c.met qp e && s.standHome die key qp e (e.op == 1) &&
       (e.op = 1 ||
        (let (b0, nb) := e.blocksOf c.rank c.n
         (range b0 nb).all (fun b => c.partials.any (fun p => p.qp == qp && p.seq == e.tag && p.block == b && p.from_.length == c.n)) &&
         (nb = 0 || (range 0 e.nch).all (fun i => e.chunksDone.contains i))))))

/-- The status of an entry at its completion (R295, R298): a bad block anywhere in the collective is malformed work at every member. -/
def Comm.finalStatus (c : Comm) (qp : Nat) (e : CEntry) : Nat :=
  if e.phase == .started && ((range 0 e.blocks).any (c.badBlock qp e) || c.partials.any (fun p => p.qp == qp && p.seq == e.tag && p.bad && e.op == 2)) then 7
  else e.status

/-- The completion record (R298). -/
def CEntry.record (e : CEntry) (status : Nat) : List Byte :=
  let bmv := e.phase == .aborted && e.began
  let bm := (List.range ((e.nch + 63) / 64)).map (fun w => wordFrom (fun i => e.chunksDone.contains (64 * w + i)))
  bytesOf 8 (status + b2n e.ovf * 2 ^ 8 + b2n e.pois * 2 ^ 9 + b2n bmv * 2 ^ 10 + e.ver * 2 ^ 32) ++
  bytesOf 8 (match e.seq with | some q => q % 2 ^ 32 | none => 0xFFFFFFFF) ++ bytesOf 8 e.nch ++ List.replicate 8 0 ++
  (if bmv then bm.flatMap (fun w => bytesOf 8 w.toNat) else [])

/-- Write bytes for an entry where its translation leads, in units of eight; a unit that does not translate is dropped (DESIGN CHOICE, log 8). -/
def State.collWrite (s : State) (die : Nat) (e : CEntry) (va : Nat) (bs : List Byte) : Nat → State
  | 0 => s
  | fuel + 1 =>
    if bs.isEmpty then s
    else
      let s := match s.engBytes e.core e.card .wr false va (min 8 bs.length) with
        | .ok (t :: _) =>
          if t.rc == Rc.ordinary then s.dieWrite die { loc := t.loc, bytes := bs.take 8, core := e.core, job := e.job, va := va } else s.homeWrite t.loc (bs.take 8)
        | _ => s
      s.collWrite die e (va + 8) (bs.drop 8) fuel

/-- ENTRY_LOCAL_COMPLETION (R296): the earliest locally complete entry of a pair writes its record, releases and updates its counter. The record
and the backing area are written at their homes on the die, which is the release. -/
def execEntryLocalCompletion (die key qp : Nat) (s : State) : Out :=
  let s := s.takeParked die key
  let s := (((s.comm die key).entries qp).filter (fun e => e.stuck && e.op == 2)).foldl (fun s e => s.deliver die key qp e) s
  let c := s.comm die key
  match (c.entries qp).find? (s.locally die key qp) with
  | none => .next s
  | some e =>
    if s.asleep e.cls then .next (s.callAll e.cls) else
    let s := if bits e.reca 55 0 = 0 then s else s.collWrite die e (bits e.reca 55 0) (e.record (c.finalStatus qp e)) (e.nch + 8)
    let s := s.modComm die key (fun c =>
      let keep (q t : Nat) : Bool := !(e.seq.isSome && e.ver == c.ver && q == qp && t == e.tag)
      { c with qps := SMap.upd {} c.qps qp (fun q => { q with entries := q.entries.filter (fun x => x.no != e.no) }),
               partials := c.partials.filter (fun p => keep p.qp p.seq), heads := c.heads.filter (fun h => keep h.1 h.2.1),
               maxima := c.maxima.filter (fun h => keep h.1 h.2.1), dead := c.dead.filter (fun h => keep h.1 (h.2.1 % 2 ^ 19)) })
    .next (if e.ken then s.bumpK die e.job e.tid e.k (kDelta e.out) else s)

/-! ## Agreement rounds (R300) -/

/-- The payload of a proposal (DEDUCED, log 21): VER + 1 in [31:0], COMM in [39:32], members − 1 in [47:40], then a die ID in each byte. -/
def proposal (comm ver : Nat) (members : List Nat) : List Byte :=
  bytesOf 8 (ver % 2 ^ 32 + comm % 256 * 2 ^ 32 + (members.length - 1) % 256 * 2 ^ 40) ++ members.map (BitVec.ofNat 8)

/-- A proposal reaches a member (R300): it starts no further entry, aborts those started and acknowledges; a new member acknowledges. -/
def State.drain (s : State) (die key ver : Nat) (members : List Nat) : State :=
  let qps := (s.comm die key).qps.map (·.1)
  let s := s.modComm die key (fun c => { c with draining := some (members, ver) })
  qps.foldl (fun s q => s.abortEntries die key q (fun e => e.phase == .started)) s

/-- AGREEMENT_PROPOSE: the engine of the lowest-ranked remaining member sends VER + 1 and the new list to every old and new member on VC7, for
which its replay window needs room (R300, R390); it may send it again to one whose proposal was lost. -/
def execAgreementPropose (die key : Nat) (members : List Nat) (s : State) : Out :=
  let c := s.comm die key
  let others := (c.members ++ members.filter (fun d => !c.members.contains d)).filter (· != die)
  let again := c.proposer && c.draining == some (members, c.ver + 1)
  let others := if again then c.owed.filter (fun d => !(s.die die).window.any (fun r => r.origin == (6, key, 0) && r.pkt.dst == d)) else others
  if !c.valid || (c.draining.isSome && !again) || (c.members.find? (fun d => members.contains d)) != some die || members.length > 256 then .next s
  else if (s.die die).window.length + others.length > 256 then .next s
  else
    let send (s : State) (d : Nat) : State :=
      match s.sendReq die { op := 0x20, job := key / 256, offs := 0, steer := false, vc := 7, seq := 0, dst := d, src := die, rkey := 0,
                            payload := proposal (key % 256) (c.ver + 1) members } (6, key, 0) with
      | some (s, _) => s
      | none => s
    .next (if again then others.foldl send s
      else ((others.foldl send s).drain die key (c.ver + 1) members).modComm die key (fun c => { c with proposer := true, owed := others }))

/-- A management packet that carries a proposal reaches a die (R300). -/
def State.takeProposal (s : State) (die : Nat) (p : Packet) : State :=
  let w := ofBytes (p.payload.take 8)
  if p.payload.length < 9 then s
  else s.drain die (p.job * 256 + w / 2 ^ 32 % 256) (w % 2 ^ 32) (((p.payload.drop 8).take (w / 2 ^ 40 % 256 + 1)).map (·.toNat))

/-- The descriptor words of a new version (R289): VER, NMEM, MYRANK, MEMBERS; QUOTA and PCLASS as at the proposer. -/
def newDescriptor (own c : List Word) (ver rank : Nat) (members : List Nat) : List Word :=
  let w0 := putBits (wd c 0) 31 0 (w64 ver)
  let w1 := putBits (putBits (wd c 1) 15 8 (w64 rank)) 7 0 (w64 (members.length - 1))
  [w0 ||| w64 (2 ^ 63), w1] ++ wordsOf 6 (((own.drop 2).take 6).flatMap (fun w => bytesOf 8 w.toNat)) ++ wordsOf 32 (padTo 256 (members.map (BitVec.ofNat 8)))

/-- The quota of a communicator, from the descriptor of a member (R303). -/
def State.quotaOf (s : State) (key : Nat) : Nat :=
  match s.dies.find? (fun d => (SMap.get {} d.2.comms key).valid) with
  | some d => (SMap.get {} d.2.comms key).quota
  | none => 0

/-- The communicators of the domain (R303): each holds its slots at every station. -/
def State.allComms (s : State) : List Nat :=
  (s.dies.flatMap (fun d => (d.2.comms.filter (fun c => c.2.valid)).map (·.1))).foldl (fun l k => if l.contains k then l else l ++ [k]) []

/-- The slots that the pools and the communicators reserve at a station (R303, R386). -/
def State.slotsUsed (s : State) : Nat := s.allComms.foldl (fun n k => n + s.quotaOf k) 64

/-- AGREEMENT_COMMIT: once every acknowledgement of its proposal has arrived, every member, old and new, installs the proposer's new descriptor
(R300); SEQ returns to 0; a removed member's descriptor becomes invalid. It waits while packets of the communicator are under way. A commit beyond
a station's slots is refused (R303). -/
def execAgreementCommit (die key : Nat) (s : State) : Out :=
  let c := s.comm die key
  match c.draining with
  | none => .next s
  | some (new, ver) =>
    let all := c.members ++ new.filter (fun d => !c.members.contains d)
    let drained := all.all (fun d => !(s.die d).window.any (fun r => r.origin.1 == 3 && r.origin.2.1 / 16 == key) &&
      (s.comm d key).qps.all (fun q => q.2.entries.all (fun e => e.queue.isEmpty)))
    if !c.proposer || !c.owed.isEmpty || !drained || s.slotsUsed > 256 then .next s
    else
      let clear (c' : Comm) : Comm :=
        { c' with partials := [], heads := [], maxima := [], dead := [], draining := none, proposer := false, owed := [], parked := [],
                  qps := c'.qps.map (fun q => (q.1, { q.2 with seq := 0 })) }
      let install (s : State) (d : Nat) : State :=
        s.modComm d key (fun c' =>
          match findIdx (fun m => m == d) 0 new with
          | some (r, _) => { clear c' with words := newDescriptor c'.words c.words ver r new }
          | none =>
            let c' := clear c'
            let off := c'.qps.foldl (fun x q => x.modEntries q.1 (fun e => e.phase == .queued) (fun e => { e with phase := .failed, status := 8 })) c'
            { off with words := (c'.w 0 &&& ~~~(w64 (2 ^ 63))) :: c'.words.drop 1 })
      .next (all.foldl install s)

end Sys2Proof.Machine
end

