-- ==== Sys2Proof/Machine/Fabric.lean ====
section
/-! DEFINITION. Fabric packets at their homes and their answers (R381 to R383, R388 to R393, R251), remote keys (R392, R393), the replay
window (R390). -/

namespace Sys2Proof.Machine

/-! ## Units of the die -/

/-- Where an access of a unit of the die leads through the tables of a job (R31, R32, R396): an ordinary page, host memory or a remote window;
nothing where it fails translation or its class. -/
def State.unitXl (s : State) (x : XCtx) (va : Nat) (acc : Acc) : Option Xl :=
  if 2 ^ 55 ≤ va then none
  else match s.xlate x va acc with
    | .error _ => none
    | .ok t => match t.rc with
      | .ordinary | .remote => some t
      | .mmio => if t.plain then some t else none
      | _ => none

/-- A write of a unit of the die where a translation leads: through the die station (R237), or as a WR request (R251); nothing while the replay
window is full. -/
def State.unitWrite (s : State) (die : Nat) (x : XCtx) (va : Nat) (t : Xl) (bs : List Byte) (origin : Nat × Nat × Nat) : Option State :=
  if t.rc == .remote then
    let (dst, rkey, off) := remParts t.loc
    (s.sendReq die { op := 2, job := x.job, offs := off, steer := false, vc := 0, seq := 0, dst := dst, src := 0, rkey := rkey, payload := bs }
      origin (0, va)).map (·.1)
  else some (s.dieWrite die { loc := t.loc, bytes := bs, core := sysCore die, job := x.job, va := va })

/-! ## The packet an event names -/

/-- The opcodes of R383. -/
def assigned (op : Nat) : Bool := [1, 2, 3, 6, 7, 8, 9, 0x10, 0x11, 0x12, 0x20, 0x21].contains op

/-- The first packet from a die to a die on a VC that has come to its die, if it carries this opcode, or one that R383 does not assign, and its job is not
stopped there (R353); it leaves the network and its ING stands. -/
def State.incoming (s : State) (op src dst vc : Nat) : Option (Packet × State) :=
  match findIdx (fun p : Packet => p.source == src && p.dst == dst && p.vc == vc && p.at_ == dst && p.out == 8) 0 s.net with
  | none => none
  | some (i, p) =>
    let d := s.die dst
    if (p.op ≠ op && assigned p.op) || (d.deaf p.job && !d.closed.contains p.job && p.vc ≠ 7) then none else some (p, { s with net := s.net.eraseIdx i })

/-- A steered packet at a die whose ingress has stopped is refused, if it is one to be performed (R273, R388, R391). -/
def State.refuses (s : State) (die : Nat) (p : Packet) : Bool := p.steer && (s.die die).stalled && s.takes die p

/-! ## Requests -/

/-- FABRIC_RD (R383, R391, R393): answered with RSP. A poisoned word is not delivered (R405; DEDUCED, log 41). -/
def execFabricRd (src dst vc : Nat) (s : State) : Out :=
  match s.incoming 0x01 src dst vc with
  | none => .next s
  | some (p, s) => match s.arrive dst p with
    | .error s => .next s
    | .ok s => match s.keyCheck dst p.rkey p.job p.offs p.rlen .rd with
      | .error r => .next (s.nack dst p r)
      | .ok h => .next (if s.poisoned h p.rlen then s.nack dst p 2 else s.reply dst p 0x10 (s.bytesAt h p.rlen))

/-- FABRIC_WR (R255, R257, R383, R388, R393): a steered packet enters its lane, or is refused while ingress stops; any other is written at
its home. Only a steered one needs no remote key. -/
def execFabricWr (src dst vc : Nat) (s : State) : Out :=
  match s.incoming 0x02 src dst vc with
  | none => .next s
  | some (p, s) =>
    if s.refuses dst p then .next (s.refuse dst p)
    else match s.arrive dst p with
      | .error s => .next s
      | .ok s =>
        match (if p.steer && p.rkey = 0 then .ok 0 else s.keyCheck dst p.rkey p.job p.offs p.payload.length .wr) with
        | .error r => .next (s.nack dst p r)
        | .ok h => .next ((if p.steer then s.enterLane dst p else s.homeWrite h p.payload).reply dst p 0x11 [])

/-- FABRIC_AMO (R218, R220, R383, R391): performed once at its home, answered with the old value. -/
def execFabricAmo (src dst vc : Nat) (s : State) : Out :=
  match s.incoming 0x03 src dst vc with
  | none => .next s
  | some (p, s) => match s.arrive dst p with
    | .error s => .next s
    | .ok s =>
      let w := ofBytes (slice p.payload 0 8)
      let n := if w / 2 ^ 8 % 2 = 1 then 8 else 4
      match AmoOp.ofCode (w % 256) with
      | none => .next (s.nack dst p 4)
      | some op => match s.keyCheck dst p.rkey p.job p.offs n .at with
        | .error r => .next (s.nack dst p r)
        | .ok h =>
          if s.poisoned h n then .next (s.nack dst p 2)
          else
            let (old, s) := s.rmw op h n (w / 2 ^ 9 % 2 == 1) (ofBytes (slice p.payload 8 8) % 2 ^ (8 * n)) (ofBytes (slice p.payload 16 8) % 2 ^ (8 * n))
            .next (s.reply dst p 0x10 (bytesOf n old))

/-- What RKEY of a collective packet says (DEDUCED, log 21): communicator key, queue pair, matched, SEQ. -/
def collKey (p : Packet) : Nat × Nat × Bool × Nat := (p.job * 256 + p.rkey % 256, p.rkey / 2 ^ 8 % 16, p.rkey / 2 ^ 12 % 2 == 1, p.rkey / 2 ^ 13)

/-- A multicast write or reduction of a communicator this die is no member of is refused; nothing of what it does where it is refused too. -/
def State.collArrive (s : State) (dst : Nat) (p : Packet) (f : State → Nat → Nat → Nat → Nat → Option State) : State :=
  let (key, qp, _, seq) := collKey p
  let c := s.comm dst key
  match findIdx (fun d => d == p.src) 0 c.members with
  | some (r, _) => (match (if c.valid then f s key qp seq r else none) with
    | some s => s.reply dst p 0x11 []
    | none => s.nack dst p 2)
  | none => s.nack dst p 2

/-- FABRIC_MCWR (R255, R288, R294, R389): a steered packet enters its lane, or is refused while ingress stops; else the copy for this die is
delivered to its backing area. -/
def execFabricMcwr (src dst vc : Nat) (s : State) : Out :=
  match s.incoming 0x06 src dst vc with
  | none => .next s
  | some (p, s) =>
    if s.refuses dst p then .next (s.refuse dst p)
    else match s.arrive dst p with
      | .error s => .next s
      | .ok s =>
        if p.steer then .next ((s.enterLane dst p).reply dst p 0x11 [])
        else .next (s.collArrive dst p (fun s key _ _ _ => s.backWrite dst key p.offs p.payload))

/-- FABRIC_WRR (R83, R294, R303): the blocks combine into the staging partials; until the collective runs here, the packet stands in its slot. -/
def execFabricWrr (src dst vc : Nat) (s : State) : Out :=
  match s.incoming 0x07 src dst vc with
  | none => .next s
  | some (p, s) => match s.arrive dst p with
    | .error s => .next s
    | .ok s =>
      let (key, qp, _, seq) := collKey p
      let c := s.comm dst key
      if c.valid && c.members.contains p.src && c.holds qp seq then .next (s.modComm dst key (fun c => { c with parked := c.parked ++ [p] }))
      else .next (s.collArrive dst p (fun s key qp seq r => s.stageBlocks dst key qp seq p.offs r p.payload))

/-! ## Answers (R390) -/

/-- The entry of the replay window that a response answers. -/
def Die.entryOf (d : Die) (p : Packet) : Option Replay :=
  d.window.find? (fun r => r.pkt.dst == p.src && r.pkt.vc == p.rvc && r.pkt.seq == p.seq && r.pkt.job == p.job)
/-- Free an entry of the replay window. -/
def Die.freeEntry (d : Die) (r : Replay) : Die :=
  { d with window := d.window.filter (fun e => !(e.pkt.dst == r.pkt.dst && e.pkt.vc == r.pkt.vc && e.pkt.seq == r.pkt.seq && e.pkt.job == r.pkt.job)) }

/-- A line of a remote location takes the bytes that an RD brought, but where it is dirty or a buffer on the way holds a later write (R172, R238 to R240). One
asked for before an invalidation of the cache, or before later bytes of the line left or came in, is not taken (R241, R246). -/
def State.fillRemote (s : State) (core : Nat) (r : Replay) (bs : List Byte) : State :=
  if r.stale then s
  else
    let loc := remKey r.pkt.dst r.pkt.rkey r.pkt.offs / 64 * 64
    let s := if (s.lineAt core loc).isSome then s
      else (s.makeRoom core).modCore core (fun c =>
        { c with dcache := { loc := loc, tags := [r.tag], job := r.pkt.job, bytes := List.replicate 64 0, valid := 0, dirty := 0 } :: c.dcache })
    let put (l : Line) : Line := (range 0 64).foldl (fun l i =>
      if l.dirty.getLsbD i then l
      else { l with bytes := setAt l.bytes i ((s.buffered core (loc + i)).getD (bs.getD i 0)), valid := l.valid ||| maskFrom i 1 }) l
    (s.modCore core (fun c => { c with dcache := mapIf (fun l => l.loc == loc) put c.dcache })).staleLine core loc

/-- An answer to a request concerns a pending register. -/
def Pend.isOf (d : Pend) (r : Replay) : Bool := d.dst == r.pkt.dst && d.vc == r.pkt.vc && d.seq == r.pkt.seq
/-- The value of a pending register. -/
def Pend.value (d : Pend) (bs : List Byte) : Word :=
  let v := ofBytes (slice (d.own.foldl (fun bs e => setAt bs e.1 e.2) bs) d.off d.len)
  if d.signed then BitVec.ofInt 64 (sext v (8 * d.len)) else w64 v

/-- The pending registers that an answer's bytes complete (R359). A value below SLIM does not reach g30: it is a stack-limit fault at the next
boundary (R62, R175). -/
def State.pendTake (s : State) (core ctx : Nat) (r : Replay) (bs : List Byte) : State :=
  s.modCtxAt ⟨core, ctx⟩ (fun c =>
    let low (d : Pend) : Bool := d.g == 30 && d.value bs < c.r.slim
    let mine := c.pend.filter (·.isOf r)
    { c with r := (mine.filter (fun d => !low d)).foldl (fun g d => g.setG d.g (d.value bs)) c.r, pend := c.pend.filter (fun d => !d.isOf r),
             bfaults := c.bfaults ++ (mine.filter low).map (fun d => { cause := 0x0701, addr := d.value bs, aux := 0, slot := 5 }) })

/-- What a response with data, or an ACK, does to what waits on it. -/
def State.answer (s : State) (die : Nat) (r : Replay) (bs : List Byte) : State :=
  let s := s.modDie die (·.freeEntry r)
  let (kind, core, x) := r.origin
  let req := (r.pkt.dst, r.pkt.vc, r.pkt.seq)
  match kind with
  | 0 =>
    if r.pkt.op = 8 || r.pkt.op = 9 then s
    else
      let s := s.pendTake core x r bs
      let s := if r.pkt.op = 1 then s.fillRemote core r bs else s
      s.modCtxAt ⟨core, x⟩ (fun c => { c with held := c.held.map (fun i =>
        if i.req == some req then { i with req := none, resp := if r.pkt.op = 1 then none else some (.data bs) } else i) })
  | 1 =>
    let isIt (c : Card) : Bool := c.id == x && c.waiting == some req
    s.modCore core (fun o => { o with cards := mapIf isIt (fun c => { c with waiting := none, data := c.data ++ bs }) o.cards })
  | 4 => s.fillRemote core r bs
  | 6 => s.modComm die core (fun c => { c with owed := c.owed.filter (· != r.pkt.dst) })
  | 7 =>
    s.modDie die (fun d => { d with users := SMap.upd {} d.users core (fun u => if u.req == some req then { u with req := none, got := some bs } else u) })
  | _ => s

/-- The context that a refused write-back is charged to (DEDUCED, log 17): one of its core running the job of the write. -/
def State.chargeTo (s : State) (core job : Nat) : Option Place :=
  let on (x : Nat) : Bool := let c := s.ctxAt ⟨core, x⟩; c.run != .free && c.t.job == job
  if on 0 then some ⟨core, 0⟩ else if on 1 then some ⟨core, 1⟩ else none

/-- A request ends with a refusal (R393): reason 2 refused, 3 revoked. What waits on it fails at the address that the request was made for; where a member
refuses a packet of its communicator, its area is not sealed for the job, which is a translation failure (R369, R198; DEDUCED, log 21). -/
def State.failReq (s : State) (die : Nat) (r : Replay) (reason : Nat) : State :=
  let s := s.modDie die (·.freeEntry r)
  let (kind, core, x) := r.origin
  let req := (r.pkt.dst, r.pkt.vc, r.pkt.seq)
  let cause := nackCause reason
  let status := if reason = 3 then 4 else 3
  let va := w64 r.tag.2
  match kind with
  | 0 =>
    s.modCtxAt ⟨core, x⟩ (fun c =>
      { c with held := c.held.map (fun i => if i.req == some req then { i with req := none, resp := some (.nack reason) } else i),
               pend := c.pend.filter (fun d => !d.isOf r),
               bfaults := c.bfaults ++ (c.pend.filter (·.isOf r)).map (fun d => { cause := cause, addr := d.va, aux := 0, slot := 5 }) })
  | 1 =>
    let fail (c : Card) : Card := { c with waiting := none, failed := if c.failed.isSome then c.failed else some (status, va) }
    s.modCore core (fun o => { o with cards := mapIf (fun c => c.id == x) fail o.cards })
  | 2 =>
    (match s.chargeTo core r.pkt.job with
     | some p => s.modCtxAt p (fun c => { c with bfaults := c.bfaults ++ [{ cause := cause, addr := va, aux := 0, slot := 5 }] })
     | none => s.event die 1 cause none r.pkt.job va 0)
  | 3 =>
    let (key, qp) := (core / 16, core % 16)
    (match ((s.comm die key).entries qp).find? (fun e => e.no == x && (e.phase == .queued || e.phase == .started)) with
     | some e => s.failEntry die key qp e (if reason = 2 && (s.comm r.pkt.dst key).valid then 1 else status) va
     | none => s)
  | 7 =>
    if r.pkt.op = 1 then
      s.modDie die (fun d => { d with users := SMap.upd {} d.users core (fun u => if u.req == some req then { u with req := none, refused := true } else u) })
    else if r.pkt.payload.length = 8 then s.event die 3 0x0E05 none r.pkt.job va (w64 x)
    else s
  | _ => s

/-- FABRIC_RSP (R390): read data or an old value. -/
def execFabricRsp (src dst vc : Nat) (s : State) : Out :=
  match s.incoming 0x10 src dst vc with
  | none => .next s
  | some (p, s) => match s.arrive dst p with
    | .error s => .next s
    | .ok s => match (s.die dst).entryOf p with
      | some r => .next (s.answer dst r p.payload)
      | none => .next s

/-- FABRIC_ACK (R390). -/
def execFabricAck (src dst vc : Nat) (s : State) : Out :=
  match s.incoming 0x11 src dst vc with
  | none => .next s
  | some (p, s) => match s.arrive dst p with
    | .error s => .next s
    | .ok s => match (s.die dst).entryOf p with
      | some r => .next (s.answer dst r [])
      | none => .next s

/-- The backoff of an entry (R390): 64 × 2^B cycles from now. -/
def Die.backOff (d : Die) (now : Word) (r : Replay) : Die :=
  let b := min 15 (d.backoff + r.resends)
  let isIt (e : Replay) : Bool := e.pkt.dst == r.pkt.dst && e.pkt.vc == r.pkt.vc && e.pkt.seq == r.pkt.seq && e.pkt.job == r.pkt.job
  { d with window := mapIf isIt (fun e => { e with resendAt := some (now + w64 (64 * 2 ^ b)) }) d.window }

/-- FABRIC_NACK (R383, R390): reason 0x01 schedules a resend, any other of R383 ends the request. -/
def execFabricNack (src dst vc : Nat) (s : State) : Out :=
  match s.incoming 0x12 src dst vc with
  | none => .next s
  | some (p, s) => match s.arrive dst p with
    | .error s => .next s
    | .ok s => match (s.die dst).entryOf p with
      | none => .next s
      | some r =>
        let reason := (p.payload.getD 0 0).toNat
        .next (if reason = 1 then s.modDie dst (fun d => d.backOff s.cycle r) else s.failReq dst r (if reason = 3 then 3 else 2))

/-! ## Resends (R390) -/

/-- An entry of the window by destination, VC and SEQ. -/
def Die.entryAt (d : Die) (dst vc seq : Nat) : Option Replay := d.window.find? (fun r => r.pkt.dst == dst && r.pkt.vc == vc && r.pkt.seq == seq)

/-- ANSWER_TIMEOUT: a request unanswered for 2^20 cycles begins its backoff. -/
def execAnswerTimeout (src dst vc seq : Nat) (s : State) : Out :=
  match (s.die src).entryAt dst vc seq with
  | none => .next s
  | some r =>
    if r.resendAt.isSome || (s.die src).halted r.pkt.job || (s.cycle - r.sentAt).toNat < 2 ^ 20 then .next s
    else .next (s.modDie src (fun d => d.backOff s.cycle r))

/-- BACKOFF_RESEND: after its backoff a packet and every later one of its pair are sent again, in order, by the route that holds now (R256); a sixteenth
resend ends the request instead. -/
def execBackoffResend (src dst vc seq : Nat) (s : State) : Out :=
  match (s.die src).entryAt dst vc seq with
  | none => .next s
  | some r =>
    match r.resendAt with
    | none => .next s
    | some t =>
      if s.cycle < t || (s.die src).halted r.pkt.job then .next s
      else if r.resends ≥ 15 then .next (s.failReq src r 2)
      else
        let later (e : Replay) : Bool := e.pkt.dst == dst && e.pkt.vc == vc && wrap ((e.pkt.seq : Int) - seq) 12 < 2048
        let again := ((s.die src).window.filter later).map (·.pkt)
        let s := s.modDie src (fun d =>
          { d with window := mapIf later (fun e => { e with resends := e.resends + 1, resendAt := none, sentAt := s.cycle }) d.window })
        .next (again.foldl (fun s p => s.send src p) s)

end Sys2Proof.Machine
end

