-- ==== Sys2Proof/Machine/Slots.lean ====
section
/-! DEFINITION. What an instruction names: its views, rows and ports (R58, R134, R162), the registers it reads and writes (R92, R93),
the literal (R87); the instruction of a slot of a bundle (R86). -/

namespace Sys2Proof

open Machine

/-! ## Views and rows -/

/-- The source operand bytes that a V or W instruction reads. -/
def Instr.srcViews : Instr → List (BitVec 8)
  | .vaddF _ _ a b | .vsubF _ _ a b | .vmulF _ _ a b | .vmaxF _ _ a b | .vminF _ _ a b
  | .vfma _ _ a b | .vfms _ _ a b | .vfnma _ _ a b
  | .vaddI _ _ a b | .vsubI _ _ a b | .vmulI _ _ a b | .vmulh _ _ a b | .vminI _ _ a b | .vmaxI _ _ a b
  | .vcmpEq _ _ a b | .vcmpNe _ _ a b | .vcmpLt _ _ a b | .vcmpLe _ _ a b => [a, b]
  | .vand _ a b | .vor _ a b | .vxor _ a b | .vshl _ a b | .vshr _ a b | .vsra _ a b | .vperm _ a b | .vscale _ a b => [a, b]
  | .vabs _ _ a | .vneg _ _ a | .vrecip _ _ a | .vrsqrt _ _ a | .vsqrt _ _ a | .vexp2 _ _ a | .vlog2 _ _ a
  | .vredsum _ _ a | .vredmax _ _ a | .vredmin _ _ a | .vscan _ _ a | .vcvt _ _ _ a => [a]
  | .vsel _ a _ | .vmov _ a | .vlane _ a _ | .vrot _ a _ | .vcvtNt6Unpack _ a | .vcvtNt6Pack _ a | .vexpoNt8 _ a | .vexpoNt6 _ a
  | .vunpackP _ a => [a]
  | _ => []

/-- The destination operand byte that a V or W instruction writes. -/
def Instr.dstView : Instr → Option (BitVec 8)
  | .vaddF _ d _ _ | .vsubF _ d _ _ | .vmulF _ d _ _ | .vmaxF _ d _ _ | .vminF _ d _ _
  | .vfma _ d _ _ | .vfms _ d _ _ | .vfnma _ d _ _
  | .vaddI _ d _ _ | .vsubI _ d _ _ | .vmulI _ d _ _ | .vmulh _ d _ _ | .vminI _ d _ _ | .vmaxI _ d _ _ => some d
  | .vand d _ _ | .vor d _ _ | .vxor d _ _ | .vshl d _ _ | .vshr d _ _ | .vsra d _ _ | .vperm d _ _ | .vscale d _ _ => some d
  | .vabs _ d _ | .vneg _ d _ | .vrecip _ d _ | .vrsqrt _ d _ | .vsqrt _ d _ | .vexp2 _ d _ | .vlog2 _ d _
  | .vredsum _ d _ | .vredmax _ d _ | .vredmin _ d _ | .vscan _ d _ | .vcvt _ _ d _ => some d
  | .vsel d _ _ | .vmov d _ | .vrot d _ _ | .vcvtNt6Unpack d _ | .vcvtNt6Pack d _ | .vexpoNt8 d _ | .vexpoNt6 d _
  | .vbcast d _ | .vins d _ _ | .vpackP d _ => some d
  | _ => none

/-- The rows an M-slot instruction takes from a read port: port, format, count (R162). -/
def Instr.takesRows : Instr → Option (Nat × Nat × Nat)
  | .wload p f c | .mrunMac p f _ c | .mrunAdm p f _ c | .mrunMax p f _ c | .mrunMin p f _ c => some (p.toNat, f.toNat, c.toNat + 1)
  | .accscale p _ _ => some (p.toNat, 0x0A, 1)
  | _ => none

/-! ## Registers (R92, R93) -/

/-- A register that takes part in the dependences of R92: a view stands as its operand byte (R54). -/
inductive RegRef where
  | g (n : Nat)
  | p (n : Nat)
  | h (n : Nat)
  | lc (n : Nat)
  | v (b : BitVec 8)
  deriving DecidableEq, Repr

/-- Two views overlap under a 64-register budget (R54). -/
def viewsMeet (a b : BitVec 8) : Bool :=
  if a.toNat / 64 = 3 || b.toNat / 64 = 3 || a.toNat / 64 = b.toNat / 64 then a == b else true

/-- Two register references meet; g0 and p0 never do (R93). -/
def RegRef.meets : RegRef → RegRef → Bool
  | .g a, .g b => a == b && a != 0
  | .p a, .p b => a == b && a != 0
  | .h a, .h b => a == b
  | .lc a, .lc b => a == b
  | .v a, .v b => viewsMeet a b
  | _, _ => false

/-- A port view. -/
def RegRef.port : RegRef → Bool
  | .v b => b.toNat / 64 == 3
  | _ => false

/-- References to numbered registers, to rows and columns, to eight predicates, to all loop counters. -/
def rG {n : Nat} (a : BitVec n) : RegRef := .g a.toNat
def rP {n : Nat} (a : BitVec n) : RegRef := .p a.toNat
def rH {n : Nat} (a : BitVec n) : RegRef := .h a.toNat
def rRow (a : BitVec 6) : RegRef := .v (BitVec.ofNat 8 a.toNat)
def rCol (a : BitVec 6) : RegRef := .v (BitVec.ofNat 8 (64 + a.toNat))
def rEight (hi : Bool) : List RegRef := (List.range 8).map (fun i => .p (i + if hi then 8 else 0))
def rLoops : List RegRef := [.lc 0, .lc 1, .lc 2, .lc 3]
/-- The row `k` rows after a row of the vector file. -/
def rRowAfter (a : BitVec 6) (k : Nat) : RegRef := rRow (a + BitVec.ofNat 6 k)
/-- The shape register after one. -/
def rNext (a : BitVec 4) : RegRef := rH (a + 1)

/-- The rows of a vector atomic: vD, and its index and compare rows (R222). -/
def vamoRows (v : BitVec 6) (cas idx : Bool) : List RegRef :=
  rRow v :: ((if cas || idx then [rRowAfter v 1] else []) ++ (if cas && idx then [rRowAfter v 2] else []))

/-- The registers an instruction reads (R92, R93), implicit operands included. -/
def Instr.reads : Instr → List RegRef
  -- C slot
  | .bz g _ | .bnz g _ | .blt g _ | .bge g _ | .callr g | .jr g | .loop _ g _ | .endtPost g _ | .post g _ => [rG g]
  | .bpany p _ | .bpall p _ => [rP p]
  | .ret => [.g 31]
  | .lbrk _ => rLoops
  -- A slot
  | .add _ a b _ _ | .sub _ a b _ _ | .mul _ a b _ _ | .divs _ a b _ _ => [rG a, rG b]
  | .mulh _ a b _ | .mulhz _ a b _ | .rems _ a b _ | .remz _ a b _ | .divz _ a b _ => [rG a, rG b]
  | .and _ a b | .or _ a b | .xor _ a b | .andn _ a b => [rG a, rG b]
  | .shl _ a b _ | .shr _ a b _ | .sra _ a b _ | .rotl _ a b _ => [rG a, rG b]
  | .min _ a b _ | .max _ a b _ | .minz _ a b _ | .maxz _ a b _ | .slt _ a b _ | .sltz _ a b _ | .seq _ a b _ => [rG a, rG b]
  | .sel _ a b c => [rG a, rG b, rG c]
  | .clz _ a _ | .ctz _ a _ | .popc _ a _ => [rG a]
  | .addi _ a _ | .andi _ a _ | .ori _ a _ | .xori _ a _ | .shli _ a _ | .shri _ a _ | .srai _ a _ | .lih _ a _ | .bext _ a _ _ => [rG a]
  | .bins d a _ _ => [rG d, rG a]
  | .csrw a _ | .csrrsW _ a _ | .csrrsS _ a _ | .csrrsC _ a _ => [rG a]
  | .tinv _ a b | .ctxsave _ a b | .ctxrest _ a b | .keyld _ a b => [rG a, rG b]
  | .asidinv _ a | .scrub _ a | .gsw _ a | .segmap _ a => [rG a]
  -- V and W slots
  | .vfma _ d a b | .vfms _ d a b | .vfnma _ d a b => [.v d, .v a, .v b]
  | .vsel d a p => [.v d, .v a, rP p]
  | .vbcast _ g => [rG g]
  | .vlane _ a b => [.v a, rG b]
  | .vins _ a b => [rG a, rG b]
  | .vrot _ a b => [.v a, rG b]
  | .pand _ a b | .por _ a b | .pxor _ a b => [rP a, rP b]
  | .pnot _ a | .pmov _ a | .pcount _ a => [rP a]
  | .vpackP _ hi => rEight hi
  -- L slot
  | .ldS8 _ b _ | .ldS16 _ b _ | .ldS32 _ b _ | .ldS64 _ b _ | .ldZ8 _ b _ | .ldZ16 _ b _ | .ldZ32 _ b _ => [rG b]
  | .st8 d b _ | .st16 d b _ | .st32 d b _ | .st64 d b _ => [rG d, rG b]
  | .vld _ b _ | .vldc _ b _ | .accrd _ b _ _ | .pref b _ | .lea _ b _ | .hld _ b _ => [rG b]
  | .vst v b _ | .accwr v b _ _ => [rRow v, rG b]
  | .vstc v b _ => [rCol v, rG b]
  | .vgath _ b i _ => [rG b, rRow i]
  | .vscat v b i _ => [rRow v, rG b, rRow i]
  | .pcfg _ _ h => [rH h]
  | .padv _ _ g _ => [rG g]
  | .hset h g _ => [rH h, rG g]
  | .hst h b _ => [rH h, rG b]
  -- X slot
  | .xcopy s d _ g _ _ _ | .xcoll s d _ g _ _ => [rH s, rH d, rG g]
  | .xgath s d _ g _ _ _ => [rH s, rNext s, rH d, rG g]
  | .xscat s d _ g _ _ _ => [rH s, rH d, rNext d, rG g]
  | .xfill d _ g _ _ _ _ => [rH d, rG g]
  | .kinc _ g _ | .kset _ g _ | .kwaitLt _ g _ | .kwaitGe _ g _ | .xtrig g | .xabort g => [rG g]
  | .mtins _ g _ | .mtdel _ g _ | .mtrd _ g _ => [rG g]
  | .mtregAdd _ g _ _ | .mtregMax _ g _ _ | .mtregMin _ g _ _ | .mtregCas _ g _ _ | .mtregRead _ g _ _ => [rG g]
  -- Y slot
  | .amoAdd a v _ _ _ _ | .amoAnd a v _ _ _ _ | .amoOr a v _ _ _ _ | .amoXor a v _ _ _ _ | .amoSwap a v _ _ _ _ => [rG a, rG v]
  | .amoMin a v _ _ _ _ _ | .amoMax a v _ _ _ _ _ => [rG a, rG v]
  | .amoCas a v c _ _ _ _ => [rG a, rG v, rG c]
  | .vamoAdd a v _ _ _ x | .vamoAnd a v _ _ _ x | .vamoOr a v _ _ _ x | .vamoXor a v _ _ _ x | .vamoSwap a v _ _ _ x => rG a :: vamoRows v false x
  | .vamoMin a v _ _ _ _ x | .vamoMax a v _ _ _ _ x => rG a :: vamoRows v false x
  | .vamoCas a v _ _ _ x => rG a :: vamoRows v true x
  | .bind a l _ => [rG a, rG l]
  | .unbind a => [rG a]
  | .preg p _ _ => [rG p]
  | .pwait t _ => [rG t]
  | .waita a v _ => [rG a, rG v]
  | .tdep a v _ _ | .tdepPark a v _ _ => [rG a, rRow v]
  | .tcopy a v m _ | .tcopyPark a v m _ | .ttake a v m _ | .ttakePark a v m _ => [rG a, rRow v, rG m]
  | i => i.srcViews.map .v

/-- The registers an instruction writes (R92, R93), implicit operands included. -/
def Instr.writes : Instr → List RegRef
  | .call _ | .callr _ => [.g 31]
  | .loop n _ _ | .loopi n _ _ => [.lc n.toNat]
  | .lbrk _ => rLoops
  | .add d _ _ _ _ | .sub d _ _ _ _ | .mul d _ _ _ _ | .divs d _ _ _ _ => [rG d]
  | .mulh d _ _ _ | .mulhz d _ _ _ | .rems d _ _ _ | .remz d _ _ _ | .divz d _ _ _ => [rG d]
  | .and d _ _ | .or d _ _ | .xor d _ _ | .andn d _ _ => [rG d]
  | .shl d _ _ _ | .shr d _ _ _ | .sra d _ _ _ | .rotl d _ _ _ => [rG d]
  | .min d _ _ _ | .max d _ _ _ | .minz d _ _ _ | .maxz d _ _ _ | .slt d _ _ _ | .sltz d _ _ _ | .seq d _ _ _ => [rG d]
  | .sel d _ _ _ | .clz d _ _ | .ctz d _ _ | .popc d _ _ => [rG d]
  | .addi d _ _ | .andi d _ _ | .ori d _ _ | .xori d _ _ | .shli d _ _ | .shri d _ _ | .srai d _ _ | .li d _ | .lih d _ _ => [rG d]
  | .bext d _ _ _ | .bins d _ _ _ | .csrr d _ | .csrrsW d _ _ | .csrrsS d _ _ | .csrrsC d _ _ => [rG d]
  | .tinv d _ _ | .asidinv d _ | .ctxsave d _ _ | .ctxrest d _ _ | .scrub d _ | .keyld d _ _ | .gsw d _ | .segmap d _ | .wfe d => [rG d]
  | .vlane d _ _ | .pcount d _ => [rG d]
  | .vcmpEq _ d _ _ | .vcmpNe _ d _ _ | .vcmpLt _ d _ _ | .vcmpLe _ d _ _ => [rP d]
  | .pand d _ _ | .por d _ _ | .pxor d _ _ | .pnot d _ | .pmov d _ => [rP d]
  | .vunpackP hi _ => rEight hi
  | .ldS8 d _ _ | .ldS16 d _ _ | .ldS32 d _ _ | .ldS64 d _ _ | .ldZ8 d _ _ | .ldZ16 d _ _ | .ldZ32 d _ _ | .lea d _ _ => [rG d]
  | .vld v _ _ | .vgath v _ _ _ | .accrd v _ _ _ => [rRow v]
  | .vldc v _ _ => [rCol v]
  | .hld h _ _ | .hset h _ _ => [rH h]
  | .amoAdd _ v _ _ _ _ | .amoAnd _ v _ _ _ _ | .amoOr _ v _ _ _ _ | .amoXor _ v _ _ _ _ | .amoSwap _ v _ _ _ _ => [rG v]
  | .amoMin _ v _ _ _ _ _ | .amoMax _ v _ _ _ _ _ | .amoCas _ v _ _ _ _ _ => [rG v]
  | .vamoAdd _ v _ _ _ _ | .vamoAnd _ v _ _ _ _ | .vamoOr _ v _ _ _ _ | .vamoXor _ v _ _ _ _ | .vamoSwap _ v _ _ _ _ => [rRow v]
  | .vamoMin _ v _ _ _ _ _ | .vamoMax _ v _ _ _ _ _ | .vamoCas _ v _ _ _ _ => [rRow v]
  | .pquery d _ | .pqueryPhase d _ | .waita _ _ d => [rG d]
  | .tdep _ _ m _ | .tdepPark _ _ m _ => [rG m]
  | .tcopy _ v m _ | .tcopyPark _ v m _ | .ttake _ v m _ | .ttakePark _ v m _ => [rRow v, rG m]
  | i => match i.dstView with | some d => [.v d] | none => []

/-- The ports an instruction names (R58, R162, R184): write ports from 8. -/
def Instr.portsNamed : Instr → List Nat
  | .pcfg w p _ | .prst w p | .prstU w p | .padv w p _ _ => [p.toNat + if w then 8 else 0]
  | i =>
    match i.takesRows with
    | some (p, _, _) => [p]
    | none => (i.srcViews.filter isPort).map portNo ++ (match i.dstView with | some d => if isPort d then [8 + d.toNat % 4] else [] | none => [])

/-- An instruction that reads the bundle's literal (R87). -/
def Instr.usesLit : Instr → Bool
  | .addi _ _ i | .andi _ _ i | .ori _ _ i | .xori _ _ i | .li _ i | .lih _ _ i => i == 0x2000
  | .loopi _ c _ => c == 0x1FFF
  | .xfill _ _ _ _ _ _ l | .kinc _ _ l | .kset _ _ l | .kwaitLt _ _ l | .kwaitGe _ _ l => l
  | _ => false

/-- A lane-wise guarded instruction (R90); every other one takes effect as a whole. -/
def Instr.laneGuard : Instr → Bool
  | .vld .. | .vldc .. | .vst .. | .vstc .. | .vgath .. | .vscat ..
  | .vamoAdd .. | .vamoMin .. | .vamoMax .. | .vamoAnd .. | .vamoOr .. | .vamoXor .. | .vamoSwap .. | .vamoCas .. => true
  | _ => false

end Sys2Proof

namespace Sys2Proof.Machine

/-- The class of a presence bit (R86, R9). -/
def slotClass (n : Nat) : Slot :=
  match n with
  | 0 => .C
  | 1 => .A
  | 2 => .V
  | 3 => .V
  | 4 => .M
  | 5 => .L
  | 6 => .X
  | _ => .Y

/-- The instruction of a slot. -/
def Iss.instr (i : Iss) (slot : Nat) : Except Reject Instr := decodeSlot (slotClass slot) (i.word slot)

/-- A slot takes effect under the guard (R90): the V and W slots and the lane-wise instructions always, others when e0 holds. -/
def Iss.acts (i : Iss) (slot : Nat) (n : Instr) : Bool :=
  slot == 2 || slot == 3 || n.laneGuard || (i.mask slot).getLsbD 0

/-! ## The ports a bundle names (R58, R162) -/

/-- A port that a bundle names: slot, port (write ports from 8), row width, rows taken. -/
abbrev Take := Nat × Nat × Nat × Nat

/-- The ports that a slot names (R58); a guarded-off M slot makes the single pop alone (R164). -/
def Iss.slotTakes (i : Iss) (slot : Nat) : List Take :=
  if !i.has slot then []
  else match i.instr slot with
    | .error _ => []
    | .ok n =>
      if slot = 2 || slot = 3 then
        ((n.srcViews.filter isPort).map (fun b => (slot, portNo b, 256, 1))) ++
        (match n.dstView with | some d => if isPort d then [(slot, 8 + d.toNat % 4, 256, 1)] else [] | none => [])
      else match n.takesRows with
        | some (p, f, c) => [(slot, p, matBytes f, if i.acts slot n then c else 1)]
        | none => []
/-- The ports that a bundle names. -/
def Iss.allTakes (i : Iss) : List Take := i.slotTakes 2 ++ i.slotTakes 3 ++ i.slotTakes 4

/-- The rows by which each port moves when the bundle completes. -/
def Iss.moves (i : Iss) : SMap Nat := i.allTakes.foldl (fun m t => SMap.put m t.2.1 (max t.2.2.2 (SMap.get 0 m t.2.1))) []

end Sys2Proof.Machine
end

