-- ==== Sys2Proof/Machine/Image.lean ====
section
/-! DEFINITION. Context images (R374, R375, R407, R408): their bytes, keys and checks, and the resumption of a task from a fault record
(R321). The save of `ctxsave` and of a pre-emption are one; so are the loads of `ctxrest` and of a resume grant. -/

namespace Sys2Proof.Machine

/-! ## Layout (R374) -/

/-- The number of vector rows of a budget (R23). -/
def imgRows (vb : Bool) : Nat := if vb then 64 else 32
/-- The offsets of the latches, the accumulator window and the stack bytes, and LEN (R374). -/
def imgLatchAt (vb : Bool) : Nat := 0x1100 + imgRows vb * 256
def imgAccAt (vb : Bool) : Nat := imgLatchAt vb + 2 * 16448
def imgStackAt (vb : Bool) (acn : Nat) : Nat := imgAccAt vb + acn * 16384
def imgLen (vb : Bool) (acn splen : Nat) : Nat := imgStackAt vb acn + splen + 16

/-- The header (R374), in plaintext. -/
def imgHeader (vb : Bool) (acb acn core splen slot : Nat) (sctr : Word) : List Byte :=
  padTo 256 (bytesOf 8 (2 ^ 32 + imgLen vb acn splen) ++ bytesOf 8 sctr.toNat ++
    bytesOf 8 (acn * 2 ^ 34 + acb * 2 ^ 30 + b2n vb * 2 ^ 29 + core * 2 ^ 19) ++ bytesOf 8 splen ++ bytesOf 8 slot)

/-- LEN as a header states it; nothing where no image has that length. -/
def imgLenOf (hdr : List Byte) : Option Nat :=
  let n := ofBytes (slice hdr 0 4)
  if imgLen false 0 0 ≤ n && n ≤ imgLen true 16 (2 ^ 18) then some n else none

/-- Words g0 to g31, p0 to p15, k0 to k31. -/
def Regs.mainBytes (r : Regs) : List Byte :=
  (range 0 32).flatMap (fun n => bytesOf 8 (r.rg n).toNat) ++ (range 0 16).flatMap (fun n => bytesOf 8 (SMap.get (0 : Word) r.p n).toNat) ++
  (range 0 32).flatMap (fun n => bytesOf 4 (r.rk n).toNat)

/-- The loop counters and frames: the counters at 0, at 16 the number of frames and their counters, latest first, at 32 start and end of
each. R374 gives the size of the area; what stands where in it is the model's (DESIGN CHOICE, log 40). -/
def Regs.loopBytes (r : Regs) : List Byte :=
  padTo 128 ((range 0 4).flatMap (fun n => bytesOf 4 (SMap.get 0 r.lc n)) ++
    padTo 16 (bytesOf 1 r.frames.length ++ r.frames.flatMap (fun f => bytesOf 1 f.lc)) ++
    r.frames.flatMap (fun f => bytesOf 8 f.start.toNat ++ bytesOf 8 f.last.toNat))

/-- The registers of R60, the card ticket count, and what the dispatcher keeps of the task (DESIGN CHOICE, log 40). -/
def Ctx.ctlBytes (c : Ctx) : List Byte :=
  let r := c.r
  let t := c.t
  let pk : Nat := match t.trc.pkt with | some (q, _) => 2 ^ 32 + q | none => 0
  let ix : Nat := match t.trc.pkt with | some (_, i) => i | none => 0
  padTo 128 ([r.tileCoord.toNat, r.taskId.toNat, r.jobId.toNat, r.coreX.toNat, r.slim.toNat, r.bankKey.toNat, r.aflags.toNat,
    r.faultInfo.toNat, r.cycX.toNat, c.ticket.toNat, t.flow + t.stg * 256 + t.trc.orig * 65536, pk, ix].flatMap (fun n => bytesOf 8 n))

/-- The binding table: base at 0, length with the handle in its low six bits at 8 (DESIGN CHOICE, log 40). -/
def Regs.bindBytes (r : Regs) : List Byte :=
  padTo 256 (r.binds.flatMap (fun b => bytesOf 8 b.base.toNat ++ bytesOf 8 (b.len.toNat / 64 * 64 + b.h % 64)))

/-- A phase under which the scale bytes of a row run in blocks of 32 elements (R74). -/
def scalePhase (sc : List Byte) : Nat :=
  match (range 1 32).find? (fun p => (range 0 sc.length).all (fun i =>
      i = 0 || (i + 32 - p) % 32 = 0 || sc.getD i 0 == sc.getD (i - 1) 0)) with
  | some p => p
  | none => 32
/-- A weight column: the raw row, and from byte 240 its scale bytes (DESIGN CHOICE, log 40). -/
def columnBytes (c : List Byte × List Byte) : List Byte :=
  if c.2.isEmpty then padTo 256 c.1
  else
    let p := scalePhase c.2
    let runs := (range 0 10).map (fun k => c.2.getD (if k = 0 then 0 else p + 32 * (k - 1)) 0)
    padTo 256 (padTo 240 c.1 ++ bytesOf 1 p ++ runs)
/-- The column of a format that 256 bytes spell. -/
def columnOf (fmt : Nat) (b : List Byte) : List Byte × List Byte :=
  let raw := b.take (matBytes fmt)
  let p := if matBytes fmt ≤ 240 then (b.getD 240 0).toNat else 0
  if p = 0 then (raw, []) else (raw, (range 0 (matElems fmt)).map (fun i => b.getD (241 + (i + 32 - p) / 32) 0))

/-- A weight latch: format, valid, role, then its columns (R159, R374). -/
def latchBytes (l : Latch) (active : Bool) : List Byte :=
  padTo 64 [BitVec.ofNat 8 l.fmt, BitVec.ofNat 8 (b2n l.valid), BitVec.ofNat 8 (b2n active), BitVec.ofNat 8 l.cols.length] ++
  padTo 16384 (l.cols.flatMap columnBytes)
def latchOf (b : List Byte) : Latch :=
  let fmt := (b.getD 0 0).toNat
  { fmt := fmt, valid := b.getD 1 0 != 0, cols := (range 0 (min 64 (b.getD 3 0).toNat)).map (fun i => columnOf fmt (slice b (64 + 256 * i) 256)) }

/-- The stack bytes an image holds: from g30 to the top, none where g30 lies outside the stack region (DESIGN CHOICE, log 40). -/
def Ctx.splen (c : Ctx) (ctx : Nat) : Nat :=
  let sp := vaOf (c.r.rg 30)
  let top := winScratch + stackTop ctx
  if vaOf c.r.slim ≤ sp && sp ≤ top && top - sp ≤ 2 ^ 18 then top - sp else 0

/-- The plaintext of an image from 0x100 to the tag (R374). -/
def State.imagePlain (s : State) (p : Place) (record : List Byte) : List Byte :=
  let c := s.ctxAt p
  let o := s.core p.core
  let vb := c.t.vb
  let own (l : Nat) : List Byte :=
    if vb || l = p.ctx then latchBytes (o.latch l) (if vb then o.active == (l == 1) else true) else List.replicate 16448 0
  let n := c.splen p.ctx
  padTo 2048 record ++ c.r.mainBytes ++ c.r.loopBytes ++ c.ctlBytes ++ c.r.bindBytes ++ (range 0 16).flatMap (fun h => (c.r.rh h).bytes) ++
  (range 0 (imgRows vb)).flatMap (fun r => (rowOf o.vfile vb p.ctx r).flatMap (fun l => bytesOf 4 l.toNat)) ++ own 0 ++ own 1 ++
  (range (c.t.acb * 64) (c.t.acn * 64)).flatMap (fun r => (range 0 64).flatMap (fun i => bytesOf 4 (o.accAt r i).toNat)) ++
  s.bytesAt (homeScratch p.core (stackTop p.ctx - n)) n

/-! ## Keys (R374, R375, R408) -/

/-- BIND of a bound key between a save and its restore (R408): no context. -/
def unbound : Nat := 1024
/-- The context key of a context (R374): the key bound to it, else the default of its job. -/
def Die.ctxKey (d : Die) (job id : Nat) : Option (Nat × KeySlot) :=
  match d.keys.find? (fun k => k.2.v && k.2.kind == 1 && k.2.job == job && !k.2.dflt && k.2.bind == id) with
  | some k => some k
  | none => d.keys.find? (fun k => k.2.v && k.2.kind == 1 && k.2.job == job && k.2.dflt)

/-- IV of an image: 32 zero bits, then SCTR (R374). -/
def imgIv (sctr : Word) : BitVec 96 := sctr.zeroExtend 96

/-- Seal an image (R374): header, ciphertext, tag. -/
def sealImage (key : BitVec 256) (sctr : Word) (hdr plain : List Byte) : List Byte :=
  let ct := padTo plain.length (Config.gcmCrypt key (imgIv sctr) plain)
  hdr ++ ct ++ bytesOf 16 (Config.gcmTag key (imgIv sctr) hdr ct).toNat

/-- The save of a context with a fault record (R374, R375): CTR + 1, the image with SCTR := CTR; a bound key becomes bound to no context
(R408). Nothing where no key serves. -/
def State.saveImage (s : State) (p : Place) (record : List Byte) : Option (State × List Byte) :=
  let die := coreDie p.core
  let c := s.ctxAt p
  match (s.die die).ctxKey (bits c.r.jobId 9 0) (coreId p.core p.ctx) with
  | none => none
  | some (slot, k) =>
    let n := k.ctr + 1
    let hdr := imgHeader c.t.vb c.t.acb c.t.acn (coreId p.core p.ctx) (c.splen p.ctx) slot n
    let img := sealImage k.key n hdr (s.imagePlain p record)
    some (s.modDie die (fun d => { d with keys := SMap.put d.keys slot { k with ctr := n, bind := if k.dflt then k.bind else unbound } }), img)

/-- The checks of an image (R375, R408): status 3, then 4, then 5, or its key slot and plaintext. `ctx` is the number of the target
context. -/
def State.openImage (s : State) (die ctx : Nat) (img : List Byte) : Except Nat (Nat × List Byte) :=
  match imgLenOf img with
  | none => .error 5
  | some len =>
    let hdr := slice img 0 256
    let sctr := wordOf (slice hdr 8 8)
    let w := wordOf (slice hdr 16 8)
    let sp := ofBytes (slice hdr 24 8)
    let sl := ofBytes (slice hdr 32 8)
    let k := SMap.get {} (s.die die).keys (sl % 4096)
    let ct := slice img 256 (len - 272)
    if !k.v || k.kind ≠ 1 || Config.gcmTag k.key (imgIv sctr) hdr ct ≠ BitVec.ofNat 128 (ofBytes (slice img (len - 16) 16)) then .error 3
    else
      let plain := padTo ct.length (Config.gcmCrypt k.key (imgIv sctr) ct)
      let job := bits (wordOf (slice plain 0xA90 8)) 9 0
      if k.job ≠ job then .error 3
      else if sctr < k.ctr then .error 4
      else
        let vb := bit w 29
        let acn := bits w 38 34
        let ok := ofBytes (slice hdr 4 4) == 1 && bits w 63 39 == 0 && bits w 18 0 == 0 && sl < 4096 && sp ≤ 2 ^ 18 &&
          bits w 33 30 + acn ≤ 16 && len == imgLen vb acn sp && (hdr.drop 40).all (fun b => b == 0) && bits w 28 28 == ctx
        if ok then .ok (sl, plain) else .error 5

/-! ## Resuming from a record (R321) -/

/-- A record that `tret` takes for a bad one (R321): V = 0, LVL not task, a reserved field not zero, in the shape of a port entry too (R4, R5,
R55). -/
def recordBad (b : List Byte) : Bool :=
  let w0 := wordOf (slice b 0 8)
  let w1 := wordOf (slice b 8 8)
  let zero (off n : Nat) : Bool := (slice b off n).all (fun x => x == 0)
  !bit w1 63 || bits w1 62 61 ≠ 0 || bits w0 63 56 ≠ 0 || bits w1 57 56 ≠ 0 || bits w1 39 35 ≠ 0 || bits w1 31 16 ≠ 0 ||
  !zero 0x30 16 || !zero 0x70 16 || !zero 0x340 192 || !zero 0x7C0 64 || bits (wordOf (slice b 0x28 8)) 63 28 ≠ 0 || bits (wordOf (slice b 0x28 8)) 15 12 ≠ 0 ||
  (range 0 12).any (fun n => (Shape.ofBytes (slice b (0x400 + 80 * n) 64)).unassigned)

/-- The ports of a record (R318). -/
def recordPorts (b : List Byte) : SMap Port :=
  let st := wordOf (slice b 0x28 8)
  (range 0 12).map (fun n =>
    let e := slice b (0x400 + 80 * n) 80
    let h := Shape.ofBytes (e.take 64)
    let cs := (range 0 4).map (fun i => ofBytes (slice e (64 + 4 * i) 4))
    let bound := bit st (16 + n)
    (n, { shape := if bound then h else {}, bound := bound, exh := bit st n, pos := if bound then posOf h cs else 0 }))

/-- The latches of the bundle at an address, as a context stands (R6, R85). -/
def State.issAt (s : State) (p : Place) (baddr : Word) : Iss :=
  let r := (s.ctxAt p).r
  let head := s.headAt p baddr
  let n := ones 8 (head.extractLsb' 0 8).toNat
  let words := lanesOf (n + b2n (head.getLsbD 9)) (s.codeBytes p (vaOf baddr + 4) (4 * (n + b2n (head.getLsbD 9))))
  let vf := (s.core p.core).vfile
  let i : Iss := { live := true, baddr := baddr, head := head, words := words, lit := words.getD n 0, lat := r, sync := r, latV := vf, syncV := vf }
  { i with guard := r.rp i.gpred }

/-- Resume the task of a context from a record (R321): the ports, LEVEL, FAULT_INFO. A completed bundle goes on at its successor, its ports advanced
(DEDUCED, log 25); the bundle of a fetch fault, which no record has latched, is fetched again (DEDUCED, log 60); any other is reissued. The
scratchpad bounds follow the segment (R373). -/
def State.resumeAt (s : State) (p : Place) (b : List Byte) : State :=
  let w1 := wordOf (slice b 8 8)
  let baddr := wordOf (slice b 0 8)
  let cmask := bits w1 55 48
  let cause := bits w1 15 0
  let s := s.modCtxAt p (fun c =>
    { c with y := { c.y with level := 0 },
             r := { c.r with ports := recordPorts b,
                             faultInfo := if bit w1 59 then w64 (2 ^ 19 + bits w1 34 32 * 2 ^ 16 + cause) else c.r.faultInfo } })
  let i := { s.issAt p baddr with guard := wordOf (slice b 0x40 8) }
  let next := successor baddr i.head
  let leave := s.leaves p baddr next
  let fetch := cmask == 0 && (cause / 256 == 1 || cause / 256 == 2)
  let s :=
    if cmask = bits w1 47 40 then
      s.modCtxAt p (fun c => { c with r := { c.r with pc := next, ports := advanced i.moves c.r.ports }, off := leave, held := none })
    else s.modCtxAt p (fun c => { c with r := { c.r with pc := baddr }, off := fetch && cause == 0x0103,
                                         held := if fetch then none else some { live := true, baddr := baddr, att := bit w1 58, rcd := b } })
  s.loadBounds p (vaOf (s.ctxAt p).r.pc)

/-! ## Loading (R375, R408) -/

/-- The words a list of bytes spells, as a register file. -/
def fileOf (n : Nat) (b : List Byte) : SMap Word := (range 0 n).zip (wordsOf n b)

/-- The registers of an image (R374). -/
def imageRegs (b : List Byte) : Regs :=
  let m := slice b 0x800 512
  let lp := slice b 0xA00 128
  let w (i : Nat) : Word := wordOf (slice b (0xA80 + 8 * i) 8)
  let nf := min 4 (lp.getD 16 0).toNat
  let binds := (range 0 16).filterMap (fun i =>
    let l := wordOf (slice b (0xB00 + 16 * i + 8) 8)
    if l = 0 then none else some { base := wordOf (slice b (0xB00 + 16 * i) 8), len := w64 (l.toNat / 64 * 64), h := l.toNat % 64 })
  { g := fileOf 32 m, p := fileOf 16 (m.drop 256), k := (range 0 32).zip (lanesOf 32 (m.drop 384)),
    lc := (range 0 4).map (fun n => (n, ofBytes (slice lp (4 * n) 4))),
    frames := (range 0 nf).map (fun i => { lc := (lp.getD (17 + i) 0).toNat, start := wordOf (slice lp (32 + 16 * i) 8), last := wordOf (slice lp (40 + 16 * i) 8) }),
    h := (range 0 16).map (fun n => (n, Shape.ofBytes (slice b (0xC00 + 64 * n) 64))), binds := binds,
    tileCoord := w 0, taskId := w 1, jobId := w 2, coreX := w 3, slim := w 4, bankKey := w 5, aflags := w 6, faultInfo := w 7, cycX := w 8 }

/-- What an image says of its task to the dispatcher (DESIGN CHOICE, log 40). -/
def imageTask (w : Word) (b : List Byte) : Task :=
  let c (i : Nat) : Word := wordOf (slice b (0xA80 + 8 * i) 8)
  let f := c 10
  let pkt := if bit (c 11) 32 then some (bits (c 11) 31 0, (c 12).toNat) else none
  { job := bits (c 2) 9 0, flow := bits f 7 0, stg := bits f 15 8, vb := bit w 29, acb := bits w 33 30, acn := bits w 38 34,
    trc := { coord := c 0, job := bits (c 2) 9 0, flow := bits f 7 0, stg := bits f 15 8, orig := bits f 17 16, tid := (c 1).toNat, pkt := pkt } }

/-- A detached set that a resumed task takes back as its counters (R207), with the faults and flags that came for it meanwhile (R84, R198). -/
def State.takeBack (s : State) (p : Place) : State :=
  let die := coreDie p.core
  let t := (s.ctxAt p).t
  match (s.die die).sets.find? (fun d => d.2.used && d.2.back && d.2.job == t.job && d.2.tid == t.trc.tid) with
  | none => s
  | some (i, d) =>
    let s := s.modDie die (fun d => { d.renameSet (.detached die i) (.task die t.job t.trc.tid) with sets := SMap.put d.sets i {} })
    (s.modCtxAt p (fun c => { c with r := { c.r with k := d.k, aflags := c.r.aflags ||| d.aflags }, bfaults := c.bfaults ++ d.bfaults })).kChanged die

/-- Load a checked image into a context (R375, R253): registers, rows, latches, accumulator window and stack; CTR + 1; a bound key is
bound to the context. `b` is the plaintext, `slot` the key slot, `w` header word 0x10. -/
def State.loadImage (s : State) (p : Place) (slot : Nat) (w : Word) (splen : Nat) (b : List Byte) : State :=
  let die := coreDie p.core
  let t := imageTask w b
  let fl := (s.die die).flowOf t.job t.flow
  let t := { t with fprio := (match fl with | some f => f.fprio | none => 0), pre := (match fl with | some f => f.pre | none => false),
                    part := (match (s.die die).partOf t.job with | some (i, _) => i | none => 0), grantNo := (s.die die).grants }
  let s := s.invalidate p.core (fun _ => true)
  let s := s.modDie die (fun d =>
    let k := SMap.get {} d.keys slot
    { d with keys := SMap.put d.keys slot { k with ctr := k.ctr + 1, bind := if k.dflt then k.bind else coreId p.core p.ctx }, grants := d.grants + 1 })
  let at_ (o : Nat) : Nat := o - 256
  let s := s.modCore p.core (fun o =>
    let vf := (range 0 (imgRows t.vb)).foldl (fun m r =>
      ((range 0 64).zip (lanesOf 64 (slice b (at_ (0x1100 + 256 * r)) 256))).foldl (fun m e =>
        match vkey t.vb p.ctx r e.1 with | some k => SMap.put m k e.2 | none => m) m) o.vfile
    let lat (l : Nat) : List Byte := slice b (at_ (imgLatchAt t.vb + 16448 * l)) 16448
    let o := { o with vfile := vf, tenant := some t.job, keyed := some t.job }
    let o := if t.vb then { (o.setLatch 0 (latchOf (lat 0))).setLatch 1 (latchOf (lat 1)) with active := (lat 1).getD 2 0 != 0 }
             else o.setLatch p.ctx (latchOf (lat p.ctx))
    (range 0 (t.acn * 64)).foldl (fun o r =>
      ((range 0 64).zip (lanesOf 64 (slice b (at_ (imgAccAt t.vb + 256 * r)) 256))).foldl (fun o e => o.setAcc (t.acb * 64 + r) e.1 e.2) o) o)
  let s := if ((s.core p.core).ctx (1 - p.ctx)).run = .free then
      s.modCtxAt ⟨p.core, 1 - p.ctx⟩ (fun c => { c with r := { c.r with bankKey := (imageRegs b).bankKey } }) else s
  let s := s.homeWrite (homeScratch p.core (stackTop p.ctx - splen)) (slice b (at_ (imgStackAt t.vb t.acn)) splen)
  let s := s.modCtxAt p (fun c => { c with r := imageRegs b, t := t, ticket := BitVec.ofNat 32 (ofBytes (slice b (0xA80 + 72) 4)), run := .running, held := none, pend := [],
                                           bfaults := [], jobsDone := [], off := false })
  s.takeBack p

/-! ## The record of a save without a fault (R407) -/

/-- The fault record of a save without a fault: cause 0x0000, V = 1, what the held bundle has completed, or the next bundle whole (R217,
R317, R407). `keep` leaves a phaser wait or a parked request attached (R353). -/
def State.saveRecord (s : State) (p : Place) (keep : Bool) : List Byte :=
  let c := s.ctxAt p
  match c.held with
  | none => faultRecord (s.issAt p c.r.pc) 0 c.t.vb p.ctx 0 0 0 0
  | some i =>
    if i.rcd.isEmpty then faultRecord { i with att := i.att && keep } 0 c.t.vb p.ctx 0 0 0 0
    else
      let w := (wordOf (slice i.rcd 8 8)).toNat
      overlay i.rcd 8 (bytesOf 8 (nbits w 63 60 * 2 ^ 60 + (if keep then nbits w 58 58 * 2 ^ 58 else 0) + nbits w 55 40 * 2 ^ 40))

end Sys2Proof.Machine
end

