-- ==== Sys2Proof/Machine/Dispatcher.lean ====
section
/-! DEFINITION. The packet processor (R29 to R32), grants (R37 to R39, R344), the launch sequencer (R17 to R21, R254), growth of sub-queues
(R40), pre-emption (R44, R407) and resume grants (R408), withdrawal and addition of cores (R344). -/

namespace Sys2Proof.Machine

/-! ## User queues (R29) -/

/-- The RUN bit follows the indices and the halts (R29). -/
def UserQ.settle (u : UserQ) : UserQ :=
  let halts := u.status &&& 0xE
  { u with status := if halts = 0 && u.ridx < u.widx then 1 else halts }
/-- Change a user queue. -/
def State.modUq (s : State) (die q : Nat) (f : UserQ → UserQ) : State :=
  s.modDie die (fun d => { d with users := SMap.put d.users q (f (SMap.get {} d.users q)).settle })
/-- Halt a queue (R29): the bit, and the event of a queue that was not halted before. -/
def State.haltUq (s : State) (die q b : Nat) : State :=
  let u := SMap.get {} (s.die die).users q
  let s := s.modUq die q (fun u => { u with status := u.status ||| w64 (2 ^ b) })
  if u.status &&& 0xE = 0 then s.event die 3 0x0E04 none u.job 0 u.ridx else s
/-- A write index beyond UQ_RIDX + SIZE (R29). -/
def UserQ.over (u : UserQ) : Bool := u.ridx.toNat + u.size.toNat < u.widx.toNat

/-- UQ_WIDX_WRITE (R29): ignored unless greater. -/
def execUqWidxWrite (die q : Nat) (v : Word) (s : State) : Out :=
  let u := SMap.get {} (s.die die).users q
  if !(s.die die).users.has q || v ≤ u.widx then .next s
  else
    let s := s.modUq die q (fun u => { u with widx := v })
    .next (if (SMap.get {} (s.die die).users q).over then s.haltUq die q 2 else s)

/-- UQ_HALT_CLEAR (R29): the W1C write of the monitor, of a halt bit that is set; once the last is clear the queue is evaluated afresh, and a packet
whose records it had begun to write is read again. -/
def execUqHaltClear (die q : Nat) (mask : Word) (s : State) : Out :=
  if !(s.die die).users.has q || (SMap.get {} (s.die die).users q).status &&& mask &&& 0xE = 0 then .next s
  else
    let clear (u : UserQ) : UserQ :=
      let u := { u with status := u.status &&& ~~~(mask &&& 0xE) }
      if u.status &&& 0xE = 0 then { u with got := none, req := none, refused := false, live := mapIf (fun l => !l.consumed) (fun l => { l with stale := true }) u.live } else u
    let s := s.modUq die q clear
    let u := SMap.get {} (s.die die).users q
    .next (if u.status &&& 0xE = 0 && u.over then s.haltUq die q 2 else s)

/-! ## The packet processor (R30, R31) -/

/-- Whom a queue's reads and writes are made for: the tables of its job (R31). -/
def UserQ.xc (u : UserQ) (die : Nat) : XCtx :=
  { core := sysCore die, ctx := 0, job := u.job, asid := u.asid, ptroot := u.ptroot, level := 0, splo := 0, sphi := 0, slim := 0 }
/-- Slot address of a packet index (R29). -/
def UserQ.slotVa (u : UserQ) (idx : Nat) : Nat := u.base.toNat + idx % max 1 u.size.toNat * 64

/-- A malformed packet (R30, R31). -/
def packetBad (d : Die) (job : Nat) (ws : List Word) : Bool :=
  let w0 := wd ws 0
  let ty := bits w0 7 0
  bits w0 63 27 ≠ 0 || bits w0 15 13 ≠ 0 || bits w0 12 11 = 3 || (ty ≠ 1 && ty ≠ 2) || bits (wd ws 3) 63 56 ≠ 0 || bits (wd ws 4) 63 56 ≠ 0 ||
  bits (wd ws 4) 2 0 ≠ 0 || (ty = 1 && (d.stageOf job (bits w0 23 16) (bits w0 26 24)).isNone)

/-- The extents of a packet's coordinates (R31): none in a dimension whose HI lies below its LO. -/
def pktExt (ws : List Word) (i : Nat) : Nat :=
  let f (w : Word) : Nat := bits w (16 * i + 15) (16 * i)
  if f (wd ws 2) < f (wd ws 1) then 0 else f (wd ws 2) - f (wd ws 1) + 1
/-- The number of tasks of a packet; a fence-only one creates none. -/
def pktTotal (ws : List Word) : Nat := if bits (wd ws 0) 7 0 = 1 then pktExt ws 0 * pktExt ws 1 * pktExt ws 2 * pktExt ws 3 else 0
/-- The n-th coordinate of a packet, index 0 varying fastest (R31). -/
def pktCoord (ws : List Word) (n : Nat) : Word :=
  let e := pktExt ws
  let c (i k : Nat) : Nat := (bits (wd ws 1) (16 * i + 15) (16 * i) + k) * 2 ^ (16 * i)
  w64 (c 0 (n % e 0) + c 1 (n / e 0 % e 1) + c 2 (n / (e 0 * e 1) % e 2) + c 3 (n / (e 0 * e 1 * e 2)))

/-- The clusters Cl of a job on a die (R31). -/
def Die.clOf (d : Die) (job : Nat) : List Nat := match d.partOf job with | some (_, p) => p.clusters | none => []

/-- The record of the n-th coordinate (R27, R30). -/
def pktRecord (job q : Nat) (l : LivePkt) : TaskRec :=
  let w0 := wd l.pkt 0
  { coord := pktCoord l.pkt l.tasks, argp := wd l.pkt 3, home := 0, job := job, flow := bits w0 23 16, orig := 0, stg := bits w0 26 24,
    inl := [wd l.pkt 6, wd l.pkt 7, 0, 0], pkt := some (q, l.idx) }

/-- Records of the packet in hand, one after another, until one must wait for a slot (R31). The clusters Cl are taken as the first record is
written. -/
def State.writeRecords (s : State) (die q : Nat) : Nat → LivePkt → State × LivePkt
  | 0, l => (s, l)
  | n + 1, l =>
    let u := SMap.get {} (s.die die).users q
    let l' := if l.tasks = 0 then { l with cls := (s.die die).clOf u.job } else l
    if l'.cls.isEmpty then (s, l)
    else match s.putOrWait die (l'.cls.getD (l.tasks % l'.cls.length) 0) (pktRecord u.job q l) with
      | some s => s.writeRecords die q n { l' with tasks := l.tasks + 1 }
      | none => (s, l)

/-- A packet is consumed (R31): TYPE becomes 0x00, UQ_RIDX moves on. The store waits while a write to a remote window cannot go (R390), and where its
page takes no write it is dropped (DESIGN CHOICE, log 61). -/
def State.consumePkt (s : State) (die q : Nat) (l : LivePkt) : State :=
  let u := SMap.get {} (s.die die).users q
  let x := u.xc die
  let va := u.slotVa l.idx
  let went := match s.unitXl x va .wr with
    | some t => s.unitWrite die x va t [0] (7, q, l.idx)
    | none => some s
  match went with
  | none => s
  | some s => s.modUq die q (fun u =>
      { u with ridx := u.ridx + 1, got := none, live := mapIf (fun m => m.idx == l.idx && !m.gone) (fun _ => { l with consumed := true }) u.live })

/-- The packet in hand goes on: records as slots allow, then consumption. -/
def State.goOn (s : State) (die q : Nat) (l : LivePkt) : State :=
  let total := pktTotal l.pkt
  let (s, l) := s.writeRecords die q (total - l.tasks) l
  let s := s.modUq die q (fun u => { u with live := mapIf (fun m => m.idx == l.idx && !m.gone) (fun _ => l) u.live })
  if total ≤ l.tasks then s.consumePkt die q l else s

/-- Invalidate the data caches of a die for a job (R31, ACQ). -/
def State.acquireJob (s : State) (die job : Nat) : State :=
  ((s.cores.map (·.1)).filter (fun k => k / 128 == die)).foldl (fun s k => s.invalidate k (fun l => l.job == job)) s

/-- The processor has the packet at UQ_RIDX (R31): the bytes it has read, or it reads them, through a remote window by a request; `none` where it
must wait or halts. -/
def State.readPkt (s : State) (die q : Nat) : Option (List Byte) × State :=
  let u := SMap.get {} (s.die die).users q
  let x := u.xc die
  let va := u.slotVa u.ridx.toNat
  match u.got with
  | some bs => (some bs, s)
  | none =>
    if u.refused then (none, (s.modUq die q (fun u => { u with refused := false })).haltUq die q 3)
    else if u.req.isSome then (none, s)
    else match s.unitXl x va .rd with
      | none => (none, s.haltUq die q 3)
      | some t =>
        if t.rc == .remote then
          let (dst, rkey, off) := remParts t.loc
          match s.flushSpan (sysCore die) t.loc 64 with
          | (false, s) => (none, s)
          | (true, s) =>
            let p : Packet := { op := 1, job := u.job, offs := off, steer := false, vc := 0, seq := 0, dst := dst, src := 0, rkey := rkey, rlen := 64,
                                payload := [] }
            match s.sendReq die p (7, q, u.ridx.toNat) (0, va) with
            | some (s, n) => (none, s.modUq die q (fun u => { u with req := some (dst, 0, n) }))
            | none => (none, s)
        else
          let bs := s.dieBytes die t.loc 64
          (some bs, s.modUq die q (fun u => { u with got := some bs }))

/-- The packet processor of a queue at its packet of a type (R31). A packet in whose midst it was halted is read again and goes on at its next task, in the
clusters taken before (R29; DESIGN CHOICE, log 92). -/
def State.processor (s : State) (die q ty : Nat) : State :=
  let d := s.die die
  let u := SMap.get {} d.users q
  if u.status &&& 0xE ≠ 0 || u.widx ≤ u.ridx || d.halted u.job then s
  else match u.live.find? (fun l => l.idx == u.ridx.toNat && !l.consumed && !l.stale && !l.gone) with
    | some l => if bits (wd l.pkt 0) 7 0 = ty then s.goOn die q l else s
    | none =>
      match s.readPkt die q with
      | (none, s) => s
      | (some bs, s) =>
        let d := s.die die
        let ws := wordsOf 8 bs
        let w0 := wd ws 0
        if packetBad d u.job ws then (s.modUq die q (fun u => { u with got := none })).haltUq die q 1
        else if bits w0 7 0 ≠ ty then s
        else if ty = 1 && (d.clOf u.job).isEmpty then s
        else if bit w0 8 && u.live.any (fun l => (l.gone || l.idx < u.ridx.toNat) && l.done < l.tasks) then s
        else
          let s := if bit w0 9 then s.acquireJob die u.job else s
          let l : LivePkt := match u.live.find? (fun l => l.idx == u.ridx.toNat && !l.consumed && !l.gone) with
            | some l => { l with pkt := ws, stale := false }
            | none => { idx := u.ridx.toNat, pkt := ws, tasks := 0, consumed := false }
          (s.modUq die q (fun u => { u with live := u.live.filter (fun m => m.idx != l.idx || m.gone) ++ [l] })).goOn die q l

/-- LAUNCH (R31). -/
def execLaunch (die q : Nat) (s : State) : Out := .next (s.processor die q 1)
/-- FENCE_ONLY (R31). -/
def execFenceOnly (die q : Nat) (s : State) : Out := .next (s.processor die q 2)

/-- PACKET_COMPLETION (R32): the release at SCOPE, then CVAL at CADDR, or the event of a write that failed; a refusal by a remote window raises it
when it comes. -/
def execPacketCompletion (die q idx : Nat) (s : State) : Out :=
  let u := SMap.get {} (s.die die).users q
  match u.live.find? (fun l => l.idx == idx && l.consumed && l.tasks ≤ l.done) with
  | none => .next s
  | some l =>
    if (s.die die).halted u.job then .next s else
    let w0 := wd l.pkt 0
    let cores := (s.cores.map (·.1)).filter (fun k => k / 128 == die)
    let scope := if bits w0 12 11 ≠ 0 then 4 else 2
    let s := if bit w0 10 then cores.foldl (fun s k => (s.writeBackAll k (fun l => l.job == u.job)).publish k scope) s else s
    if bit w0 10 && cores.any (fun k => s.unacked k scope) then .next s
    else
      let x := u.xc die
      let ca := bits (wd l.pkt 4) 55 0
      let done (s : State) : State := s.modUq die q (fun u => { u with live := u.live.filter (fun m => m.idx != idx || m.gone) })
      if ca = 0 then .next (done s)
      else match s.unitXl x ca .wr with
        | none => .next ((done s).event die 3 0x0E05 none u.job (wd l.pkt 4) (w64 idx))
        | some t => match s.unitWrite die x ca t (bytesOf 8 (wd l.pkt 5).toNat) (7, q, idx) with
          | some s => .next (done s)
          | none => .next s

/-! ## Grants (R37 to R39, R343, R344) -/

/-- Free contexts (R37): neither context runs a 64-register task and no grant reserves the core. -/
def Core.isFree (c : Core) (x : Nat) : Bool :=
  let o := c.ctx (1 - x)
  (c.ctx x).run == .free && o.run != .reserving && !(o.run != .free && o.t.vb)

/-- Disjoint accumulator windows (R26). -/
def disjoint (acb acn acb' acn' : Nat) : Bool := acn == 0 || acn' == 0 || acb + acn ≤ acb' || acb' + acn' ≤ acb
/-- A free context can take a stage (R37). -/
def Core.canTake (c : Core) (x : Nat) (t : Stage) : Bool :=
  let o := c.ctx (1 - x)
  o.run == .free || t.vb || disjoint t.acb t.acn o.t.acb o.t.acn

/-- The head of a sub-queue may go to a context: a resume record only to one of its number (R408). -/
def SubQ.offers (q : SubQ) (x : Nat) : Bool :=
  match q.recs with
  | [] => false
  | r :: _ => match r.resume with | some (_, _, n) => n == x | none => true

/-- The stages of the active job of a core's partition that a context can take (R343), with flow and stage number. -/
def State.takeable (s : State) (core x job : Nat) : List (Nat × Nat × Stage) :=
  ((s.die (coreDie core)).flows.filter (fun f => f.job == job)).flatMap (fun f =>
    ((f.stages.zip (List.range f.stages.length)).filter (fun t => (s.core core).canTake x t.1)).map (fun t => (f.flow, t.2, t.1)))

/-- Score(s, cl) (R37). -/
def score (q : SubQ) (t : Stage) : Nat := q.recs.length * 4096 / max 1 q.size * (t.sprio + 1)

/-- The element with the largest value, the earlier by flow and stage among equals. -/
def bestOf (l : List (Nat × Nat × Nat)) : Option (Nat × Nat × Nat) :=
  l.foldl (fun b e => match b with
    | none => some e
    | some o => if o.1 < e.1 || (o.1 == e.1 && (e.2.1 < o.2.1 || (e.2.1 == o.2.1 && e.2.2 < o.2.2))) then some e else some o) none

/-- The candidate of a cluster (R37). -/
def State.candidate (s : State) (core x job cl : Nat) : Option SubQ :=
  let d := s.die (coreDie core)
  let l := (s.takeable core x job).filterMap (fun t =>
    let q := d.subq job t.1 t.2.1 cl
    if q.offers x then some (score q t.2.2, t.1, t.2.1) else none)
  (bestOf l).map (fun e => d.subq job e.2.1 e.2.2 cl)

/-- The forced pick (R37, R38): the stage of largest Starve from 768, its fullest sub-queue, the core's own cluster first among equals. -/
def State.forced (s : State) (core x job : Nat) : Option SubQ :=
  let d := s.die (coreDie core)
  let cl := coreCluster core % 8
  let offers (t : Nat × Nat × Stage) : List SubQ := ((range 0 8).map (fun c => d.subq job t.1 t.2.1 c)).filter (·.offers x)
  let l := ((s.takeable core x job).filter (fun t => 768 ≤ t.2.2.starve && !(offers t).isEmpty)).map (fun t => (t.2.2.starve, t.1, t.2.1))
  match bestOf l with
  | none => none
  | some e =>
    ((range 0 8).map (fun c => d.subq job e.2.1 e.2.2 c)).foldl (fun b q =>
      if !q.offers x then b
      else match b with
        | none => some q
        | some o => if o.recs.length < q.recs.length || (o.recs.length == q.recs.length && q.cl == cl) then some q else some o) none

/-- The oldest record of the overflow area for a sub-queue moves into its free slot (R345). -/
def Die.refill (d : Die) (q : SubQ) : Die :=
  let q := d.subq q.job q.flow q.stg q.cl
  let o := SMap.get {} d.overflow q.job
  match findIdx (fun r : Nat × TaskRec => r.1 == q.cl && r.2.flow == q.flow && r.2.stg == q.stg) 0 o.recs with
  | some (i, r) =>
    if q.full then d
    else { d.putSubq { q with recs := q.recs ++ [r.2] } with overflow := SMap.put d.overflow q.job { o with recs := o.recs.eraseIdx i } }
  | none => d

/-- Free a save slot (R407). -/
def Die.freeSlot (d : Die) (part slot : Nat) : Die :=
  { d with parts := SMap.upd {} d.parts part (fun p => { p with used := p.used.filter (· != slot) }) }
/-- The physical address and the home of a save slot (R407). -/
def Part.slotPa (p : Part) (slot : Nat) : Nat := bits p.save 51 20 * 2 ^ 20 + slot * 2 ^ 20

/-- RESUME_RESTORE (R408): the slot is checked as `ctxrest` checks it, then loaded, freed, and the bundle reissued from the record; or
refused, the task counted as ended. -/
def State.restoreSlot (s : State) (p : Place) (part slot : Nat) : State :=
  let die := coreDie p.core
  let pa := (SMap.get {} (s.die die).parts part).slotPa slot
  let h := homePa (die / 8) pa
  let hdr := s.bytesAt h 256
  let img := s.bytesAt h ((imgLenOf hdr).getD 0)
  let t := (s.ctxAt p).t
  let s := s.modDie die (fun d => d.freeSlot part slot)
  let checked := if (imgLenOf hdr).isNone then .error 5 else s.openImage die p.ctx img
  match checked with
  | .error _ =>
    let s := s.modDie die (fun d =>
      { d.packetEnd t.trc with sets := d.sets.map (fun e => (e.1, if e.2.used && e.2.job == t.job && e.2.tid == t.trc.tid then { e.2 with back := false } else e.2)) })
    (s.freeCtx p).event die 5 0x0F06 none t.job (w64 pa) 0
  | .ok (k, plain) => (s.loadImage p k (wordOf (slice hdr 16 8)) (ofBytes (slice hdr 24 4)) plain).resumeAt p (slice plain 0 2048)

/-- The grant of the head of a sub-queue to a context (R37 to R39, R42, R345, R408). -/
def State.grant (s : State) (p : Place) (part : Nat) (q : SubQ) : State :=
  let die := coreDie p.core
  match q.recs, (s.die die).stageOf q.job q.flow q.stg with
  | r :: rest, some t =>
    let f := (s.die die).flowOf q.job q.flow
    let no := (s.die die).grants
    let s := s.modDie die (fun d =>
      let d := (d.putSubq { q with recs := rest, grown := if rest.isEmpty then 0 else q.grown }).modPool q.job (fun n => if rest.isEmpty then n + q.grown else n)
      { (d.modStage q.job q.flow q.stg (fun t => { t with starve := 0 })).refill q with grants := no + 1 })
    let busy := ((s.core p.core).ctx (1 - p.ctx)).run != .free
    let task : Task := { job := q.job, flow := q.flow, stg := q.stg, vb := t.vb, acb := t.acb, acn := t.acn, fprio := (f.map (·.fprio)).getD 0,
                         pre := (f.map (·.pre)).getD false, part := part, grantNo := no, hostLaunch := r.orig == 0, trc := r }
    let s := s.modCtxAt p (fun c => { c with t := task, run := if t.vb && busy then .reserving else .granted, held := none, bfaults := [], pend := [] })
    let s := if r.sup && r.supCause = 0x0E06 then s.reportLosses die q.job else s
    match r.resume with
    | some (pt, slot, _) => if t.vb && busy then s else s.restoreSlot p pt slot
    | none => s
  | _, _ => s

/-- No task of another job has run on the core since its last scrub (R348). -/
def Core.cleanFor (c : Core) (job : Nat) : Bool := c.tenant == none || c.tenant == some job

/-- The partition and active job under which a free context may be granted once its cluster is awake (R37, R342, R343, R348, R353). -/
def State.freeFor (s : State) (p : Place) : Option (Nat × Nat) :=
  let d := s.die (coreDie p.core)
  match d.partOfCore p.core with
  | some (i, part) =>
    let job := bits part.w0 57 48
    if isSystem p.core || p.ctx > 1 || !(s.core p.core).isFree p.ctx || !(s.core p.core).cleanFor job || d.halted job then none else some (i, job)
  | none => none

/-- The same for a context that may be granted now: its cluster is awake (R403). -/
def State.grantable (s : State) (p : Place) : Option (Nat × Nat) :=
  if s.awakeCl (coreCluster p.core) then s.freeFor p else none

/-- What a grant finds when its context may not be granted now: it calls a sleeping cluster (R403). `pick` says whether a record waits for the context. -/
def State.grantWaits (s : State) (p : Place) (pick : Nat → Bool) : State :=
  match s.freeFor p with
  | some (_, job) => if pick job then s.callCl (coreCluster p.core) else s
  | none => s

/-- The sub-queue that a context takes from (R37): the forced pick, else the candidate of its core's own cluster. -/
def State.pickFor (s : State) (p : Place) (job : Nat) : Option SubQ :=
  match s.forced p.core p.ctx job with
  | some q => some q
  | none => s.candidate p.core p.ctx job (coreCluster p.core % 8)

/-- The sub-queue that a core idle for 3,600 cycles takes from (R37): the candidate of the first other cluster that has one. -/
def State.stealFor (s : State) (p : Place) (job : Nat) : Option SubQ :=
  let c := s.core p.core
  let idle := c.c0.run == .free && c.c1.run == .free && 3600 ≤ (s.cycle - c.idleSince).toNat
  if !idle || (s.pickFor p job).isSome then none
  else (range 1 7).findSome? (fun i => s.candidate p.core p.ctx job ((coreCluster p.core % 8 + i) % 8))

/-- A free context of the die that a grant would serve now comes before this one, by core and context (R344). -/
def State.servedLater (s : State) (p : Place) : Bool :=
  let serves (q : Place) : Bool := match s.grantable q with
    | some (_, job) => (s.pickFor q job).isSome || (s.stealFor q job).isSome
    | none => false
  (range (coreDie p.core * 128) (p.core - coreDie p.core * 128 + 1)).any (fun k =>
    (range 0 2).any (fun x => (k < p.core || x < p.ctx) && serves ⟨k, x⟩))

/-- DISPATCH_GRANT (R37, R344). -/
def execDispatchGrant (core ctx : Nat) (s : State) : Out :=
  let p : Place := ⟨core, ctx⟩
  match s.grantable p with
  | none => .next (s.grantWaits p (fun job => (s.pickFor p job).isSome))
  | some (part, job) => match s.pickFor p job with
    | some q => .next (if s.servedLater p then s else s.grant p part q)
    | none => .next s

/-- IDLE_STEAL (R37): a core idle for 3,600 cycles takes a record from the first other cluster with a candidate. -/
def execIdleSteal (core ctx : Nat) (s : State) : Out :=
  let p : Place := ⟨core, ctx⟩
  match s.grantable p with
  | none => .next (s.grantWaits p (fun job => (s.stealFor p job).isSome))
  | some (part, job) => match s.stealFor p job with
    | some q => .next (if s.servedLater p then s else s.grant p part q)
    | none => .next s

/-! ## Bank keys (R349) -/

/-- The cluster key of a job, drawn once for each job and cluster. -/
def Die.clusterKey (d : Die) (die job cl : Nat) : BitVec 32 × Die :=
  if d.ckeys.has (job * 8 + cl) then (SMap.get 0 d.ckeys (job * 8 + cl), d)
  else
    let k := Config.bankKeys die (BitVec.ofNat 32 d.drawn)
    (k, { d with ckeys := SMap.put d.ckeys (job * 8 + cl) k, drawn := d.drawn + 1 })

/-- A job takes a core: its cluster key, and a scratchpad key drawn for the core, in both contexts. -/
def State.loadKeys (s : State) (core job : Nat) : State :=
  let die := coreDie core
  let (hi, d) := (s.die die).clusterKey die job (coreCluster core % 8)
  let lo := Config.bankKeys die (BitVec.ofNat 32 d.drawn)
  let key : Word := hi ++ lo
  let put (c : Ctx) : Ctx := { c with r := { c.r with bankKey := key } }
  (s.modDie die (fun _ => { d with drawn := d.drawn + 1 })).modCore core (fun c => { c with c0 := put c.c0, c1 := put c.c1, keyed := some job })

/-- The monitor loads the bank key of the active job of a core's partition (R348): on a free core, scrubbed and not keyed since. -/
def State.takeKeys (s : State) (core : Nat) : State :=
  let c := s.core core
  match (s.die (coreDie core)).partOfCore core with
  | some (_, part) => if c.c0.run = .free && c.c1.run = .free && c.tenant.isNone && c.keyed.isNone then s.loadKeys core (bits part.w0 57 48) else s
  | none => s

/-! ## The launch sequencer (R17 to R21) -/

/-- Entry state (R17, R19 to R21, R159, R349, R373), and the acquire of a task not launched by the host (R254). The latched format of the cleared latches is
0, as everything of them (DESIGN CHOICE, log 79: R159 lets it change only by `wload`). -/
def State.sequence (s : State) (p : Place) : State :=
  let die := coreDie p.core
  let c := s.ctxAt p
  let t := c.t
  match (s.die die).stageOf t.job t.flow t.stg with
  | none => s
  | some st =>
    let s := if t.hostLaunch then s else s.acquireCore p.core
    let s := if (s.core p.core).keyed = some t.job then s else s.loadKeys p.core t.job
    let sp := winScratch + stackTop p.ctx - 32
    let r : Regs :=
      { g := [(1, if t.trc.argp = 0 then w64 sp else t.trc.argp), (30, w64 sp)], pc := st.entry, tileCoord := t.trc.coord, taskId := w64 t.trc.tid,
        jobId := w64 t.job, slim := w64 (winScratch + stackTop p.ctx - st.stk * 4096), bankKey := (s.ctxAt p).r.bankKey }
    let s := s.modCtxAt p (fun c => { c with r := r, y := { c.y with level := 0 }, run := .running, held := none, pend := [], bfaults := [], ticket := 0, jobsDone := [], off := false })
    let s := s.homeWrite (homeScratch p.core (stackTop p.ctx - 32)) (padTo 32 (t.trc.inl.flatMap (fun w => bytesOf 8 w.toNat)))
    let s := s.modCore p.core (fun o =>
      let keep (e : Nat × Lane) : Bool := !(t.vb || (32 * p.ctx * 64 ≤ e.1 && e.1 < (32 * p.ctx + 32) * 64))
      let inAcc (e : Nat × Lane) : Bool := st.acz && st.acb * 4096 ≤ e.1 && e.1 < (st.acb + st.acn) * 4096
      let o := { o with vfile := o.vfile.filter keep, acc := o.acc.filter (fun e => !inAcc e), tenant := some t.job }
      if t.vb then { o with latch0 := {}, latch1 := {}, active := false } else o.setLatch p.ctx {})
    s.loadBounds p (vaOf st.entry)

/-- LAUNCH_SEQUENCE (R18, R39): a granted context takes its entry state; a reserving one once the core's other context has ended. -/
def execLaunchSequence (core ctx : Nat) (s : State) : Out :=
  let p : Place := ⟨core, ctx⟩
  let c := s.ctxAt p
  let ready := c.run == .granted || (c.run == .reserving && ((s.core core).ctx (1 - ctx)).run == .free)
  if !ready || (s.die (coreDie core)).halted c.t.job then .next s
  else match c.t.trc.resume with
    | some (part, slot, _) => .next (s.restoreSlot p part slot)
    | none => .next (s.sequence p)

/-! ## Growth (R40, R42) -/

/-- The contexts of a die that run a task of a flow, one granted included, and are not stopped at a fault (R40). -/
def State.runners (s : State) (die job flow : Nat) : List Ctx :=
  ((s.cores.filter (fun k => k.1 / 128 == die && k.1 % 128 < 64)).flatMap (fun k => [k.2.c0, k.2.c1])).filter (fun c =>
    ((c.run == .running && c.y.level == 0) || c.run == .granted) && c.t.job == job && c.t.flow == flow)

/-- The full sub-queue that a flow's blocked posts grow (R40): the smallest, then the lower stage and cluster. -/
def State.growPick (s : State) (die job flow : Nat) : Option SubQ :=
  let l := s.runners die job flow
  let blocks (e : Nat × Nat) : Bool := (s.die die).blocks job flow e.1 e.2
  let waits := l.map (fun c => if c.run = .running then (c.held.bind (·.blocked)).filter blocks else none)
  if l.isEmpty || waits.any (·.isNone) then none
  else
    let qs := (waits.filterMap (fun w => w.map (fun e => (s.die die).subq job flow e.1 e.2))).filter (·.full)
    qs.foldl (fun b q => match b with
      | none => some q
      | some o => if q.size < o.size || (q.size == o.size && (q.stg < o.stg || (q.stg == o.stg && q.cl < o.cl))) then some q else some o) none

/-- QUEUE_GROWTH (R40, R42): every flow whose running contexts are all blocked posting grows one sub-queue, or raises flow overflow,
each time anew (DESIGN CHOICE, log 93). -/
def execQueueGrowth (die : Nat) (s : State) : Out :=
  let flows := ((s.die die).flows.filter (fun f => !(s.die die).halted f.job)).map (fun f => (f.job, f.flow))
  .next (flows.foldl (fun s f => match s.growPick die f.1 f.2 with
    | none => s
    | some q => match s.growSubq die q.job q.flow q.stg q.cl with
      | some s => s
      | none => (s.event die 2 0x0E03 none q.job 0 (supAux die q.flow q.stg 0)).growFailed die q.job q.flow q.stg q.cl) s)

/-! ## Pre-emption (R44, R217, R253, R407) -/

/-- The parked Drift requests of a context, and whether one is still on its way. -/
def State.driftAt (s : State) (p : Place) : List (Nat × Nat × DReq) × Bool :=
  let mine (r : DReq) : Bool := r.core == p.core && r.ctx == p.ctx
  let all : List (Nat × Nat × Slice) := s.dies.flatMap (fun d => d.2.slices.map (fun e => (d.1, e.1, e.2)))
  (all.flatMap (fun e => (e.2.2.parked.filter mine).map (fun r => (e.1, e.2.1, r))),
   (match (s.ctxAt p).held with | some i => i.sent && i.resp.isNone && i.req.any (fun r => r.2.1 == 6) && !all.any (fun e => e.2.2.parked.any mine) | none => false))

/-- A context at whose bundle a save can be made (R217, R316): at task level, with no fault due, the fetch fault past the end of a section among them
(R109), and no request outstanding that a save awaits. -/
def State.savable (s : State) (p : Place) : Bool :=
  let c := s.ctxAt p
  let met := s.dies.any (fun d => d.2.phasers.any (fun f => f.waits.any (fun w => w.core == p.core && w.ctx == p.ctx && w.met)))
  c.run == .running && c.y.level == 0 && !c.off && c.bfaults.isEmpty && c.pend.isEmpty && !(s.driftAt p).2 && !met &&
  (match c.held with
   | none => true
   | some i => (i.req.isNone || i.att) && i.resp.isNone && (!i.sent || i.att) && !i.postDone && i.amoOld.isNone)

/-- A `psw` that has signalled and is withdrawn: its member keeps the target for the task, which then only waits (R229). -/
def State.keepOwed (s : State) (p : Place) : State :=
  match (s.ctxAt p).held with
  | none => s
  | some i => match i.phase, i.target with
    | some obj, some t =>
      let mine (m : Member) : Bool := match i.instr 7 with | .ok (.psw b) => m.isAt p.core b | _ => false
      let put (f : Phaser) : Phaser := { f with members := mapIf mine (fun m => { m with owed := some ((s.ctxAt p).t.trc.tid, t) }) f.members }
      s.modDie (objDie obj) (fun d => { d with phasers := mapIf (fun f => f.obj == obj) put d.phasers })
    | _, _ => s

/-- Withdraw what a context waits on (R217, R286). -/
def State.withdrawAll (s : State) (p : Place) : State :=
  let s := s.keepOwed p
  let s := (s.driftAt p).1.foldl (fun s e => s.withdraw e.1 e.2.1 e.2.2.pnum.toNat) s
  let s := { s with watches := s.watches.filter (fun w => !(w.core == p.core && w.ctx == p.ctx)) }
  s.modCtxAt p (fun c => { c with held := c.held.map (fun i => { i with sent := false, att := false, resp := none, req := none, target := none, sy := 0, phase := none, blocked := none, posting := none }) })

/-- The pushes of a held bundle whose A to M slots have completed are made before its context is saved (R316, R407; log 23). -/
def State.pushHeld (s : State) (p : Place) : State :=
  match (s.ctxAt p).held with
  | some i => (s.pushAll (s.xctxAt p) i).modCtxAt p (fun c => { c with held := c.held.map (fun i => { i with push := [] }) })
  | none => s

/-- The array and the engine cards of a context complete, and its stores become visible at domain scope (R159, R203, R253), with those of others of its job
that it may have read from a buffer of the die (R241): whether nothing is outstanding any more. -/
def State.quiet (s : State) (p : Place) : Bool × State :=
  let die := coreDie p.core
  let mine (w : BufW) : Bool := w.job == (s.ctxAt p).t.job
  let s := ((s.drainAll p.core).finishCards p).releaseCore p.core 4
  let s := ((if isSystem p.core then s else s.drainClusterAll (coreCluster p.core) mine)).drainStationAll die mine
  let waits := (s.die die).station.any mine || (s.die die).window.any (fun r => r.origin.1 == 2 && r.pkt.job == (s.ctxAt p).t.job)
  (!(s.core p.core).cards.any (fun c => c.ctx == p.ctx) && !s.unacked p.core 4 && !waits, s)

/-- The record that waits with the highest FPRIO for which no context of the die is free (R44): the FPRIO. -/
def State.waitingPrio (s : State) (die : Nat) (part : Part) (job : Nat) : Option Nat :=
  let d := s.die die
  let cores := (range 0 64).filter (fun c => bit part.w1 c)
  let qs := d.subqs.filter (fun q => q.job == job && !q.recs.isEmpty)
  let starved (q : SubQ) : Bool := match d.stageOf job q.flow q.stg with
    | some t => !cores.any (fun c =>
        let o := s.core (die * 128 + c)
        (range 0 2).any (fun x => o.isFree x && o.canTake x t && q.offers x))
    | none => false
  ((qs.filter starved).filterMap (fun q => (d.flowOf job q.flow).map (·.fprio))).foldl (fun b n => match b with | none => some n | some m => some (max m n)) none

/-- The context that is pre-empted (R44): the lowest FPRIO, then the latest grant, then the lowest core. -/
def State.victim (s : State) (die : Nat) (part : Part) (job prio : Nat) : Option Place :=
  let ps := ((range 0 64).filter (fun c => bit part.w1 c)).flatMap (fun c => [(⟨die * 128 + c, 0⟩ : Place), ⟨die * 128 + c, 1⟩])
  let ok (p : Place) : Bool := let c := s.ctxAt p; c.run == .running && c.t.job == job && c.t.pre && c.t.fprio < prio
  (ps.filter ok).foldl (fun b p => match b with
    | none => some p
    | some o =>
      let t := (s.ctxAt p).t
      let u := (s.ctxAt o).t
      if t.fprio < u.fprio || (t.fprio == u.fprio && u.grantNo < t.grantNo) then some p else some o) none

/-- Save a context into the lowest free slot of its partition (R407): image, resume record, free context. The fault of a card that failed meanwhile is
taken first (R198). -/
def State.preemptSave (s : State) (die i : Nat) (part : Part) (p : Place) : State :=
  match (range 0 128).find? (fun n => !part.used.contains n) with
  | none => s
  | some slot =>
    let job := (s.ctxAt p).t.job
    if ((s.die die).ctxKey job (coreId p.core p.ctx)).isNone then s
    else match (s.pushHeld p).quiet p with
      | (false, s) => s
      | (true, s) => match (if (s.ctxAt p).bfaults.isEmpty then s.detach p true false else none) with
        | none => s
        | some s =>
          let s := s.withdrawAll p
          match s.saveImage p (s.saveRecord p false) with
          | none => s
          | some (s, img) =>
            let s := s.homeWrite (homePa (die / 8) (part.slotPa slot)) img
            let t := (s.ctxAt p).t
            let r := { t.trc with resume := some (i, slot, p.ctx), sup := false }
            let s := s.modDie die (fun d =>
              let q := d.subq t.job t.flow t.stg (coreCluster p.core % 8)
              let d := d.putSubq { q with recs := r :: q.recs }
              { d with parts := SMap.put d.parts i { part with used := part.used ++ [slot] } })
            s.freeCtx p

/-- A context that was pre-empted takes the record for which it was (R44; DEDUCED, log 87): of the stages of that FPRIO as R37 picks, first in its own
cluster. -/
def State.grantWaiting (s : State) (die i : Nat) (p : Place) (job prio : Nat) : State :=
  let cl := coreCluster p.core % 8
  let d := s.die die
  let ts := (s.takeable p.core p.ctx job).filter (fun t => (d.flowOf job t.1).map (·.fprio) == some prio)
  let pick (c : Nat) : Option SubQ :=
    (bestOf (ts.filterMap (fun t => let q := d.subq job t.1 t.2.1 c; if q.offers p.ctx then some (score q t.2.2, t.1, t.2.1) else none))).map
      (fun e => d.subq job e.2.1 e.2.2 c)
  match (range 0 8).findSome? (fun n => pick ((cl + n) % 8)) with
  | some q => s.grant p i q
  | none => s

/-- PREEMPT (R44, R407): of each partition with a save area. -/
def execPreempt (die : Nat) (s : State) : Out :=
  .next ((s.die die).parts.foldl (fun s e =>
    let part := SMap.get {} (s.die die).parts e.1
    let job := bits part.w0 57 48
    if !bit part.w0 63 || !bit part.save 63 || (s.die die).halted job then s
    else match s.waitingPrio die part job with
      | none => s
      | some prio => match s.victim die part job prio with
        | none => s
        | some p =>
          if s.savable p then
            let s := s.preemptSave die e.1 part p
            if (s.ctxAt p).run = .free then s.grantWaiting die e.1 p job prio else s
          else s) s)

/-! ## Withdrawal and addition of cores (R342, R344) -/

/-- The condition of R342 on queue memory, for a die whose partition holds `nc` clusters and whose job has these further stages. -/
def Die.queueFits (d : Die) (p : Part) (job nc : Nat) (more : List Stage) : Bool :=
  let stages := (d.flows.filter (fun f => f.job == job)).flatMap (·.stages) ++ more
  stages.foldl (fun n t => n + t.cap * nc) 0 + bits p.w3 47 32 + bits p.w3 63 48 + 16 ≤ bits p.w3 15 0

/-- CORES_BIT_SET (R342, R344): refused where a new cluster would break the condition of R342; the core's idle time counts from now. -/
def execCoresBitSet (die part core : Nat) (s : State) : Out :=
  let d := s.die die
  let p := SMap.get {} d.parts part
  let p' := { p with w1 := p.w1 ||| w64 (2 ^ (core % 64)) }
  if !d.queueFits p (bits p.w0 57 48) p'.clusters.length [] && p'.clusters.length ≠ p.clusters.length then .next s
  else .next ((s.modDie die (fun d => { d with parts := SMap.put d.parts part p' })).modCore (die * 128 + core % 64) (fun c => { c with idleSince := s.cycle }))

/-- CORES_BIT_CLEAR (R344): the core is withdrawn; a task on it ends normally. -/
def execCoresBitClear (die part core : Nat) (s : State) : Out :=
  .next (s.modDie die (fun d => { d with parts := SMap.upd {} d.parts part (fun p => { p with w1 := p.w1 &&& ~~~(w64 (2 ^ (core % 64))) }) }))

end Sys2Proof.Machine
end

