-- ==== Sys2Proof/Machine/Power.lean ====
section
/-! DEFINITION. Power states (R401 to R404) and storage errors (R405, R406). Times are in cycles of 1.8 GHz (R12). -/

namespace Sys2Proof.Machine

/-! ## Conditions (R401) -/

/-- The core keys of a cluster. -/
def clusterCores (die cl : Nat) : List Nat := range (die * 128 + cl * 8) 8

/-- No work in a cluster (R401, P1). -/
def State.idleCluster (s : State) (die cl : Nat) : Bool :=
  let quiet (c : Ctx) : Bool := c.run == .free || c.run == .stopped || c.run == .held
  let mine (k : Nat) : Bool := (clusterCores die cl).contains k
  (clusterCores die cl).all (fun k => let c := s.core k; quiet c.c0 && quiet c.c1 && c.cards.isEmpty && c.queue.isEmpty) &&
  !(s.die die).subqs.any (fun q => q.cl == cl && !q.recs.isEmpty) &&
  !s.watches.any (fun w => mine w.core) &&
  !s.dies.any (fun d => d.2.slices.any (fun e => e.2.parked.any (fun r => mine r.core)))

/-- Cluster SRAM that stays out of retention (R401): a pipeline area, a slot set or a punt ring lies in it. -/
def State.exempt (s : State) (die cl : Nat) : Bool :=
  let d := s.die die
  d.areas.any (fun e => e.1 % 8 == cl && e.2 != 0) ||
  d.progs.any (fun g => g.slots.any (fun z => ssV z && carrCl (g.arr (ssCstg z)) == cl) ||
                        g.rings.any (fun r => bit (wd r 0) 0 && bits (wd r 0) 3 1 == cl))

/-- The MiB of a cluster's arrays that go into retention (R401, R402): scratchpads and accumulator memories, and cluster SRAM. -/
def State.retained (s : State) (die cl : Nat) : Nat := if s.exempt die cl then 18 else 42

/-- No context of a cluster holds a task (R401, P3). -/
def State.vacant (s : State) (die cl : Nat) : Bool :=
  (clusterCores die cl).all (fun k => (s.core k).c0.run == .free && (s.core k).c1.run == .free)

/-- The wake bound of P2 in ns (R402), by the MiB in retention. -/
def boundP2 (mib : Nat) : Nat := 1500 + 800 * mib
/-- The latency tolerance that the owner wrote (R399). -/
def State.tolerance (s : State) (die : Nat) : Nat := (s.md (die / 8)).lattol.toNat

/-- Change a cluster of a die. -/
def State.modCl (s : State) (die cl : Nat) (f : Cluster → Cluster) : State := s.modCluster (die * 8 + cl) f

/-! ## Entering (R401, R402) -/

/-- POWER_P1_ENTER. -/
def execPowerP1Enter (die cl : Nat) (s : State) : Out :=
  let c := s.cluster (die * 8 + cl)
  if cl < 8 && c.power == .p0 && !c.waking && !c.due && s.idleCluster die cl && 100 ≤ s.tolerance die then
    .next (s.modCl die cl (fun c => { c with power := .p1, since := s.cycle }))
  else .next s

/-- POWER_P2_ENTER: after 100 µs; dirty data-cache lines are written back first, and the data caches are invalid on exit (R404). -/
def execPowerP2Enter (die cl : Nat) (s : State) : Out :=
  let c := s.cluster (die * 8 + cl)
  let mib := s.retained die cl
  if cl < 8 && c.power == .p1 && !c.waking && !c.due && s.idleCluster die cl && w64 180000 ≤ s.cycle - c.since && boundP2 mib ≤ s.tolerance die then
    let s := (clusterCores die cl).foldl (fun s k => s.invalidate k (fun _ => true)) s
    .next (s.modCl die cl (fun c => { c with power := .p2, since := s.cycle, size := mib, mib := 0 }))
  else .next s

/-- POWER_P3_ENTER: every cluster of the die in P2, and none of their contexts holds a task. -/
def execPowerP3Enter (die : Nat) (s : State) : Out :=
  let ok (cl : Nat) : Bool :=
    let c := s.cluster (die * 8 + cl)
    c.power == .p2 && !c.waking && !c.due && s.vacant die cl && boundP2 c.size + 2000 ≤ s.tolerance die
  if !(s.die die).p3 && (range 0 8).all ok then .next (s.modDie die (fun d => { d with p3 := true })) else .next s

/-! ## Waking (R402 to R404) -/

/-- The wake bound of the state that a cluster is in, in ns (R402). -/
def State.bound_ (s : State) (die cl : Nat) : Nat :=
  let c := s.cluster (die * 8 + cl)
  match c.power with
  | .p0 => 0
  | .p1 => 100
  | .p2 => boundP2 c.size + if (s.die die).p3 then 2000 else 0

/-- A sleeping cluster begins its exit: an entry in progress stops at its next MiB boundary, and the exit re-encodes what was re-encoded (R403, R404). -/
def State.startWake (s : State) (die cl : Nat) : State :=
  let c := s.cluster (die * 8 + cl)
  if cl ≥ 8 || c.power == .p0 || c.waking then s
  else
    let extra := if (s.die die).p3 then 3600 else 0
    let s := s.modDie die (fun d => { d with p3 := false })
    if c.power == .p1 then s.modCl die cl (fun c => { c with waking := true, mib := 0, ready := s.cycle })
    else
      let gone := (s.cycle - c.since).toNat
      let done := min c.size ((gone + 2699) / 2700)
      let stop := max gone (done * 2700)
      s.modCl die cl (fun c => { c with waking := true, mib := done, ready := c.since + w64 (stop + done * 1440 + extra) })

/-- A cluster is wanted in P0 (R402, R403): an event waits for it, it has work, or the tolerance is below the bound of its state. -/
def State.wanted (s : State) (die cl : Nat) : Bool :=
  (s.cluster (die * 8 + cl)).due || !s.idleCluster die cl || s.tolerance die < s.bound_ die cl

/-- CLUSTER_WAKE (R403). -/
def execClusterWake (die cl : Nat) (s : State) : Out := .next (if s.wanted die cl then s.startWake die cl else s)

/-- A new tolerance of the clusters of a module: those whose bound exceeds it leave their state (R402). -/
def State.retolerate (s : State) (md : Nat) (v : Word) : State :=
  let s := s.modMd md (fun m => { m with lattol := v })
  (range (md * 8) 8).foldl (fun s die => (range 0 8).foldl (fun s cl => if s.tolerance die < s.bound_ die cl then s.startWake die cl else s) s) s

/-- WAKE_COMPLETE: the cluster is in P0, its data caches invalid after P2 (R404). -/
def execWakeComplete (die cl : Nat) (s : State) : Out :=
  let c := s.cluster (die * 8 + cl)
  if c.waking && c.ready ≤ s.cycle then
    let s := if c.power == .p2 then (clusterCores die cl).foldl (fun s k => s.invalidate k (fun _ => true)) s else s
    .next (s.modCl die cl (fun c => { c with power := .p0, waking := false, due := false, mib := 0, since := s.cycle }))
  else .next s

/-! ## Storage errors (R405, R406) -/

/-- UNIT of a home in an error record (R406). -/
def unitOf (a : Nat) : Nat :=
  if 2 ^ 62 ≤ a then (a - 2 ^ 62) / 2 ^ 32 % 128
  else if 2 ^ 61 ≤ a then 64 + (a - 2 ^ 61) / 2 ^ 32 % 8
  else if nbits a 51 48 = 1 then 88
  else 72 + (Config.hbmSlice (a % 2 ^ 56)).toNat

/-- The word at a location is poisoned, with a machine check event and a record for a unit of the die (R405, R406). -/
def State.machineCheck (s : State) (die addr cause unit pa : Nat) : State :=
  let w := addr / 8 * 8
  let s : State := { s with poison := w :: s.poison.filter (· != w) }
  (s.event die 5 cause none 0 (w64 pa) 0).errorRecord die unit cause pa

/-- An uncorrectable error in the line in which a core holds a location (R405): a clean line is fetched again at the next access; of a dirty one the word
is lost, and poisoned at its home. -/
def State.lineError (s : State) (die core addr : Nat) : State :=
  match s.lineAt core addr with
  | none => s
  | some l =>
    let same (m : Line) : Bool := m.loc / 64 == addr / 64
    if l.dirty = 0 then s.modCore core (fun c => { c with dcache := c.dcache.filter (fun m => !same m) })
    else
      let lost := maskFrom (addr / 8 * 8 % 64) 8
      let s := s.modCore core (fun c => { c with dcache := mapIf same (fun m => { m with dirty := m.dirty &&& ~~~lost }) c.dcache })
      s.machineCheck die addr 0x0F01 (coreLocal core) (if isRemote addr then 0 else addr % 2 ^ 52)

/-- PATROL_READ (R405): a corrected word is written back as it was and counted; an uncorrectable one is poisoned at its home, with a machine
check event and a record; a line or block of a cache that cannot be corrected is fetched again, or its word lost. -/
def execPatrolRead (die addr : Nat) (found : PatrolFind) (s : State) : Out :=
  match found with
  | .line core => .next (if coreDie core = die then s.lineError die core addr else s)
  | .block core asid va =>
    .next (if coreDie core = die then s.modCore core (fun c => { c with icache := c.icache.filter (fun b => !(b.asid == asid && b.va == va)) }) else s)
  | found => if homeDie addr ≠ die then .next s
  else match found with
    | .clean | .line _ | .block .. => .next s
    | .corrected => .next (s.modDie die (fun d => { d with cecnt := SMap.upd 0 d.cecnt (unitOf addr) (· + 1) }))
    | .uncorrectable =>
      if 2 ^ 61 ≤ addr then .next (s.machineCheck die addr 0x0F01 (unitOf addr) 0)
      else .next (s.machineCheck die addr 0x0F02 (unitOf addr) (addr % 2 ^ 52))

end Sys2Proof.Machine
end

