-- ==== Sys2Proof/Machine/Spdm.lean ====
section
/-! DEFINITION. What root answers to SPDM requests (R377 to R379, R400). Messages and answers are data: their bytes are those of
another standard (PRESUMED, log 42). -/

namespace Sys2Proof.Machine

/-- The manifest of the live jobs of a die (R377): 48 bytes each. -/
def Die.manifest (d : Die) : List Byte :=
  d.jobs.flatMap (fun j => bytesOf 2 j.1 ++ [0, 0] ++ bytesOf 4 j.2.1 ++ bytesOf 8 0 ++ bytesOf 32 j.2.2)

/-- The measurement blocks (R377). The digests are those that die 0 measured. -/
def State.measurements (s : State) (md : Nat) : List (Nat × List Byte) :=
  let m := (s.die (md * 8)).meas
  let dig (i : Nat) : List Byte := bytesOf 32 (m.getD i 0).toNat
  [(1, bytesOf 32 Config.romDigest.toNat), (2, dig 0), (3, dig 1), (4, dig 2), (5, [0])] ++
    (range 0 8).map (fun d => (0x10 + d, (s.die (md * 8 + d)).manifest))

/-- The key pair of a seed (R376): its inputs are SHA-256 of the seed with the labels 1, 2 and 3, each a byte after it (PRESUMED, log 42). -/
def keyPairOf (seed : BitVec 256) : List Byte × List Byte :=
  let part (n : Nat) : BitVec 256 := Config.sha256 (bytesOf 32 seed.toNat ++ bytesOf 1 n)
  Config.slhKeyGen (part 1) (part 2) (part 3)

/-- The private alias key and its certificate (R376): the public key with the identity key's signature of it (PRESUMED, log 42). -/
def aliasOf (seed root monitor : BitVec 256) : List Byte × List Byte :=
  let a := keyPairOf (Config.sha256 ([seed, root, monitor].flatMap (fun v => bytesOf 32 v.toNat)))
  (a.1, a.2 ++ Config.slhSign (keyPairOf seed).1 a.2)

/-- The certificate chain: that which came with the firmware, and the alias key's certificate (R376, R398). -/
def State.chain (s : State) (md : Nat) : List Byte := (s.die (md * 8)).parts5.getD 4 [] ++ (s.md md).aliasCert

/-- The signature of an answer, over the request and the blocks it reports (R376; PRESUMED, log 42). -/
def State.signed (s : State) (md : Nat) (m : SpdmMsg) (blocks : List (Nat × List Byte)) : List Byte :=
  Config.slhSign (s.md md).aliasKey (m.body ++ blocks.flatMap (fun b => bytesOf 1 b.1 ++ b.2))

/-- The answer to one message; `busy` says that it arrived during an activation (R379). -/
def State.spdmAnswer (s : State) (md : Nat) (m : SpdmMsg) (busy : Bool) : SpdmReply :=
  match m.kind with
  | .getVersion => .version
  | .getCapabilities => .capabilities
  | .negotiateAlgorithms => .algorithms
  | .getDigests => .digests (Config.sha256 (s.chain md))
  | .getCertificate => .certificate (s.chain md)
  | .challenge => if busy then .busy else .challenge (s.measurements md) (s.signed md m (s.measurements md))
  | .getMeasurements ix =>
    if busy then .busy
    else
      let blocks := (s.measurements md).filter (fun b => match ix with | none => true | some i => b.1 == i)
      .measurements blocks (s.signed md m blocks)

/-- Root answers what stands in the buffer (R378). -/
def State.answerSpdm (s : State) (md : Nat) : State :=
  s.modMd md (fun m => { m with replies := m.replies ++ m.spdm.map (fun q => s.spdmAnswer md q.1 q.2), spdm := [] })

end Sys2Proof.Machine
end

