-- ==== Sys2Proof/Machine/HostPort.lean ====
section
/-! DEFINITION. The host ports: ownership (R397), the boot and power registers (R399), BAR space (R380). -/

namespace Sys2Proof.Machine

/-! ## Ownership (R397) -/

/-- CLAIM: with no owner, a claiming port becomes it; port 0 wins a tie. -/
def execClaim (md : Nat) (p0 p1 : Bool) (s : State) : Out :=
  .next (s.modMd md (fun m => if m.owner ≠ 0 then m else if p0 then { m with owner := 1 } else if p1 then { m with owner := 2 } else m))

/-- HANDOFF: the owner offers ownership to the other port. -/
def execHandoff (md port : Nat) (s : State) : Out :=
  .next (s.modMd md (fun m => if port < 2 && m.owner = port + 1 then { m with offer := true } else m))

/-- ACCEPT: the non-owner takes an offered ownership, and the offer is gone. -/
def execAccept (md port : Nat) (s : State) : Out :=
  .next (s.modMd md (fun m => if m.offer && port < 2 && m.owner ≠ 0 && m.owner ≠ port + 1 then { m with owner := port + 1, offer := false } else m))

/-- Since when the link of a port is down. -/
def Md.downOf (m : Md) (port : Nat) : Option Word := if port = 0 then m.down0 else if port = 1 then m.down1 else none
/-- 100 ms in cycles (R12, R397). -/
def lossCycles : Word := w64 180000000

/-- OWNER_LINK_LOSS: an owner whose link has been down for 100 ms loses ownership. -/
def execOwnerLinkLoss (md : Nat) (s : State) : Out :=
  .next (s.modMd md (fun m =>
    if m.owner = 0 then m
    else match m.downOf (m.owner - 1) with
      | some t => if lossCycles ≤ s.cycle - t then { m with owner := 0, offer := false } else m
      | none => m))

/-- HOST_LINK_DOWN: the interval of R397 begins. -/
def execHostLinkDown (md port : Nat) (s : State) : Out :=
  .next (s.modMd md (fun m =>
    if port = 0 then { m with down0 := some (m.down0.getD s.cycle) } else if port = 1 then { m with down1 := some (m.down1.getD s.cycle) } else m))

/-- HOST_LINK_UP: the interval of R397 ends. -/
def execHostLinkUp (md port : Nat) (s : State) : Out :=
  .next (s.modMd md (fun m => if port = 0 then { m with down0 := none } else if port = 1 then { m with down1 := none } else m))

/-- DEVICE_INTERFACE_STATE (R380). -/
def execDeviceInterfaceState (md part : Nat) (run : Bool) (s : State) : Out :=
  .next (s.modMd md (fun m => { m with runIf := SMap.put m.runIf part run }))

/-! ## The management page (R397, R399) -/

/-- Whether the staging window takes no writes (R399). -/
def Md.locked (m : Md) : Bool := 0x10 ≤ m.stage && m.stage < 0x80
/-- The home of a byte of the staging window: die 0's HBM (R399). -/
def stagingHome (md off : Nat) : Nat := homePa md ((Config.stagingBase md).toNat + off)
/-- The home of a byte of a die's copy of the bundle (R400). -/
def bundleHome (die off : Nat) : Nat := homePa (die / 8) (die % 8 * 2 ^ 45 + (Config.bundleBase die).toNat + off)

/-- GO (R399, R400): with an owner, and at stage 0x00, or after a failure that a new GO may follow, die 0's ROM copies the bundle to
every die. `retry` of a failed boot is told by the stage that the dies reached. -/
def execGo (md kib : Nat) (s : State) : Out :=
  let m := s.md md
  let early := (range (md * 8) 8).all (fun d => (s.die d).stage ≤ 0x30)
  if m.owner = 0 || !(m.stage = 0 || (m.stage = 0xFF && early)) || 65536 < kib then .next s
  else
    let n := kib * 1024
    let bytes := s.bytesAt (stagingHome md 0) n
    let s := (range (md * 8) 8).foldl (fun s d => (s.homeWrite (bundleHome d 0) bytes).modDie d (fun x => { x with stage := 0x10 })) s
    .next (s.modMd md (fun m => { m with stage := 0x10, failing := 0, kib := kib }))

/-- A register of the management page (R397, R399). -/
def Md.reg (m : Md) (off : Nat) : Word :=
  if off = 0 then w64 (m.owner + b2n m.offer * 32)
  else if off = 8 then m.lattol
  else if off = 0x18 then w64 (m.stage + m.failing * 256)
  else 0

/-- A write to the management page that its port may make. -/
def State.manage (s : State) (md port off : Nat) (v : Word) : Out :=
  if off = 0 then
    if bit v 2 then execClaim md (port == 0) (port == 1) s
    else if bit v 3 then execHandoff md port s
    else if bit v 4 then execAccept md port s
    else .next s
  else if off = 8 then .next (s.retolerate md v)
  else if off = 0x10 && bit v 0 then execGo md (bits v 63 32) s
  else .next s

/-! ## BAR space (R380) -/

/-- A completion to the host: read data, or Unsupported Request. -/
def State.complete (s : State) (md : Nat) (a : Option Word) : State := s.modMd md (fun m => { m with answers := m.answers ++ [a] })

/-- A host write that is served: what its page reaches. An event page raises the host doorbell event with its page offset (DEDUCED, log 43). -/
def State.barWrite (s : State) (md port off : Nat) (page : BarPage) (v : Word) : Out :=
  match page with
  | .queue die q => if off = 0x10 then execUqWidxWrite die q v s else .next s
  | .event die => .next (s.event die 0 0 none 0 (w64 off) 0)
  | .granule die pa => .next (s.homeWrite (homePa (die / 8) pa + off) (bytesOf 8 v.toNat))
  | .staging base => .next (if (s.md md).locked then s else s.homeWrite (stagingHome md (base + off)) (bytesOf 8 v.toNat))
  | .management => s.manage md port off v

/-- A page whose reads the spec states no value for: each read takes a fresh one (log 10). -/
def isEventPage : BarPage → Bool
  | .event _ => true
  | _ => false

/-- What a host read that is served returns; the page of a user queue shows its registers (R29). -/
def State.barRead (s : State) (md off : Nat) (page : BarPage) : Word :=
  match page with
  | .queue die q =>
    let u := SMap.get {} (s.die die).users q
    if off = 0 then u.base else if off = 8 then u.size else if off = 0x10 then u.widx else if off = 0x18 then u.ridx else if off = 0x20 then u.status else 0
  | .event _ => Config.mmioRead off s.fresh
  | .granule die pa => wordOf (s.bytesAt (homePa (die / 8) pa + off) 8)
  | .staging base => wordOf (s.bytesAt (stagingHome md (base + off)) 8)
  | .management => (s.md md).reg off

/-- A page that BAR space may show: a granule is shared, never sealed (R380); the staging window is 64 MiB (R399). -/
def State.barHas (s : State) (page : BarPage) : Bool :=
  match page with
  | .granule die pa => s.sealSlot (homePa (die / 8) pa) == 0xFFF
  | .staging base => base + 4096 ≤ 2 ^ 26
  | _ => true

/-- Writes that a port which is not the owner may make (R397). -/
def nonOwnerMay (page : BarPage) (off : Nat) (v : Word) : Bool :=
  match page with
  | .management => off == 0 && (bit v 2 || bit v 4)
  | _ => false

/-- HOST_BAR_REQUEST (R380, R397): a posted write has no completion. -/
def execHostBarRequest (md : Nat) (req : BarReq) (s : State) : Out :=
  let m := s.md md
  let done (s : State) (a : Option Word) : State := if req.write.isSome && req.posted then s else s.complete md a
  match m.pages.find? (fun e => e.1 == req.addr / 4096) with
  | none => .next (done s none)
  | some (_, page, priv, part) =>
    let off := req.addr % 4096
    let refuse (kind : Nat) : Out := .next (done (s.hostReject md req.port kind req.rid req.addr) none)
    if !s.barHas page then .next (done s none)
    else if priv && !req.trusted then refuse 1
    else if priv && !SMap.get false m.runIf part then refuse 2
    else match req.write with
      | none => .next (done { s with fresh := s.fresh + b2n (isEventPage page) } (some (s.barRead md off page)))
      | some v => if m.owner ≠ req.port + 1 && !nonOwnerMay page off v then refuse 3 else s.barWrite md req.port off page v

end Sys2Proof.Machine
end

