-- ==== Sys2Proof/Machine/Links.lean ====
section
/-! DEFINITION. Link frames (R384, R385), credits and the census (R386, R387). A packet leaves the die where it stands with the frame that carries its last
flit; the sending of a frame is modelled with its reception (DESIGN CHOICE, log 22). -/

namespace Sys2Proof

open Machine

/-- The credit class of a packet (R303, R386): a VC pool, or its communicator. -/
def Packet.creditClass (p : Packet) : Bool × Nat := if 2 ≤ p.vc && p.vc ≤ 5 then (true, p.job * 256 + p.rkey % 256) else (false, p.vc)

/-- The bytes of a grant record (R386). -/
def grantBytes (g : Grant) : List Byte := bytesOf 4 (b2n g.comm * 2 ^ 30 + g.cls % 2 ^ 18 * 2 ^ 12 + g.slots % 2 ^ 9)

/-- The control flit of a frame (R384). -/
def LinkFrame.head (f : LinkFrame) : List Byte :=
  bytesOf 8 f.number ++ bytesOf 8 (b2n f.rtx * 2 ^ 63 + b2n f.nak * 2 ^ 62 + f.ackf % 2 ^ 48) ++ padTo 16 (f.grants.flatMap grantBytes)

/-- The flits of a census: in the first N and the number of entries, then six entries; eight entries in each later one. -/
def Census.bytes (c : Census) : List Byte :=
  let l := bytesOf 8 (c.entries.length % 2 ^ 16 + c.flits % 2 ^ 48 * 2 ^ 16) ++ c.entries.flatMap grantBytes
  padTo ((l.length + 31) / 32 * 32) l

end Sys2Proof

namespace Sys2Proof.Machine

/-- The die and port at the other end of a ring or bridge link (R8, R258): traffic that arrives clockwise comes from the counter-clockwise
neighbour. -/
def State.peer (s : State) (die port : Nat) : Nat × Nat :=
  let m := die / 8
  let d := die % 8
  let n := max 1 s.nmod
  match port with
  | 0 => (m * 8 + (d + 7) % 8, 1)
  | 1 => (m * 8 + (d + 1) % 8, 0)
  | 2 => ((m + n - 1) % n * 8 + d, 3)
  | _ => ((m + 1) % n * 8 + d, 2)

/-- A link as a die sees it. -/
def State.link (s : State) (die port : Nat) : LinkDir := SMap.get {} (s.die die).links port
def State.modLink (s : State) (die port : Nat) (f : LinkDir → LinkDir) : State :=
  s.modDie die (fun d => { d with links := SMap.put d.links port (f (SMap.get {} d.links port)) })

/-- The slots of a class at a station input (R303, R386). -/
def State.classSlots (s : State) (c : Bool × Nat) : Nat := if c.1 then s.quotaOf c.2 else 16

/-- Every class of a station input (R303, R386). -/
def State.classes (s : State) : List (Bool × Nat) :=
  [(false, 0), (false, 1), (false, 6), (false, 7)] ++ s.allComms.map (fun c => (true, c))

/-- The free slots of a class at a die's station input: those of the packets that came in by it and stand at the die are in use, and those of packets that
wait there for their collective (R303). -/
def State.freeSlots (s : State) (die port : Nat) (c : Bool × Nat) : Nat :=
  let here (p : Packet) : Bool := p.at_ == die && p.ing == port && p.creditClass == c
  s.classSlots c - (s.net.filter here).length - ((s.die die).comms.flatMap (fun e => e.2.parked.filter here)).length

/-- The credit that a sender holds of a class. -/
def State.creditOf (s : State) (die port : Nat) (c : Bool × Nat) : Nat :=
  match (s.link die port).credit.find? (fun g => g.comm == c.1 && g.cls == c.2) with
  | some g => g.slots
  | none => s.classSlots c

/-- The credits with a class set. -/
def setCredit (l : List Grant) (c : Bool × Nat) (n : Nat) : List Grant := ⟨c.1, c.2, n⟩ :: l.filter (fun g => !(g.comm == c.1 && g.cls == c.2))

/-- A sender spends a credit of a packet's class as it sends (R386). -/
def State.spend (s : State) (die port : Nat) (p : Packet) : State :=
  let c := p.creditClass
  let n := s.creditOf die port c
  s.modLink die port (fun l => { l with credit := setCredit l.credit c (n - 1) })

/-- The credit of a class that a station has given out and that no packet has used: all its slots, until its first grant, packet or census. -/
def State.givenOf (s : State) (die port : Nat) (c : Bool × Nat) : Nat :=
  match (s.link die port).given.find? (fun g => g.comm == c.1 && g.cls == c.2) with
  | some g => g.slots
  | none => s.classSlots c
def State.give (s : State) (die port : Nat) (c : Bool × Nat) (n : Nat) : State :=
  s.modLink die port (fun l => { l with given := setCredit l.given c n })

/-- The packets that stand at a die and leave by a link, in order; `out` is the station that receives them. -/
def State.leaving (s : State) (die out : Nat) : List Packet := s.net.filter (fun p => p.at_ == die && p.out == out)

/-- The packets of a frame are the first to leave of their classes (R386). -/
def State.inTurn (s : State) (die out : Nat) (ps : List Packet) : Bool :=
  ps.all (fun p =>
    let ofClass (l : List Packet) : List Packet := (l.filter (fun q => q.creditClass == p.creditClass)).map Packet.wire
    let mine := ofClass ps
    (ofClass (s.leaving die out)).take mine.length == mine)

/-- A frame that its sender can send (R384 to R386): the next number; what the control flit says of the reverse direction; the next frame of a resend, the
first of it marked, or packets in their turn with a credit for each, at most 64 frames kept; for each class granted the slots freed since the last grant,
none of a communicator, whose traffic may be steered, while the pipeline's ingress has stopped (R387). -/
def State.canSend (s : State) (die port out : Nat) (f : LinkFrame) : Bool :=
  let l := s.link die port
  !l.down && f.number == l.frame + 1 && f.ackf == l.lastGood % 2 ^ 48 && f.nak == l.nak &&
  f.grants.all (fun g => g.slots + s.givenOf die port (g.comm, g.cls) == s.freeSlots die port (g.comm, g.cls) && !(g.comm && (s.die die).stalled)) &&
  (match l.again with
   | ps :: _ => f.rtx == l.rtx && f.packets.map Packet.wire == ps.map Packet.wire
   | [] => !f.rtx && l.unacked.length < 64 && s.inTurn die out f.packets &&
     f.packets.all (fun p => (f.packets.filter (fun q => q.creditClass == p.creditClass)).length ≤ s.creditOf die port p.creditClass))

/-- A packet leaves a die by a link: it is no longer in the network, but in the frame. -/
def State.takeOff (s : State) (die out : Nat) (w : Packet) : List Packet × State :=
  match s.pick (fun p => p.at_ == die && p.out == out && p.wire == w.wire) with
  | some (p, s) => ([p], s)
  | none => ([], s)

/-- The sending of a frame (R384 to R386): its packets, and the sender with 16 flits more, credits spent for packets not sent before, its grants counted as
given, its NAK made, the frame kept unacknowledged. -/
def State.sendFrame (s : State) (die port out : Nat) (f : LinkFrame) : List Packet × State :=
  let (ps, s) := match (s.link die port).again with
    | ps :: rest => (ps, s.modLink die port (fun l => { l with again := rest, rtx := false }))
    | [] => f.packets.foldl (fun (r : List Packet × State) w =>
        let (p, s) := r.2.takeOff die out w
        (r.1 ++ p, s.spend die port w)) ([], s)
  let s := f.grants.foldl (fun s g => s.give die port (g.comm, g.cls) (s.givenOf die port (g.comm, g.cls) + g.slots)) s
  (ps, s.modLink die port (fun l =>
    { l with flitsTx := l.flitsTx + 16, frame := f.number, nak := false, unacked := l.unacked ++ [(f.number, ps)],
             sentAfter := l.sentAfter ++ ps.map (fun p => (f.number, l.flitsTx, p.creditClass)) }))

/-- The control flit of an accepted frame (R384 to R386): the acknowledgement of frames this die sent, a NAK that has the rest sent again, and grants. -/
def State.control (s : State) (die port : Nat) (f : LinkFrame) : State :=
  let s := s.modLink die port (fun l =>
    let keep := l.unacked.filter (fun u => f.ackf < u.1 % 2 ^ 48)
    if f.nak then
      let again := keep.map (·.2) ++ l.again
      { l with unacked := [], again := again, rtx := !again.isEmpty, sentAfter := l.sentAfter.filter (fun e => e.1 % 2 ^ 48 ≤ f.ackf) }
    else { l with unacked := keep })
  f.grants.foldl (fun s g =>
    let n := s.creditOf die port (g.comm, g.cls)
    s.modLink die port (fun l => { l with credit := setCredit l.credit (g.comm, g.cls) (n + g.slots) })) s

/-- What a frame leaves of a packet that goes on in the next one, if flit 0 is its control flit and flits 1 to 14, decrypted, those of its packets (R384).
Flits after the last packet are zero. -/
def frameRest (key : BitVec 256) (iv : BitVec 96) (f : LinkFrame) (part : List Byte) : Option (List Byte) :=
  let pk := f.packets.flatMap Packet.bytes
  let data := part ++ Config.gcmCrypt key iv (f.flits.drop 32)
  let tail := data.drop pk.length
  if f.flits.length == 480 && f.flits.take 32 == f.head && f.grants.length ≤ 4 && data.take pk.length == pk then
    some (if (tail.take 32).all (· == 0) then [] else tail)
  else none

/-- A packet of an accepted frame: it uses a credit given, and comes in at the station. -/
def State.takePacket (s : State) (die port : Nat) (p : Packet) : State :=
  (s.give die port p.creditClass (s.givenOf die port p.creditClass - 1)).comeIn die port p

/-- LINK_FRAME_RX (R384, R385): a frame with a bad tag, or one out of order, is discarded, and every later one until a resend begins; eight
failures in a row take the link down. A frame in order whose flits are not those of the packets that the event names is none. -/
def execLinkFrameRx (die port : Nat) (frame : LinkFrame) (s : State) : Out :=
  let t := s
  let (pd, pp) := s.peer die port
  if port > 3 || (s.link die port).down || !s.canSend pd pp port frame then .next s
  else
    let (ps, s) := s.sendFrame pd pp port frame
    let s := s.modLink die port (fun l => { l with flitsRx := l.flitsRx + 16 })
    let l := s.link die port
    let key := s.linkKey die port
    let iv := linkIv die port frame.number
    let good := Config.gcmTag key iv (frame.flits.take 32) (frame.flits.drop 32) == frame.tag
    if !good then
      let s := s.modLink die port (fun l => { l with fails := l.fails + 1, discarding := true, nak := true, down := l.fails + 1 ≥ 8 })
      .next (if l.fails + 1 ≥ 8 then (s.event die 5 0x0F03 none 0 (w64 port) 0).errorRecord die (89 + port) 0x0F03 0 else s)
    else
      let next := if l.discarding then frame.rtx && l.lastGood < frame.number else frame.number == l.lastGood + 1 || (frame.rtx && l.lastGood < frame.number)
      if !next then .next (s.modLink die port (fun l => { l with fails := 0, discarding := true, nak := true }))
      else
        match frameRest key iv frame l.part with
        | none => .next t
        | some part =>
          let s := s.modLink die port (fun l => { l with fails := 0, discarding := false, nak := false, part := part, lastGood := frame.number })
          .next (ps.foldl (fun s p => s.takePacket die port p) (s.control die port frame))

/-! ## The census (R387) -/

/-- CENSUS_SEND (R387): after 1,024 flits the free slots of every class. -/
def execCensusSend (die port : Nat) (s : State) : Out :=
  let l := s.link die port
  if port > 3 || l.down || l.flitsRx < l.censusAt + 1024 then .next s
  else
    let c : Census := { flits := l.flitsRx % 2 ^ 48, entries := s.classes.map (fun c => ⟨c.1, c.2, s.freeSlots die port c⟩) }
    .next (s.modLink die port (fun l => { l with censusAt := l.flitsRx, census := some c.bytes, given := c.entries }))

/-- CENSUS_RECEIVE (R387): each class's credit becomes the census count less the slots sent after flit N; those of packets that wait to be sent again come
after it too. -/
def execCensusReceive (die port : Nat) (c : Census) (s : State) : Out :=
  let (pd, pp) := s.peer die port
  if port > 3 || (s.link pd pp).census != some c.bytes then .next s
  else
    let s := s.modLink pd pp (fun l => { l with census := none })
    let l := s.link die port
    let after := l.sentAfter.filter (fun e => c.flits ≤ e.2.1)
    let sent (g : Grant) : Nat :=
      (after.filter (fun e => e.2.2 == (g.comm, g.cls))).length + (l.again.flatten.filter (fun p => p.creditClass == (g.comm, g.cls))).length
    .next ((c.entries.foldl (fun s g =>
      s.modLink die port (fun l => { l with credit := setCredit l.credit (g.comm, g.cls) (g.slots - sent g) })) s).modLink die port
      (fun l => { l with sentAfter := after }))

end Sys2Proof.Machine
end

