-- ==== Sys2Proof/Machine/Boot.lean ====
section
/-! DEFINITION. Boot (R376, R377, R398 to R400), root requests (R378) and the activation of a new job monitor (R379). -/

namespace Sys2Proof.Machine

/-! ## Reset -/

/-- Whether a home is SRAM of a module: cluster SRAM or a scratchpad. -/
def inSram (md a : Nat) : Bool := 2 ^ 61 ≤ a && homeDie a / 8 == md

/-- RESET (R400, stage 0x00): the module's SRAM is clear, its cores are held, its registers and tables stand as after reset. HBM and the
bulk tier keep their bytes (DESIGN CHOICE, log 44). -/
def execReset (md : Nat) (s : State) : Out :=
  let s' : State :=
    { s with cores := s.cores.filter (fun c => c.1 / 1024 != md), clusters := s.clusters.filter (fun c => c.1 / 64 != md),
             dies := s.dies.filter (fun d => d.1 / 8 != md), mds := SMap.del s.mds md,
             watches := s.watches.filter (fun w => w.core / 1024 != md),
             net := s.net.filter (fun p => p.at_ / 8 != md),
             iss := if s.cur.core / 1024 = md then {} else s.iss }
  let t := s'.reseal s
  .next { t with mem := t.mem.filter (fun c => !inSram md c.1), poison := t.poison.filter (fun a => !inSram md a) }

/-! ## The stages of boot (R400) -/

/-- A failure (R400): BOOTSTAT 0xFF with the failing part. -/
def State.bootFail (s : State) (md part : Nat) : State := s.modMd md (fun m => { m with stage := 0xFF, failing := part })

/-- The dies of a module have all reached a stage. -/
def State.allAt (s : State) (md stage : Nat) : Bool := (range (md * 8) 8).all (fun d => stage ≤ (s.die d).stage)

/-- A die has done the work of a stage. -/
def State.staged (s : State) (die stage : Nat) : State :=
  (s.modDie die (fun d => { d with stage := stage })).modMd (die / 8) (fun m => { m with stage := max m.stage stage })

/-- The first part of a bundle that is missing or fails its check (R398), numbered from 1. -/
def badPart (parts : List (List Byte × List Byte)) : Option Nat :=
  ((range 0 5).find? (fun i => match parts[i]? with
    | some p => !Config.slhVerify Config.strelevoKey p.1 p.2
    | none => true)).map (· + 1)

/-- BOOT_VERIFY (R376, R377, R398, R400 stage 0x20): the die's ROM checks and measures the parts, derives the identity seed from the
helper data, and with a fresh nonce the boot wrapping key (R366). -/
def execBootVerify (die : Nat) (s : State) : Out :=
  let md := die / 8
  let m := s.md md
  if (s.die die).stage ≠ 0x10 || m.stage = 0xFF then .next s
  else
    let parts := Config.bundleParts (s.bytesAt (bundleHome die 0) (m.kib * 1024))
    match badPart parts with
    | some n => .next (s.bootFail md n)
    | none =>
      let body (i : Nat) : List Byte := ((parts[i]?).map (·.1)).getD []
      let seed := Config.identitySeed die (body 3)
      let wrap := Config.sha256 (bytesOf 32 seed.toNat ++ bytesOf 32 (Config.bootNonce s.fresh).toNat)
      let s := s.modDie die (fun d => { d with parts5 := (range 0 5).map body, meas := [Config.sha256 (body 0), Config.sha256 (body 1), Config.sha256 (body 2)],
                                               seed := seed, wrapKey := wrap })
      .next (({ s with fresh := s.fresh + 1 } : State).staged die 0x20)

/-- A field of the configuration that a die has verified (R398). -/
def State.conf (s : State) (die i : Nat) : Nat := (Config.configField ((s.die die).parts5.getD 2 []) i).toNat

/-- ROOT_START (R325, R365, R376, R400 stage 0x30): root starts on the system core, loads the monitor key into slot 0 and the keys of the module ring, sets up
the event area and checks the certificate chain; on die 0 it derives the alias key. A configuration for a module of another number is refused (R398;
DESIGN CHOICE, log 45). -/
def execRootStart (die : Nat) (s : State) : Out :=
  let md := die / 8
  if !s.allAt md 0x20 || (s.die die).stage ≠ 0x20 || (s.md md).stage = 0xFF then .next s
  else if Config.certLeaf ((s.die die).parts5.getD 4 []) != (keyPairOf (s.die (md * 8)).seed).2 then .next (s.bootFail md 5)
  else if s.conf die 3 ≠ md then .next (s.bootFail md 3)
  else
    let d := s.die die
    let s0 := s
    let key : KeySlot := { v := true, kind := 0, key := Config.randomKey s.fresh }
    let g := (Config.eventGranule die).toNat
    let area := die % 8 * 2 ^ 45 + g * 2 ^ 16
    let ring := [0, 1].map (fun p => (p, Config.agreedLinkKey die p s.fresh))
    let s := s.modDie die (fun d =>
      { d with keys := SMap.put d.keys 0 key, sealm := SMap.put d.sealm g 0, linkKeys := ring.foldl (fun l e => SMap.put l e.1 e.2) d.linkKeys })
    let s := s.modCore (sysCore die) (fun c => { c with evtarea := w64 area })
    let s := s.modCtxAt ⟨sysCore die, 0⟩ (fun c => { c with run := .running, r := { c.r with pc := Config.rootVector die }, y := { c.y with level := 2 } })
    let a := aliasOf d.seed (d.meas.getD 0 0) (d.meas.getD 1 0)
    let s := if die % 8 = 0 then s.modMd md (fun m => { m with aliasKey := a.1, aliasCert := a.2 }) else s
    .next (((({ s with fresh := s.fresh + 1 } : State).reseal s0).clearSpan (homePa md area) 65536).staged die 0x30)

/-- A link starts afresh at one end, with the key under which that end receives (R384). -/
def State.startLink (s : State) (e : Nat × Nat) : State :=
  s.modDie e.1 (fun d => { d with links := SMap.del d.links e.2, linkKeys := SMap.put d.linkKeys e.2 (Config.agreedLinkKey e.1 e.2 s.fresh) })

/-- LINK_TRAINING (R256, R384, R394, R400 stage 0x40): root fills the routes of its module, the configuration of the bundle holds; the bridge links of the
die start afresh at both ends with keys agreed upon, its Ethernet subports take theirs. -/
def execLinkTraining (die : Nat) (ok : Bool) (s : State) : Out :=
  let md := die / 8
  if !s.allAt md 0x30 || (s.die die).stage ≠ 0x30 || (s.md md).stage = 0xFF then .next s
  else if !ok then .next ((s.staged die 0x40).bootFail md 0)
  else
    let routes := ((range 0 8).filter (· != die % 8)).map (fun d => (md * 8 + d, ringWay (die % 8) d))
    let t := s.modDie die (fun d =>
      { d with routes := routes.foldl (fun l e => SMap.put l e.1 e.2) d.routes, ethMode := s.conf die 0, backoff := s.conf die 1 })
    let t := { t with nmod := max 1 (min 32 (s.conf die 2)) }
    let t := ([(die, 2), (die, 3), t.peer die 2, t.peer die 3] ++ (range 4 4).map (fun p => (die, p))).foldl State.startLink t
    .next (({ t with fresh := t.fresh + 1 } : State).staged die 0x40)

/-- MONITOR_HANDOVER (R400 stages 0x50 and 0x80): on each die root hands over with `mret`; then the module is ready. -/
def execMonitorHandover (md : Nat) (s : State) : Out :=
  let at_ (s : State) (n : Nat) : State := ((range (md * 8) 8).foldl (fun s die => s.modDie die (fun d => { d with stage := n })) s).modMd md (fun m => { m with stage := n })
  if s.allAt md 0x50 && (s.md md).stage = 0x50 then .next (at_ s 0x80)
  else if !s.allAt md 0x40 || (s.md md).stage ≠ 0x40 then .next s
  else
    let s := (range (md * 8) 8).foldl (fun s die =>
      s.modCtxAt ⟨sysCore die, 0⟩ (fun c =>
        { c with held := none, r := { c.r with pc := Config.monitorEntry die }, y := { c.y with level := 1, mepc := Config.monitorEntry die } })) s
    .next (at_ s 0x50)

/-! ## SPDM (R378) -/

/-- SPDM_MESSAGE_ARRIVE (R378, R379, R400): NotReady before stage 0x80; a message that finds the 64 KiB buffer full is not answered. -/
def execSpdmMessageArrive (md : Nat) (msg : SpdmMsg) (s : State) : Out :=
  .next (s.modMd md (fun m =>
    if m.stage ≠ 0x80 then { m with replies := m.replies ++ [.notReady] }
    else if 65536 < m.spdm.foldl (fun n q => n + q.1.body.length) msg.body.length then m
    else { m with spdm := m.spdm ++ [(msg, m.activating)] }))

/-- Where the system core may be taken from the monitor: between two bundles, or at a waiting `wfe`, whose bundle reissues (R378). -/
def Ctx.interruptible (c : Ctx) : Option Word :=
  if c.run != .running || c.y.level != 1 then none
  else match c.held with
    | none => some c.r.pc
    | some i => match i.instr 1 with
      | .ok (.wfe _) => if i.cmask.getLsbD 1 then none else some i.baddr
      | _ => none

/-- ROOT_REQUEST (R378): the system core of die 0 enters root and answers the buffer. -/
def execRootRequest (md : Nat) (s : State) : Out :=
  let p : Place := ⟨sysCore (md * 8), 0⟩
  if (s.md md).spdm.isEmpty then .next s
  else match (s.ctxAt p).interruptible with
    | some at_ => .next ((s.enterRoot p 0x1301 at_).answerSpdm md)
    | none => .next s

/-! ## Activation of a new monitor (R379) -/

/-- MONITOR_ACTIVATION (R379): a verified image starts the activation once every earlier request is answered and every system core has
finished its instruction; at its end each system core goes on in the new monitor with its state, and the new digest is reported. -/
def execMonitorActivation (md : Nat) (image : Option (List Byte × List Byte)) (s : State) : Out :=
  let m := s.md md
  let places := (range (md * 8) 8).map (fun d => (⟨sysCore d, 0⟩ : Place))
  match image with
  | some (img, sig) =>
    let quiet := places.all (fun p => (s.ctxAt p).interruptible.isSome)
    if m.activating || m.stage ≠ 0x80 || !m.spdm.isEmpty || !quiet || !Config.slhVerify Config.strelevoKey img sig then .next s
    else
      let s := places.foldl (fun s p => s.modCtxAt p (fun c => { c with run := .held, held := none })) s
      .next (s.modMd md (fun m => { m with activating := true, next := img }))
  | none =>
    if !m.activating then .next s
    else
      let s := places.foldl (fun s p =>
        (s.modCtxAt p (fun c => { c with run := .running, r := { c.r with pc := Config.activationEntry (coreDie p.core) } })).modDie (coreDie p.core)
          (fun d => { d with meas := [d.meas.getD 0 0, Config.sha256 m.next, d.meas.getD 2 0] })) s
      .next (s.modMd md (fun m => { m with activating := false, next := [] }))

end Sys2Proof.Machine
end

