-- ==== Sys2Proof/Machine/Registers.lean ====
section
/-! DEFINITION. The services of the job monitor (R346), its other duties on queues and jobs (R344, R345, R348), and REGISTER_WRITE: writes to
registers and descriptors that have no row of their own, by their access codes (R3). The monitor's decisions come as events (DESIGN CHOICE, log 16). -/

namespace Sys2Proof.Machine

/-! ## Ending tasks -/

/-- The contexts of a die that hold a task which a test selects. -/
def State.tasksOn (s : State) (die : Nat) (f : Task → Bool) : List Place :=
  (((s.cores.map (·.1)).filter (fun k => k / 128 == die)).flatMap (fun k => [(⟨k, 0⟩ : Place), ⟨k, 1⟩])).filter
    (fun p => !isSystem p.core && (s.ctxAt p).run != .free && f (s.ctxAt p).t)

/-- The monitor ends a task (R322): the record's V is cleared, no release is made. -/
def State.endByMonitor (s : State) (p : Place) : State :=
  let c := s.ctxAt p
  let x : XCtx := { s.xctxAt p with level := 1 }
  let va := vaOf c.y.trec + 15
  let s := match s.getVa x va 1 with
    | .ok (b :: _) => if c.y.level != 0 || c.run == Run.stopped then s.putVa x va [b &&& 0x7F] 1 else s
    | _ => s
  (s.endTaskAt p true).getD s

/-- A queued resume record is discarded: its save slot is free, and its task, ended by the monitor, counts (R32, R407). -/
def Die.dropRecord (d : Die) (r : TaskRec) : Die :=
  match r.resume with
  | some (part, slot, _) =>
    let freed (e : Nat × DetSet) : Nat × DetSet := if e.2.job == r.job && e.2.tid == r.tid then (e.1, { e.2 with back := false }) else e
    { (d.freeSlot part slot).packetEnd r with sets := d.sets.map freed }
  | none => d

/-- Every task of a flow on a die ends, and its queued records are discarded; how many of each (R344, R346). -/
def State.endFlow (s : State) (die job flow : Nat) : Nat × Nat × State :=
  let ps := s.tasksOn die (fun t => t.job == job && t.flow == flow)
  let s := ps.foldl State.endByMonitor s
  let qs := (s.die die).subqs.filter (fun q => q.job == job && q.flow == flow)
  let recs := qs.flatMap (·.recs)
  let grown := qs.foldl (fun n q => n + q.grown) 0
  let s := s.modDie die (fun d =>
    let d := recs.foldl Die.dropRecord d
    { d.modPool job (· + grown) with
      subqs := mapIf (fun q => q.job == job && q.flow == flow) (fun q => { q with recs := [], grown := 0 }) d.subqs })
  (ps.length, recs.length, s)

/-! ## Services (R346) -/

/-- Results of a service in g1 onwards. -/
def State.results (s : State) (p : Place) (vs : List Word) : State :=
  s.modCtxAt p (fun c => { c with r := (vs.zip (range 1 vs.length)).foldl (fun r v => r.setG v.2 v.1) c.r })

/-- -1: no service; -2: bad argument; -3: no room. -/
def svcNone : Word := BitVec.ofInt 64 (-1)
def svcBad : Word := BitVec.ofInt 64 (-2)

/-- FLOWEND. -/
def State.svcFlowEnd (s : State) (p : Place) : State :=
  let c := s.ctxAt p
  let f := (c.r.rg 1).toNat
  let die := coreDie p.core
  if f == c.t.flow || ((s.die die).flowOf c.t.job f).isNone then s.results p [svcBad]
  else
    let (n, _, s) := s.endFlow die c.t.job f
    s.results p [w64 n]

/-- PHNEW: a phaser without members around the caller (R227). The numbers of OBJ are log 26's. -/
def State.svcPhnew (s : State) (p : Place) : State :=
  let c := s.ctxAt p
  let scope := (c.r.rg 1).toNat
  let die := coreDie p.core
  let ph := (s.die die).phasers
  let base := die * 2 ^ 40 + coreLocal p.core * 2 ^ 32
  match (range 0 (ph.length + 1)).find? (fun n => !ph.any (fun f => f.obj == base + n)) with
  | some n =>
    if 4 < scope then s.results p [svcBad]
    else if !Config.phaserRoom ph.length (ph.flatMap (·.members)).length then s.results p [BitVec.ofInt 64 (-3)]
    else
      let s := s.modDie die (fun d => { d with phasers := d.phasers ++ [{ obj := base + n, scope := scope, job := c.t.job, members := [] }] })
      s.results p [w64 (scope * 2 ^ 60 + c.t.job * 2 ^ 48 + base + n)]
  | none => s.results p [BitVec.ofInt 64 (-3)]

/-- PHFREE. -/
def State.svcPhfree (s : State) (p : Place) : State :=
  let c := s.ctxAt p
  let nm := c.r.rg 1
  match s.phaser (hObj nm) with
  | some f =>
    if bit nm 63 || hMode nm ≠ 0 || hScope nm ≠ f.scope || hJob nm ≠ c.t.job || f.job ≠ c.t.job || !f.members.isEmpty then s.results p [svcBad]
    else (s.modDie (objDie f.obj) (fun d => { d with phasers := d.phasers.filter (fun g => g.obj != f.obj) })).results p [0]
  | none => s.results p [svcBad]

/-- QPH: a queue-pair handle (R290). -/
def State.svcQph (s : State) (p : Place) : State :=
  let c := s.ctxAt p
  let comm := (c.r.rg 1).toNat
  let qp := (c.r.rg 2).toNat
  if 255 < comm || 15 < qp || !(s.comm (coreDie p.core) (c.t.job * 256 + comm)).valid then s.results p [svcBad]
  else s.results p [w64 (2 ^ 63 + c.t.job * 2 ^ 48 + comm * 2 ^ 32 + qp)]

/-- PCNT: the counters of R275, and LOSTREC. -/
def State.svcPcnt (s : State) (p : Place) : State :=
  let job := (s.ctxAt p).t.job
  let d := s.die (coreDie p.core)
  let n (i : Nat) : Word := match d.progOf job with | some g => w64 (SMap.get 0 g.counts i).toNat | none => 0
  s.results p ((range 0 7).map n ++ [w64 (SMap.get {} d.overflow job).lostrec.toNat])

/-- JINFO. -/
def State.svcJinfo (s : State) (p : Place) : State :=
  let job := (s.ctxAt p).t.job
  let die := coreDie p.core
  let on (n d : Nat) : Bool := (s.die (die / 8 * 8 + d)).parts.any (fun q => bit q.2.w0 63 && bits q.2.w0 5 0 == n && q.2.w1 != 0)
  let mask (l : List Nat) : Word := w64 (l.foldl (fun n i => n + 2 ^ i) 0)
  match (s.die die).partOf job with
  | some (_, q) =>
    let n := bits q.w0 5 0
    s.results p [w64 n, mask ((range 0 8).filter (on n)), mask q.clusters, q.w1]
  | none => s.results p [0, 0, 0, 0]

/-- A service for the task of a context (R346). -/
def State.service (s : State) (p : Place) (code : Nat) : State :=
  if (s.ctxAt p).run == .free || isSystem p.core then s
  else if code = 0x01 then s.endByMonitor p
  else if code = 0x02 then s.svcFlowEnd p
  else if code = 0x10 then s.svcPhnew p
  else if code = 0x11 then s.svcPhfree p
  else if code = 0x20 then s.svcQph p
  else if code = 0x30 then s.svcPcnt p
  else if code = 0x40 then s.svcJinfo p
  else s.results p [svcNone]

/-! ## Queues and jobs -/

/-- The overflow area's records for a sub-queue move into its free slots, oldest first (R345). -/
def Die.refillAll (d : Die) (q : SubQ) : Nat → Die
  | 0 => d
  | n + 1 => (d.refill q).refillAll q n

/-- The growth of a sub-queue that failed is tried again (R344). -/
def State.retryGrowth (s : State) (die : Nat) (f : Nat × Nat × Nat × Nat) : State :=
  let (job, flow, stg, cl) := f
  match s.growSubq die job flow stg cl with
  | some s => s.modDie die (fun d => { (d.refillAll (d.subq job flow stg cl) 64) with failed := d.failed.filter (· != f) })
  | none => s

/-- R344 step 1, once flow overflow is raised: 16 reserve chunks move into the pool, and the growth that failed is retried. -/
def State.reserveToPool (s : State) (die job : Nat) : State :=
  match (s.die die).partOf job with
  | some (i, p) =>
    let q := bits p.w3 63 48
    if q < 16 || !(s.die die).failed.any (fun f => f.1 == job) then s
    else
      let s := s.modDie die (fun d => { d with parts := SMap.put d.parts i { p with w3 := putBits p.w3 63 48 (w64 (q - 16)), pool := p.pool + 16 } })
      ((s.die die).failed.filter (fun f => f.1 == job)).foldl (fun s f => s.retryGrowth die f) s
  | none => s

/-- R344 step 2: with flow overflow raised and fewer than 16 reserve chunks the flow ends, and the supervisor is told of the stage whose growth failed and how many
records were discarded. -/
def State.overflowEnd (s : State) (die job flow stage : Nat) : State :=
  let raised (f : Nat × Nat × Nat × Nat) : Bool := f.1 == job && f.2.1 == flow
  let named (f : Nat × Nat × Nat × Nat) : Bool := raised f && f.2.2.1 == stage
  match (s.die die).partOf job with
  | some (_, p) =>
    if 16 ≤ bits p.w3 63 48 || !(s.die die).failed.any named then s
    else
      let (_, n, s) := s.endFlow die job flow
      (s.modDie die (fun d => { d with failed := d.failed.filter (fun f => !raised f) })).supervise die job 0x0E03 flow stage n
  | none => s

/-- The bytes that a job is given read zero (R348): its cluster windows and its queue memory. Its measurement starts at zero (R377), its queue pool
at POOL (R342). -/
def State.jobCreate (s : State) (die job : Nat) : State :=
  let d := s.die die
  let wins := (d.cwins.filter (fun e => e.1 / 8 == job)).map (fun e => (homeCluster (die * 8 + e.1 % 8) e.2.1, e.2.2))
  let qs := match d.partOf job with | some (_, p) => [(homePa (die / 8) (bits p.w2 51 12 * 4096), bits p.w3 15 0 * 4096)] | none => []
  let inside (a : Nat) : Bool := (wins ++ qs).any (fun r => r.1 ≤ a && a < r.1 + r.2)
  ({ s with mem := s.mem.filter (fun c => !inside c.1), poison := s.poison.filter (fun a => !inside a) } : State).modDie die
    (fun d => { d with jobs := SMap.put d.jobs job (0, 0), parts := mapIf (fun p => p.2.names job) (fun p => (p.1, p.2.fresh)) d.parts })

/-- A number that is no job's. -/
def noJob : Nat := 1024

/-- The teardown of a job on a die (R348), but for the `asidinv`, `scrub` and `keyld` instructions that belong to it: its cores are withdrawn,
its tasks ended, its collectives aborted, its Drift regions, phasers, triggers, detached sets, window entries, segments and queues gone; of a job that
Squall holds out its area and its late records too (R364). -/
def State.jobTeardown (s : State) (die job : Nat) : State :=
  let s := s.modDie die (fun d => { d with parts := mapIf (fun p => p.2.names job) (fun p => (p.1, { p.2 with w1 := 0 })) d.parts })
  let s := (s.tasksOn die (fun t => t.job == job)).foldl State.endByMonitor s
  let s := ((s.die die).comms.filter (fun c => c.1 / 256 == job)).foldl (fun s c =>
    c.2.qps.foldl (fun s q => s.abortEntries die c.1 q.1 (fun _ => true)) s) s
  let rgns := ((s.die die).driftR.filter (fun e => bit (wd e.2 0) 63 && bits (wd e.2 0) 57 48 == job)).map (·.1)
  let destroy (s : State) (r : Nat) : State := match execRegionDestroy die r s with | .next t => t | _ => s
  let s := rgns.foldl destroy s
  s.modDie die (fun d =>
    let win (e : Nat × List Word) : Nat × List Word :=
      if bit (wd e.2 0) 63 && bits (wd e.2 0) 57 48 == job then (e.1, (wd e.2 0 &&& ~~~(w64 (2 ^ 63))) :: e.2.drop 1) else e
    { d with phasers := d.phasers.filter (fun f => f.job != job), trigs := d.trigs.filter (fun t => t.trc.job != job), sets := d.sets.filter (fun e => e.2.job != job), windows := d.windows.map win,
             segs := d.segs.filter (fun g => g.job != job), flows := d.flows.filter (fun f => f.job != job),
             subqs := d.subqs.filter (fun q => q.job != job), overflow := SMap.del d.overflow job, progs := d.progs.filter (fun g => g.job != job),
             jobs := SMap.del d.jobs job, supers := SMap.del d.supers job, users := d.users.filter (fun u => u.2.job != job), ckeys := d.ckeys.filter (fun e => e.1 / 8 != job),
             failed := d.failed.filter (fun f => f.1 != job), parts := mapIf (fun p => p.2.names job) (fun p => (p.1, p.2.fresh)) d.parts,
             savedJobs := d.savedJobs.filter (fun v => v.job != job), late := d.late.filter (fun e => e.1 != job),
             lateLost := SMap.del d.lateLost job, closed := d.closed.filter (· != job), pinned := SMap.del d.pinned job,
             skipped := mapIf (·.job == job) (fun x => { x with job := noJob }) d.skipped })

/-! ## Registers and descriptors (R3) -/

/-- The bits of a word that a list of fields covers. -/
def fieldMask (fs : List (Nat × Nat)) : Word := fs.foldl (fun m f => m ||| maskFrom f.2 (f.1 + 1 - f.2)) 0

/-- Word w of a table entry takes the bits of its fields; the other words stand. -/
def putWord (ws : List Word) (n w : Nat) (v : Word) : List Word :=
  (range 0 (max n ws.length)).map (fun i => if i = w then v else wd ws i)

/-- The fields of a partition descriptor (R342). -/
def partFields (w : Nat) : List (Nat × Nat) :=
  if w = 0 then [(63, 63), (57, 48), (5, 0)] else if w = 1 then [(63, 0)] else if w = 2 then [(51, 12)] else if w = 3 then [(63, 48), (47, 32), (15, 0)] else []

/-- A word of a partition descriptor (R342). CORES takes a bit that adds a cluster only if the condition of R342 holds; POOL fills the pool
of a descriptor not in use, and as another job becomes active. -/
def Die.putPart (d : Die) (part w : Nat) (v : Word) : Die :=
  let p := SMap.get {} d.parts part
  let v := v &&& fieldMask (partFields w)
  let p' : Part :=
    if w = 0 then (if bits v 57 48 ≠ bits p.w0 57 48 || !bit p.w0 63 then { p with w0 := v }.fresh else { p with w0 := v })
    else if w = 1 then { p with w1 := v }
    else if w = 2 then { p with w2 := v }
    else if w = 3 then { p with w3 := v, pool := if bit p.w0 63 then p.pool else bits v 47 32 }
    else p
  let more := p'.clusters.any (fun c => !p.clusters.contains c)
  if 63 < part || (w = 1 && more && bit p.w0 63 && !d.queueFits p' (bits p.w0 57 48) p'.clusters.length []) then d
  else { d with parts := SMap.put d.parts part p' }

/-- The fields of a window entry (R334). -/
def winFields (w : Nat) : List (Nat × Nat) := if w = 0 then [(63, 63), (57, 48), (47, 40), (31, 0)] else []
/-- The fields of a region entry (R392). -/
def regionFields (w : Nat) : List (Nat × Nat) :=
  if w = 0 then [(63, 63), (62, 60), (59, 50), (31, 12)] else if w = 1 then [(51, 0)] else if w = 2 then [(40, 0)] else []
/-- The fields of a Drift region descriptor (R278). -/
def driftFields (w : Nat) : List (Nat × Nat) := if w = 0 then [(63, 63), (57, 48), (47, 44), (19, 0)] else if w = 1 then [(47, 0)] else []
/-- The fields of a communicator descriptor (R289). -/
def commFields (w : Nat) : List (Nat × Nat) :=
  if w = 0 then [(63, 63), (57, 48), (47, 40), (31, 0)] else if w = 1 then [(31, 24), (17, 0)]
  else if w = 2 || w = 3 then [(55, 0)] else if w = 4 then [(39, 0)] else if 8 ≤ w && w < 40 then [(63, 0)] else []

/-- The cores of a partition that a write of CORES adds count as idle from now (R37). -/
def State.newCores (s : State) (die part : Nat) (v : Word) : State :=
  let old := (SMap.get {} (s.die die).parts part).w1
  ((range 0 64).filter (fun c => bit v c && !bit old c)).foldl (fun s c => s.modCore (die * 128 + c) (fun x => { x with idleSince := s.cycle })) s

/-- The bytes of a cluster's SRAM that pipeline areas take, but for one entry (R12, R261). -/
def Die.areaBytes (d : Die) (cl but : Nat) : Nat := (d.areas.filter (fun e => e.1 % 8 == cl && e.1 != but)).foldl (fun n e => n + e.2) 0
/-- The bytes from 0 to the end of the last window of a cluster (R11, R12). -/
def Die.windowTop (d : Die) (cl : Nat) : Nat := (d.cwins.filter (fun e => e.1 % 8 == cl)).foldl (fun n e => max n (e.2.1 + e.2.2)) 0

/-- The effect of a write to a register, a descriptor or a service of a die. -/
def State.putReg (s : State) (die : Nat) (target : RegTarget) (v : Word) : State :=
  let die' (f : Die → Die) : State := s.modDie die f
  let uq (q : Nat) (f : UserQ → UserQ) : State := s.modDie die (fun d => { d with users := SMap.upd {} d.users q f })
  match target with
  | .partition part w => (if w = 1 then s.newCores die part v else s).modDie die (fun d => d.putPart part w v)
  | .saveArea part => die' (fun d => { d with parts := SMap.upd {} d.parts part (fun p => { p with save := v &&& fieldMask [(63, 63), (51, 20)] }) })
  | .window i w => die' (fun d => { d with windows := SMap.upd [] d.windows (i % 4096) (fun ws => putWord ws 2 w (v &&& fieldMask (winFields w))) })
  | .region i w =>
    if w = 2 && 2 ^ 40 < bits v 40 0 then s
    else die' (fun d => { d with regions := SMap.upd [] d.regions (i % 4096) (fun ws => putWord ws 4 w (v &&& fieldMask (regionFields w))) })
  | .driftRegion i w => die' (fun d => { d with driftR := SMap.upd [] d.driftR (i % 4096) (fun ws => putWord ws 4 w (v &&& fieldMask (driftFields w))) })
  | .commWord key w =>
    if 39 < w then s
    else die' (fun d => { d with comms := SMap.upd {} d.comms key (fun c => { c with words := putWord c.words 40 w (v &&& fieldMask (commFields w)) }) })
  | .uqBase q => uq q (fun u => { u with base := v })
  | .uqSize q => uq q (fun u => { u with size := v })
  | .uqWidx q =>
    let s := s.modUq die q (fun u => { u with widx := v })
    if (SMap.get {} (s.die die).users q).over then s.haltUq die q 2 else s
  | .uqRidx q => s.modUq die q (fun u => { u with ridx := v, got := none, req := none, refused := false, live := (u.live.filter (fun l => l.consumed || l.done < l.tasks)).map (fun l => if l.consumed then l else { l with gone := true }) })
  | .uqJob q => uq q (fun u => { u with job := bits v 9 0 })
  | .uqAsid q => uq q (fun u => { u with asid := bits v 8 0 })
  | .uqPtroot q => uq q (fun u => { u with ptroot := v })
  | .uqOwner q => uq q (fun u => { u with owner := bits v 5 0 })
  | .route dst => die' (fun d => { d with routes := SMap.put d.routes (dst % 256) (bits v 2 0) })
  | .sealMap bulk g =>
    let at_ := b2n bulk * 2 ^ 22 + g % 2 ^ 22
    (die' (fun d => { d with sealm := if bits v 11 0 = 0xFFE then SMap.del d.sealm at_ else SMap.put d.sealm at_ (bits v 11 0) })).reseal s
  | .supervisor job => die' (fun d => { d with supers := SMap.put d.supers job (bits v 7 0, bits v 10 8, bits v 18 16) })
  | .lattol port => if (s.md (die / 8)).owner = port + 1 then s.retolerate (die / 8) v else s
  | .backoff => die' (fun d => { d with backoff := v.toNat })
  | .etherType => die' (fun d => { d with etherType := bits v 15 0 })
  | .pfc sub => die' (fun d => { d with pfc := d.pfc.filter (· != sub % 4) ++ (if bit v 0 then [sub % 4] else []) })
  | .barPage page kind => s.modMd (die / 8) (fun m => { m with pages := SMap.put m.pages page (kind, bit v 0, bits v 13 8) })
  | .pinnedKey job key => die' (fun d => { d with pinned := SMap.put d.pinned job key })
  | .area job cl =>
    let n := v.toNat / 4096 * 4096
    if clusterSram < (s.die die).areaBytes (cl % 8) (job * 8 + cl % 8) + (s.die die).windowTop (cl % 8) + n then s
    else die' (fun d => { d with areas := SMap.put d.areas (job * 8 + cl % 8) n })
  | .clusterWindow job cl base =>
    if clusterSram < (s.die die).areaBytes (cl % 8) (2 ^ 20) + base + v.toNat then s else (die' (fun d => { d with cwins := SMap.put d.cwins (job * 8 + cl % 8) (base, v.toNat) })).reseal s
  | .bankKey core => s.takeKeys (die * 128 + core % 64)
  | .clearPage base => s.clearSpan (homePa (die / 8) base) v.toNat
  | .jobCreate job => s.jobCreate die job
  | .jobTeardown job => s.jobTeardown die job
  | .reserveToPool job => s.reserveToPool die job
  | .overflowEnd job flow stage => s.overflowEnd die job flow stage
  | .overflowMove job flow stage cl => die' (fun d => d.refill { job := job, flow := flow, stg := stage, cl := cl, cap := 0 })
  | .service core ctx code => s.service ⟨die * 128 + core % 64, ctx % 2⟩ code.toNat

/-- REGISTER_WRITE (R3). -/
def execRegisterWrite (die : Nat) (target : RegTarget) (v : Word) (s : State) : Out := .next (s.putReg die target v)

end Sys2Proof.Machine
end

