-- ==== Sys2Proof/Machine/Scanner.lean ====
section
/-! DEFINITION. The code scanner (R85 to R95, R107, R108): the bundles of a code section, the rules that each must keep, the scan report
and the head map (R114). -/

namespace Sys2Proof

/-- The offset of a direct target or a loop's end, in words (R97). -/
def Instr.target : Instr → Option Int
  | .br w | .call w => some w.toInt
  | .bz _ w | .bnz _ w | .blt _ w | .bge _ w | .bpany _ w | .bpall _ w | .loop _ _ w => some w.toInt
  | .loopi _ _ e => some e.toNat
  | _ => none
/-- A `loop` or `loopi`. -/
def Instr.isLoop : Instr → Bool
  | .loop .. | .loopi .. => true
  | _ => false
/-- An instruction that may stand in a bundle without a stop (R94): any but the C-slot ones other than `post`, `tret` and `mret`. -/
def Instr.needsStop (slot : Nat) (x : Instr) : Bool :=
  match x with
  | .post .. => false
  | .tret | .mret => true
  | _ => slot == 0

end Sys2Proof

namespace Sys2Proof.Machine

/-! ## Bundles of a section -/

/-- A bundle as it stands in a section: its byte offset, its latches' words, the offset of its sequential successor (R88). -/
structure Laid where
  off : Nat
  i : Iss
  next : Nat
  deriving DecidableEq, Repr

/-- The bundles of a section, head by head (R85, R88). -/
def layOut : Nat → Nat → List Lane → List Laid
  | 0, _, _ => []
  | _, _, [] => []
  | n + 1, off, h :: t =>
    let e := off + headBytes h
    let nx := if h.getLsbD 11 then (e + 63) / 64 * 64 else e
    let k := ones 8 (h.extractLsb' 0 8).toNat + b2n (h.getLsbD 9)
    { off := off, i := { head := h, words := t.take k, lit := t.getD (k - 1) 0 }, next := nx } :: layOut n nx (t.drop ((nx - off) / 4 - 1))

/-- A breach of a rule (R108): offset of the bundle, reason, position in the order of its words, slot. -/
abbrev Breach := Nat × Nat × Nat × Nat

/-- The position of a slot among the words of a bundle, and of the literal; the head stands at 0. -/
def atSlot (n : Nat) : Nat × Nat := (n + 1, n)
def atHead : Nat × Nat := (0, 0xFF)
def atLit : Nat × Nat := (9, 0xFF)

/-- A breach of a bundle if a test holds. -/
def Laid.bad (b : Laid) (c : Bool) (reason : Nat) (p : Nat × Nat) : List Breach := if c then [(b.off, reason, p)] else []

/-- The slots present in a bundle, in the order of their words. -/
def Laid.slots (b : Laid) : List Nat := (List.range 8).filter b.i.has
/-- The word of a `loop` or `loopi` of nonpositive offset (R95): the decoder refuses its operands, the scanner gives it reason 0x0B. -/
def backLoop (slot : Nat) (w : Lane) : Option Instr :=
  let op := (w.extractLsb' 0 8).toNat
  if slot = 0 && 0x20 ≤ op && op ≤ 0x23 && (w.extractLsb' 13 19).toInt ≤ 0 then
    some (.loop (BitVec.ofNat 2 op) (w.extractLsb' 8 5) (w.extractLsb' 13 19))
  else if slot = 0 && 0x24 ≤ op && op ≤ 0x27 && w.extractLsb' 21 11 = 0 then some (.loopi (BitVec.ofNat 2 op) (w.extractLsb' 8 13) 0)
  else none

/-- The instruction of a slot, if its word is one. -/
def Laid.instr (b : Laid) (n : Nat) : Option Instr :=
  if b.i.has n then (match b.i.instr n with | .ok x => some x | .error _ => backLoop n (b.i.word n)) else none
/-- The instructions of a bundle with their slots. -/
def Laid.instrs (b : Laid) : List (Nat × Instr) := b.slots.filterMap (fun n => (b.instr n).map (fun x => (n, x)))

/-! ## Rules of one bundle -/

/-- A monitor-level opcode (R106). -/
def monitorOp (slot : Nat) (w : Lane) : Bool :=
  let op := (w.extractLsb' 0 8).toNat
  slot == 1 && 0xF0 ≤ op && op ≤ 0xFB

/-- The rules on the word of one slot (R96, R101 to R106, R312). -/
def Laid.wordBreach (b : Laid) (task : Bool) (n : Nat) : List Breach :=
  b.bad (task && monitorOp n (b.i.word n)) 0x01 (atSlot n) ++
  match b.i.instr n with
  | .ok x => b.bad ((x == .tret || x == .mret) && (b.i.pres != 2 || !b.i.stop)) 0x04 (atSlot n)
  | .error .unassigned => [(b.off, 0x01, atSlot n)]
  | .error .reserved => [(b.off, 0x02, atSlot n)]
  | .error .operand => [(b.off, if (backLoop n (b.i.word n)).isSome then 0x0B else 0x04, atSlot n)]

/-- Two slots of a bundle write one register or overlapping views, or a port instruction names a port of another slot (R92, R184); the later
slot is the one named. -/
def Laid.writeBreach (b : Laid) : List Breach :=
  b.instrs.flatMap (fun e =>
    let clash := b.instrs.any (fun o =>
      (o.1 < e.1 && e.2.writes.any (fun w => o.2.writes.any w.meets)) ||
      (e.1 = 5 && o.1 ≠ 5 && e.2.takesRows.isNone && e.2.portsNamed.any (o.2.portsNamed.contains ·)))
    b.bad clash 0x05 (atSlot e.1))

/-- The rules on one bundle alone (R85 to R90, R94). `size` is the number of bytes of its section and `code` its words; of a bundle that the section
cuts short the words that stand in it are checked. -/
def Laid.breaches (b : Laid) (task : Bool) (code : List Lane) (size : Nat) : List Breach :=
  let i := b.i
  let e := b.off + headBytes i.head
  let users := b.instrs.filter (fun x => x.2.usesLit)
  let padWords := ((code.drop (e / 4)).take ((b.next - e) / 4))
  let crosses := b.off % 64 + headBytes i.head > 64 || size < e
  b.bad (i.head.extractLsb' 21 3 != 0 || i.head.extractLsb' 12 4 != 0 || padWords.any (· != 0)) 0x02 atHead ++
  b.bad crosses 0x03 atHead ++
  (b.slots.filter (fun n => b.off + 8 + 4 * ones n i.pres ≤ size)).flatMap (b.wordBreach task) ++ b.writeBreach ++
  b.bad (i.hasLit && users.isEmpty) 0x07 atHead ++
  (if i.hasLit then [] else users.flatMap (fun x => [(b.off, 0x07, atSlot x.1)])) ++
  b.bad (i.hasLit && i.lit.extractLsb' 24 8 != 0 && users.any (fun x => x.2.isLoop)) 0x07 atLit ++
  b.bad (if i.gpred = 0 then i.gneg || i.head.extractLsb' 24 8 != 0 else i.head.extractLsb' 24 8 &&& ~~~(i.head.extractLsb' 0 8) != 0) 0x08 atHead ++
  b.bad (i.gmask 0 && (match b.instr 0 with | some x => x.isLoop | none => false)) 0x08 atHead ++
  b.bad (i.pres = 0 && i.gpred != 0) 0x08 atHead ++
  b.bad (!i.stop && (i.lend || b.instrs.any (fun x => x.2.needsStop x.1))) 0x09 atHead

/-! ## Rules across bundles -/

/-- The registers a bundle reads and writes, with their positions; the guard predicate is read by the head (R108). Port views are ordered by
hardware (R54). -/
def Laid.reads (b : Laid) : List ((Nat × Nat) × RegRef) :=
  (if b.i.gpred = 0 then [] else [(atHead, .p b.i.gpred)]) ++
  b.instrs.flatMap (fun x => (x.2.reads.filter (fun r => !r.port)).map (fun r => (atSlot x.1, r)))
def Laid.writes (b : Laid) : List ((Nat × Nat) × RegRef) :=
  b.instrs.flatMap (fun x => (x.2.writes.filter (fun r => !r.port)).map (fun r => (atSlot x.1, r)))

/-- Dependences within groups (R92, R108), in program order; `rs` and `ws` are what the group has read and written so far. -/
def groupBreaches : List RegRef → List RegRef → List Laid → List Breach
  | _, _, [] => []
  | rs, ws, b :: t =>
    let hits := (b.reads.filter (fun r => ws.any r.2.meets)) ++ (b.writes.filter (fun r => ws.any r.2.meets || rs.any r.2.meets))
    hits.map (fun h => (b.off, 0x06, h.1)) ++
    (if b.i.stop then groupBreaches [] [] t else groupBreaches (rs ++ b.reads.map (·.2)) (ws ++ b.writes.map (·.2)) t)

/-- The address a bundle's C slot names (R114, R119). -/
def Laid.target (b : Laid) : Option Int := ((b.instr 0).bind (·.target)).map (fun w => (b.off : Int) + 4 * w)
/-- Begin and end of the loop that a bundle starts, if its end is a head of the section. -/
def Laid.loop (b : Laid) (all : List Laid) : Option (Nat × Laid) :=
  match b.instr 0, b.target with
  | some x, some t => if x.isLoop && (b.off : Int) < t then (all.find? (fun e => (e.off : Int) == t)).map (fun e => (b.off, e)) else none
  | _, _ => none

/-- Targets (R94, R95) and the structure of loop bodies (R95): of two that overlap or end together the later one's bundle is reported (DESIGN CHOICE,
log 94). -/
def flowBreaches (all : List Laid) : List Breach :=
  let loops : List (Nat × Nat) := all.filterMap (fun b => (b.loop all).map (fun l => (l.1, l.2.off)))
  let within (a b : Nat × Nat) : Bool := b.1 < a.1 && a.2 ≤ b.2
  let apart (a b : Nat × Nat) : Bool := a.2 ≤ b.1 || b.2 ≤ a.1
  all.flatMap (fun b =>
    (match b.target with
     | some t => b.bad (!all.any (fun e => (e.off : Int) == t)) 0x0A (atSlot 0)
     | none => []) ++
    (match b.loop all with
     | some (o, e) =>
       let me := (o, e.off)
       b.bad (!e.i.lend) 0x0B (atSlot 0) ++
       b.bad (loops.any (fun l => l.1 < o && (l.2 == me.2 || !(within me l || apart me l)))) 0x0B (atSlot 0) ++
       b.bad ((loops.filter (within me)).length > 3) 0x0B (atSlot 0)
     | none => []) ++
    b.bad (b.i.lend && !loops.any (fun l => l.2 == b.off)) 0x0B atHead)

/-! ## The report -/

/-- The order of R108: lowest offset, then lowest reason, then first position. -/
def Breach.before (a b : Breach) : Bool :=
  a.1 < b.1 || (a.1 == b.1 && (a.2.1 < b.2.1 || (a.2.1 == b.2.1 && a.2.2.1 < b.2.2.1)))

/-- The scan report of a breach (R108). -/
def report (reason slot off : Nat) : Word := w64 (reason * 2 ^ 56 + slot * 2 ^ 48 + off % 2 ^ 32)

/-- The scanner on a code section (R107): the head map, or the report. -/
def scanCode (task : Bool) (code : List Byte) : Except Word (List Nat) :=
  let size := code.length
  let words := lanesOf ((size + 3) / 4) code
  let all := layOut (words.length + 1) 0 words
  let found := all.flatMap (fun b => b.breaches task words size) ++ groupBreaches [] [] all ++ flowBreaches all
  match found.foldl (fun b e => match b with | none => some e | some o => if Breach.before e o then some e else some o) none with
  | some e => .error (report e.2.1 e.2.2.2 e.1)
  | none => .ok (all.map (·.off))

end Sys2Proof.Machine
end

