-- ==== Sys2Proof/Machine/System.lean ====
section
/-! DEFINITION. Control registers (R60, R61, R130, R131, R313, R320), resumption (R321), and the monitor-level instructions of R323 but
for `gsw` and `segmap`, which stand in Squall.lean and Segment.lean. -/

namespace Sys2Proof.Machine

/-! ## Control registers -/

/-- A register of R60 as latched at issue, CYCLE that of the issue, AFLAGS as it stands (R6, R131). -/
def State.csrUserRead (s : State) (n : Nat) : Word :=
  let r := s.iss.lat
  match n with
  | 0 => r.tileCoord
  | 1 => r.taskId
  | 2 => r.jobId
  | 3 => w64 (coreId s.cur.core s.cur.ctx) ^^^ r.coreX
  | 4 => r.slim
  | 5 => r.bankKey
  | 6 => r.portStatus
  | 7 => s.cx.r.aflags
  | 8 => r.faultInfo
  | _ => s.iss.born + r.cycX

/-- Clear the exhausted bits that a W1C write of PORT_STATUS names (R61). -/
def Regs.clearExh (r : Regs) (v : Word) : Regs :=
  let hit (n : Nat) : Bool := bit v n
  { r with ports := (range 0 12).foldl (fun m n => if hit n then SMap.put m n { (SMap.get {} m n) with exh := false } else m) r.ports }

/-- A write of a register of R60, obeying its access (R3); the registers that are RO to a task are writable from monitor level (R313). -/
def State.csrUserWrite (s : State) (n : Nat) (v : Word) : State :=
  s.modR (fun r => match n with
    | 0 => { r with tileCoord := v }
    | 1 => { r with taskId := v }
    | 2 => { r with jobId := v &&& 0x3FF }
    | 3 => { r with coreX := (v &&& 0x3FF) ^^^ w64 (coreId s.cur.core s.cur.ctx) }
    | 4 => { r with slim := v }
    | 5 => { r with bankKey := v }
    | 6 => r.clearExh v
    | 7 => { r with aflags := r.aflags &&& ~~~v }
    | 8 => { r with faultInfo := v &&& 0xFFFFF }
    | _ => { r with cycX := v - s.cycle })

/-- Every flag that an instruction issued earlier raises has reached AFLAGS (R131); a write waits for them as a read does (DESIGN CHOICE, log 95). -/
def State.flagsIn (s : State) (n : Nat) : State := if n = 7 then s.drainAll s.cur.core else s

/-- `csrr` (R130). -/
def execCsrr (d : BitVec 5) (n : BitVec 12) (s : State) : Out :=
  let s := s.flagsIn n.toNat
  .next (s.wg d (s.csrUserRead n.toNat))

/-- `csrw` (R130). -/
def execCsrw (a : BitVec 5) (n : BitVec 12) (s : State) : Out := .next ((s.flagsIn n.toNat).csrUserWrite n.toNat (s.ra a))

/-- A system control register (R313). -/
def State.csrSysRead (s : State) (n : Nat) : Word :=
  let y := s.cx.y
  let c := s.co
  match n with
  | 0x100 => y.level.zeroExtend 64
  | 0x101 => y.tvec
  | 0x102 => y.tscratch
  | 0x103 => y.trec
  | 0x104 => y.tpol
  | 0x105 => y.asid
  | 0x106 => y.ptroot
  | 0x107 => y.specdisc
  | 0x108 => c.evt
  | 0x109 => c.evtmask
  | 0x10A => y.mepc
  | 0x10B => y.mcause
  | _ => c.evtarea

/-- A write of a system control register, obeying its access (R3, R313). -/
def State.csrSysWrite (s : State) (n : Nat) (v : Word) : State :=
  match n with
  | 0x101 => s.modY (fun y => { y with tvec := v })
  | 0x102 => s.modY (fun y => { y with tscratch := v })
  | 0x103 => s.modY (fun y => { y with trec := v })
  | 0x104 => s.modY (fun y => { y with tpol := v &&& 3 })
  | 0x105 => s.modY (fun y => { y with asid := v &&& 0x1FF })
  | 0x106 => s.modY (fun y => { y with ptroot := v })
  | 0x107 => s.modY (fun y => { y with specdisc := v })
  | 0x108 => s.modCo (fun c => { c with evt := c.evt &&& ~~~v })
  | 0x109 => s.modCo (fun c => { c with evtmask := v })
  | 0x10A => s.modY (fun y => { y with mepc := v })
  | 0x10C => s.modCo (fun c => { c with evtarea := v })
  | _ => s

/-- What `csrrs` may not reach: EVTAREA on a compute core; a write of LEVEL, MEPC or MCAUSE from monitor level (R313). -/
def State.csrDenied (s : State) (n : Nat) : Bool :=
  (n == 0x10C && !isSystem s.cur.core) || ((n == 0x100 || n == 0x10A || n == 0x10B) && s.cx.y.level != 2)

/-- `csrrs` (R320): the old value to gD, the new one to the register. -/
def State.csrrs (s : State) (d : BitVec 5) (n : BitVec 12) (f : Word → Word) : State :=
  let k := n.toNat
  if s.csrDenied k then s.privilege
  else
    let s := s.flagsIn k
    let old := if k < 0x100 then s.csrUserRead k else s.csrSysRead k
    if s.lowSp d old then s.takeTrap 0x0701 old
    else (if k < 0x100 then s.csrUserWrite k (f old) else s.csrSysWrite k (f old)).modR (fun r => r.setG d.toNat old)

/-- `csrrs.w` (R320). -/
def execCsrrsW (d a : BitVec 5) (n : BitVec 12) (s : State) : Out := .next (s.csrrs d n (fun _ => s.ra a))
/-- `csrrs.s` (R320). -/
def execCsrrsS (d a : BitVec 5) (n : BitVec 12) (s : State) : Out := .next (s.csrrs d n (fun o => o ||| s.ra a))
/-- `csrrs.c` (R320). -/
def execCsrrsC (d a : BitVec 5) (n : BitVec 12) (s : State) : Out := .next (s.csrrs d n (fun o => o &&& ~~~(s.ra a)))

/-! ## Changing the level (R311, R321, R323) -/

/-- The A slot has moved the pc itself. -/
def State.transferred (s : State) : State := s.modIss (fun i => { i with xfer := true })

/-- `tret` (R321). The record is read at TREC; its V is cleared. -/
def execTret (s : State) : Out :=
  let va := vaOf s.cx.y.trec
  match s.getVa s.xc va 2048 with
  | .error (c, a) => .next (s.takeTrap c (w64 a))
  | .ok b =>
    if recordBad b then .next (s.takeTrap 0x0F04 (w64 va))
    else
      let s := s.putVa s.xc (va + 15) [b.getD 15 0 &&& 0x7F] 1
      .next (s.resumeAt s.cur b).transferred

/-- `mret` (R312, R323): root hands over to the monitor at MEPC. It answers first what arrived while it was running (R378). -/
def execMret (s : State) : Out :=
  if !isSystem s.cur.core || s.cx.y.level != 2 then .next s.privilege
  else
    let die := coreDie s.cur.core
    let s := if die % 8 = 0 then s.answerSpdm (die / 8) else s
    let s := s.modCx (fun c => { c with r := { c.r with pc := c.y.mepc }, y := { c.y with level := 1 }, off := false })
    .next (s.loadBounds s.cur (vaOf s.cx.y.mepc)).transferred

/-- `wfe` (R323, R324). -/
def execWfe (d : BitVec 5) (s : State) : Out :=
  if s.co.evt &&& s.co.evtmask = 0 then .next s.hold else .next (s.wg d s.co.evt)

/-! ## Instructions of the system core (R312) -/

/-- An instruction that runs on a system core alone (R312). -/
def State.onSystem (s : State) (f : State → State) : Out := .next (if isSystem s.cur.core then f s else s.privilege)
/-- Write a status to d (R323). -/
def State.status (s : State) (d : BitVec 5) (n : Nat) : State := s.wg d (w64 n)
/-- An effect with its status; where R62 keeps the status out of d there is the fault and no effect. -/
def State.effect (s : State) (d : BitVec 5) (n : Nat) (t : State) : State := if s.lowSp d (w64 n) then s.status d n else t.status d n

/-- The cores of a die that hold state. -/
def State.coresOf (s : State) (die : Nat) : List Nat := (s.cores.map (·.1)).filter (fun k => k / 128 == die)

/-- The part of one core in the shootdown handshake (R339): its TLB entries and its fetched blocks go, its lines of the slot within the page
are written back and discarded. `page` is none for every page of the slot; of lines and blocks all within 1 GiB of its VA go, which no page exceeds
(DEDUCED, log 56). -/
def State.shootCore (s : State) (core asid : Nat) (page : Option Nat) : State :=
  let hit (t : Tlb) : Bool := t.asid == asid && (match page with | some va => t.page == va / 2 ^ t.bits | none => true)
  let near (a v : Nat) : Bool := a == asid && (match page with | some va => v / 2 ^ 30 == va / 2 ^ 30 | none => true)
  (s.modCore core (fun c => { c with tlb := c.tlb.filter (fun t => !hit t), icache := c.icache.filter (fun b => !near b.asid b.va) })).invalidate core
    (fun l => l.tags.any (fun t => near t.1 t.2))

/-- A core still has an access of a slot on its way (R339): a remote write not yet acknowledged, a request of a bundle, a register that awaits its
load, or an engine's request or word not yet written. -/
def State.inFlight (s : State) (core asid : Nat) : Bool :=
  s.unacked core 4 ||
  [0, 1].any (fun x =>
    let c := s.ctxAt ⟨core, x⟩
    bits c.y.asid 8 0 == asid && ((match c.held with | some i => i.req.isSome | none => false) || !c.pend.isEmpty)) ||
  (s.core core).cards.any (fun c => c.asid == asid && ((!c.words.isEmpty && !c.stuck) || s.cardOutstanding core c))

/-- The shootdown handshake on a die (R339): walker caches, every core, then every write on the die at its home. Whether every core has
acknowledged. -/
def State.shootdown (s : State) (die asid : Nat) (page : Option Nat) : Bool × State :=
  let s := (coreCluster (sysCore die) :: range (die * 8) 8).foldl (fun s c =>
    s.modCluster c (fun k => { k with walker := k.walker.filter (fun e => e.1 != asid) })) s
  let cores := s.coresOf die
  let s := cores.foldl (fun s k => (s.shootCore k asid page).rewordAll k (fun c => c.asid == asid && c.stuck)) s
  let s := (range (die * 8) 8).foldl (fun s c => s.drainClusterAll c (fun _ => true)) s
  let s := s.drainStationAll die (fun _ => true)
  (!cores.any (fun k => s.inFlight k asid), s)

/-- `tinv` (R323, R339). -/
def execTinv (d a b : BitVec 5) (s : State) : Out :=
  s.onSystem (fun s =>
    match s.shootdown (coreDie s.cur.core) (bits (s.ra b) 8 0) (some (vaOf (s.ra a))) with
    | (true, t) => s.effect d 0 t
    | (false, s) => s.hold)

/-- `asidinv` (R323, R339). -/
def execAsidinv (d a : BitVec 5) (s : State) : Out :=
  s.onSystem (fun s =>
    match s.shootdown (coreDie s.cur.core) (bits (s.ra a) 8 0) none with
    | (true, t) => s.effect d 0 t
    | (false, s) => s.hold)

/-- A span that the device reads or writes for a monitor instruction: the first cause and its VA (R173). -/
def State.spanBad (s : State) (va n : Nat) (acc : Acc) : Option (Nat × Nat) :=
  (va :: ((range (va / 4096 + 1) (n / 4096 + 1)).map (· * 4096)).filter (· < va + n)).findSome? (fun a =>
    match s.xlate s.xc a acc with
    | .error c => some (c, a)
    | .ok t => if t.plain then none else some (0x0501, a))

/-- The span at an effective address: canonical, then translation (R171, R173). -/
def State.eaBad (s : State) (ea : Word) (n : Nat) (acc : Acc) : Option (Nat × Word) :=
  if !canonical ea then some (0x0404, ea) else (s.spanBad (vaOf ea) n acc).map (fun e => (e.1, w64 e.2))

/-- The bytes of a span that has passed its checks. -/
def State.span (s : State) (va n : Nat) : List Byte := match s.getVa s.xc va n with | .ok b => b | .error _ => []

/-- The place that a CORE_ID operand names on the die of the system core; nothing on another die. -/
def State.targetOf (s : State) (v : Word) (ctx : Nat) : Option Place :=
  let die := coreDie s.cur.core
  if bits v 8 6 = die % 8 then some ⟨die * 128 + bits v 5 0, ctx⟩ else none

/-- The record of a stopped context, at its TREC (R317, R374). -/
def State.recordOf (s : State) (p : Place) : List Byte :=
  match s.getVa { s.xctxAt p with level := 1 } (vaOf (s.ctxAt p).y.trec) 2048 with
  | .ok b => b
  | .error _ => List.replicate 2048 0

/-- `ctxsave` (R323, R374, R375): the target's work completes first (R159, R203, R253). -/
def execCtxsave (d a b : BitVec 5) (s : State) : Out :=
  s.onSystem (fun s =>
    match s.targetOf (s.ra b) (bits (s.ra b) 9 9) with
    | none => s.status d 2
    | some p =>
      let c := s.ctxAt p
      if c.run != .stopped then s.status d 1
      else if !s.awakeCl (coreCluster p.core) then (s.callCl (coreCluster p.core)).hold
      else if ((s.die (coreDie p.core)).ctxKey (bits c.r.jobId 9 0) (coreId p.core p.ctx)).isNone then s.status d 5
      else match s.eaBad (s.ra a) (imgLen c.t.vb c.t.acn (c.splen p.ctx)) .wr with
        | some e => s.takeTrap e.1 e.2
        | none => match s.quiet p with
          | (false, s) => s.hold
          | (true, s) => match s.saveImage p (s.recordOf p) with
            | none => s.status d 5
            | some (t, img) => s.effect d 0 (t.putVa t.xc (vaOf (t.ra a)) img (img.length + 1)))

/-- `ctxrest` (R323, R374, R375): the checks of the image, then the load; a core that has not been scrubbed after another job's task is not free for it
(R348; DESIGN CHOICE, log 88); the context enters its handler at monitor level, and `tret`
resumes the task. -/
def execCtxrest (d a b : BitVec 5) (s : State) : Out :=
  s.onSystem (fun s =>
    match s.targetOf (s.ra b) (bits (s.ra b) 9 9) with
    | none => s.status d 2
    | some p =>
      let o := s.core p.core
      if o.c0.run != .free || o.c1.run != .free then s.status d 1
      else if !s.awakeCl (coreCluster p.core) then (s.callCl (coreCluster p.core)).hold
      else match s.eaBad (s.ra a) 256 .rd with
        | some e => s.takeTrap e.1 e.2
        | none =>
          let va := vaOf (s.ra a)
          let hdr := s.span va 256
          match imgLenOf hdr with
          | none => s.status d 5
          | some len => match s.eaBad (s.ra a) len .rd with
            | some e => s.takeTrap e.1 e.2
            | none => match s.openImage (coreDie p.core) p.ctx (s.span va len) with
              | .error n => s.status d n
              | .ok (k, plain) =>
                if !o.cleanFor (imageTask (wordOf (slice hdr 16 8)) plain).job then s.status d 1 else
                let t := s.loadImage p k (wordOf (slice hdr 16 8)) (ofBytes (slice hdr 24 4)) plain
                let x : XCtx := { t.xctxAt p with level := 1 }
                let t := t.putVa x (vaOf (t.ctxAt p).y.trec) (slice plain 0 2048) 512
                let t := t.modCtxAt p (fun c => { c with y := { c.y with level := 1 }, r := { c.r with pc := c.y.tvec } })
                s.effect d 0 (t.loadBounds p (vaOf (t.ctxAt p).y.tvec)))

/-- The bytes of a core's scratchpad read zero. -/
def State.clearScratch (s : State) (core : Nat) : State :=
  let inside (a : Nat) : Bool := homeScratch core 0 ≤ a && a < homeScratch core (2 ^ 21)
  { s with mem := s.mem.filter (fun c => !inside c.1), poison := s.poison.filter (fun a => !inside a) }

/-- The registers that `scrub` zeroes. -/
def Regs.scrubbed (r : Regs) : Regs := { r with g := [], p := [], k := [], h := [], lc := [] }

/-- The state of a core after `scrub` (R323). -/
def Core.scrubbed (c : Core) : Core :=
  { c with c0 := { c.c0 with r := c.c0.r.scrubbed }, c1 := { c.c1 with r := c.c1.r.scrubbed }, vfile := [], acc := [], latch0 := {}, latch1 := {},
           active := false, dcache := [], handles := [], tenant := none, keyed := none }

/-- `scrub` (R323, R348). -/
def execScrub (d a : BitVec 5) (s : State) : Out :=
  s.onSystem (fun s =>
    match s.targetOf (s.ra a) 0 with
    | none => s.status d 2
    | some p =>
      let o := s.core p.core
      if o.c0.run != .free || o.c1.run != .free then s.status d 1
      else if !s.awakeCl (coreCluster p.core) then (s.callCl (coreCluster p.core)).hold
      else s.effect d 0 ((s.clearScratch p.core).modCore p.core Core.scrubbed))

/-! ## Keys (R365 to R368) -/

/-- A slot that `keyld` may not destroy (R368). -/
def State.keyInUse (s : State) (die : Nat) (k : KeySlot) : Bool :=
  ((s.coresOf die).filter (fun c => !isSystem c)).any (fun c => [0, 1].any (fun x =>
    let o := s.ctxAt ⟨c, x⟩
    o.run != .free && (o.t.job == k.job || (o.run == .stopped && k.kind == 1 && !k.dflt && k.v && k.bind == coreId c x))))

/-- The key slot that a wrapped key describes (R366), and whether it is one the store refuses (R368). -/
def Die.blobKey (d : Die) (w0 : Word) (key : BitVec 256) : KeySlot × Bool :=
  let k : KeySlot := { v := true, kind := bits w0 30 29, bind := bits w0 28 19, dflt := bit w0 18, job := bits w0 9 0, ctr := 0, key := key }
  let same (o : KeySlot) : Bool := o.v && o.kind == k.kind && o.job == k.job && (k.kind == 0 || k.kind == 2 || (k.kind == 1 && o.dflt == k.dflt && o.bind == k.bind))
  (k, bits w0 63 31 ≠ 0 || bits w0 17 10 ≠ 0 || d.keys.any (fun o => o.1 != 0 && same o.2) || (k.dflt && k.bind ≠ 0) || (k.kind ≠ 1 && (k.dflt || k.bind ≠ 0)))

/-- The effect of `keyld` once its operands are read (R368): the status and the die. -/
def State.keyld (s : State) (die sl : Nat) (blob : List Byte) : Nat × State :=
  let dd := s.die die
  let w0 := wordOf (slice blob 0 8)
  let iv : BitVec 96 := (wordOf (slice blob 8 8)).zeroExtend 96
  let ct := slice blob 16 32
  if (SMap.get {} dd.keys sl).v then (1, s)
  else if Config.gcmTag dd.wrapKey iv (slice blob 0 8) ct ≠ BitVec.ofNat 128 (ofBytes (slice blob 48 16)) then (3, s)
  else
    let key := BitVec.ofNat 256 (ofBytes (Config.gcmCrypt dd.wrapKey iv ct))
    let (k, refused) := dd.blobKey w0 key
    if refused then (5, s) else (0, (s.modDie die (fun d => { d with keys := SMap.put d.keys sl k })).reseal s)

/-- `keyld` (R368). -/
def execKeyld (d a b : BitVec 5) (s : State) : Out :=
  s.onSystem (fun s =>
    let die := coreDie s.cur.core
    let sl := bits (s.ra b) 11 0
    if 1024 ≤ sl || sl = 0 || bits (s.ra b) 63 12 ≠ 0 then s.status d 5
    else if s.ra a = 0 then
      let k := SMap.get {} (s.die die).keys sl
      if s.keyInUse die k then s.status d 1
      else s.effect d 0 ((s.modDie die (fun d => { d with keys := SMap.del d.keys sl })).reseal s)
    else if (s.ra a).toNat % 64 ≠ 0 then s.takeTrap 0x0801 (s.ra a)
    else match s.eaBad (s.ra a) 64 .rd with
      | some e => s.takeTrap e.1 e.2
      | none =>
        let (n, t) := s.keyld die sl (s.span (vaOf (s.ra a)) 64)
        s.effect d n t)

end Sys2Proof.Machine
end

