-- ==== Sys2Proof/Machine/Segment.lean ====
section
/-! DEFINITION. The mapping of a program segment (R323, R370, R371): the header and directory, flows (R25, R26, R38), the pipeline image (R274),
queue memory (R342), code (R107), block tags, the measurement (R377). -/

namespace Sys2Proof.Machine

/-! ## The header and the directory (R370) -/

/-- A directory entry in use: kind, byte offset within the body, size. -/
structure DirEntry where
  kind : Nat
  off : Nat
  size : Nat
  deriving DecidableEq, Repr

/-- The reserved fields and ranges of the header (R370, R371 step 1). -/
def headerBad (h : List Byte) : Bool :=
  let w (off : Nat) : Word := wordOf (slice h off 8)
  let zero (off n : Nat) : Bool := (slice h off n).all (· == 0)
  bits (w 0) 63 41 ≠ 0 || bits (w 0) 39 32 ≠ 1 || bits (w 0) 31 0 = 0 || 2 ^ 20 < bits (w 0) 31 0 || bits (w 16) 63 26 ≠ 0 || bits (w 16) 15 10 ≠ 0 ||
  bits (w 16) 25 16 < bits (w 16) 9 0 || 512 < bits (w 16) 25 16 || !zero 0x18 8 || !zero 0x60 160 || !zero 0x1FB0 80

/-- The directory of a body, or nothing where it breaks R370. -/
def directory (body : List Byte) : Option (List DirEntry) :=
  let ws := wordsOf 64 body
  let es := (range 0 32).map (fun i => (wd ws (2 * i), wd ws (2 * i + 1)))
  let used := (es.filter (fun e => bits e.1 63 60 ≠ 0)).map (fun e => ({ kind := bits e.1 63 60, off := bits e.1 31 0, size := bits e.2 31 0 } : DirEntry))
  let ok := es.all (fun e => bits e.1 63 60 ≤ 5 && bits e.1 59 32 == 0 && bits e.2 63 32 == 0) &&
    used.all (fun e => e.off % 512 == 0 && e.off + e.size ≤ body.length) &&
    used.Pairwise (fun a b => a.off + a.size ≤ b.off ∨ b.off + b.size ≤ a.off)
  if ok then some used else none

/-- The bytes of a section. -/
def DirEntry.bytes (e : DirEntry) (body : List Byte) : List Byte := slice body e.off e.size

/-! ## Flows (R25, R26) -/

/-- A stage descriptor, or nothing where it breaks R26. `start` tells the offsets in the segment at which a bundle starts. -/
def stageOfWords (va : Nat) (start : Nat → Bool) (w0 w1 : Word) : Option Stage :=
  let acn := bits w0 53 49
  let acb := bits w0 48 45
  let stk := bits w0 40 34
  let entry := bits w0 31 0
  let cap := bits w1 10 0
  if bits w0 63 54 ≠ 0 || 16 < acn || 16 < acb + acn || stk = 0 || 64 < stk || entry % 4 ≠ 0 || !start entry || bits w1 63 11 ≠ 0 || cap = 0 || 1024 < cap
  then none
  else some { acn := acn, acb := acb, sprio := bits w0 44 41, stk := stk, acz := bit w0 33, vb := bit w0 32, entry := w64 (va + entry), cap := cap }

/-- The flows of a section, read one after another (R25): the error is the byte offset of the failing structure within the section. -/
def flowsOf (job va : Nat) (start : Nat → Bool) : Nat → Nat → List Nat → List Word → Except Nat (List (Nat × Flow))
  | _, _, _, [] => .ok []
  | 0, at_, _, _ => .error at_
  | n + 1, at_, seen, h :: t =>
    let k := bits h 10 8 + 1
    let num := bits h 7 0
    if bits h 63 15 ≠ 0 || seen.contains num || t.length < 2 * k then .error at_
    else
      let st := (range 0 k).map (fun i => stageOfWords va start (wd t (2 * i)) (wd t (2 * i + 1)))
      match findIdx (·.isNone) 0 st with
      | some (i, _) => .error (at_ + 8 + 16 * i)
      | none =>
        let f : Flow := { job := job, flow := num, fprio := bits h 13 11, pre := bit h 14, stages := st.filterMap id }
        match flowsOf job va start n (at_ + 8 + 16 * k) (num :: seen) (t.drop (2 * k)) with
        | .ok l => .ok ((at_, f) :: l)
        | .error e => .error e

/-- The flows of every flow section, each with its header's offset in the segment (header of 0x2000 bytes included). -/
def allFlows (job va : Nat) (start : Nat → Bool) (body : List Byte) : List Nat → List DirEntry → Except Nat (List (Nat × Flow))
  | _, [] => .ok []
  | seen, e :: t =>
    if e.size % 8 ≠ 0 then .error (0x2000 + e.off + e.size / 8 * 8)
    else match flowsOf job va start (e.size / 8) (0x2000 + e.off) seen (wordsOf (e.size / 8) (e.bytes body)) with
      | .error x => .error x
      | .ok l => match allFlows job va start body (seen ++ l.map (fun f => f.2.flow)) t with
        | .ok m => .ok (l ++ m)
        | .error x => .error x

/-! ## The pipeline image (R259, R261, R269, R271, R274) -/

/-- A malformed parse state (R259) of a program of n states. -/
def parseBad (n : Nat) (s : List Word) : Bool :=
  let w0 := wd s 0
  let next (v : Nat) : Bool := v < n || v == 0x40 || v == 0x41
  let selw := bits w0 34 33
  let len := bits w0 7 0
  let dst := bits w0 16 8
  let all := (wd s 1).toNat + (wd s 2).toNat * 2 ^ 64 + (wd s 3).toNat * 2 ^ 128
  let tr (t : Nat) : Bool :=
    let v := nbits all (48 * t + 47) (48 * t)
    let msk := nbits v 31 16
    let val := nbits v 15 0
    nbits v 47 40 ≠ 0 || val &&& msk ≠ val || (nbits v 39 39 = 1 && (!next (nbits v 38 32) || selw = 0)) ||
    (selw = 1 && (256 ≤ msk || 256 ≤ val))
  bits w0 63 42 ≠ 0 || selw = 3 || !next (bits w0 41 35) || 64 < len || (0 < len && (dst < 64 || 320 < dst + len)) || (range 0 4).any tr

/-- A malformed descriptor of table T, in use (R261). -/
def tableBad (g : Program) (nmod n : Nat) (t : PTable) : Bool :=
  let w0 := t.w 0
  let gate := t.goff ≠ 0 || t.gbit ≠ 0 || t.gneg
  bits w0 63 52 ≠ 0 || bit w0 51 || bit w0 31 || 4 < t.kind || 512 < t.koff + t.klen || bits (t.w 1) 63 49 ≠ 0 || 65536 < t.nreg || t.woff % 128 ≠ 0 ||
  (t.desc.drop 9).any (· ≠ 0) || (t.goff = 0 && gate) ||
  (match t.kind with
   | 1 => 2048 < t.cap
   | 2 => 16384 < t.cap
   | 3 => 1024 < t.cap || 8 < t.klen
   | 4 => t.koff ≠ 0 || t.klen ≠ 1 || gate || t.defact.any (· ≠ 0)
   | _ => false) ||
  (t.kind ≠ 4 && actionBad g nmod (n / 4) t.defact)

/-- A malformed counter array word in use (R269). -/
def carrBad (w : Word) : Bool := bits w 31 25 ≠ 0 || bits w 7 4 ≠ 0 || 65536 < carrN w || carrOff w % 4 ≠ 0

/-- A malformed slot set in use (R269): `win` is the size of the job's window in a cluster. -/
def slotBad (g : Program) (win : Nat → Nat) (stage : Nat → Nat → Bool) (s : List Word) : Bool :=
  let z := 2 ^ ssLog s
  let a := g.arr (ssCstg s)
  bits (wd s 0) 15 12 ≠ 0 || bit (wd s 0) 7 || bits (wd s 1) 63 59 ≠ 0 || bit (wd s 1) 31 || bits (wd s 2) 63 56 ≠ 0 || wd s 3 ≠ 0 ||
  ssLog s < 6 || 20 < ssLog s || ssOff s % z ≠ 0 || !carrV a || carrN a ≤ ssCbase s + ssNslot s || ssThr s = 0 ||
  win (carrCl a) < ssOff s + (ssNslot s + 1) * z || !stage (ssFlow s) (ssStg s)

/-- A malformed punt ring in use (R271). -/
def ringBad (win : Nat → Nat) (r : List Word) : Bool :=
  let w := wd r 0
  bits w 31 24 ≠ 0 || wd r 1 ≠ 0 || bits w 63 32 % 64 ≠ 0 || 6 < bits w 7 4 ||
  win (bits w 3 1) < bits w 63 32 + 64 + (bits w 23 8 + 1) * 2 ^ (bits w 7 4 + 7)

/-- Two slot sets whose counter ranges overlap (R269). -/
def rangesMeet (a b : List Word) : Bool :=
  ssCstg a == ssCstg b && ssCbase a ≤ ssCbase b + ssNslot b && ssCbase b ≤ ssCbase a + ssNslot a

/-- The windows that a program takes in the pipeline area: cluster, first byte, end (R261). -/
def Program.windows (g : Program) : List (Nat × Nat × Nat) :=
  (g.tables.filter (fun t => t.2.valid)).map (fun t => (t.2.cluster, t.2.woff, t.2.woff + 128 * t.2.cap + 4 * t.2.nreg)) ++
  (g.carr.filter carrV).map (fun w => (carrCl w, carrOff w, carrOff w + 4 * carrN w))

/-- A table with an entry of the image added, as `mtins` adds one; nothing where it is full. -/
def PTable.addEntry (t : PTable) (e : PEntry) : Option PTable :=
  if t.entries.any e.same then some { t with entries := mapIf e.same (fun _ => e) t.entries }
  else if t.cap ≤ t.entries.length then none else some { t with entries := t.entries ++ [e] }

/-- The initial entries (R274): a word naming T, then an image. -/
def addEntries (nmod : Nat) : Nat → List Word → Program → Option Program
  | 0, _, g => some g
  | n + 1, ws, g =>
    let t := bits (wd ws 0) 5 0
    let img := (ws.drop 1).take 16
    match g.table t with
    | none => none
    | some tab =>
      if bits (wd ws 0) 63 6 ≠ 0 || imageBad g nmod t tab img then none
      else match tab.addEntry (entryOf img) with
        | none => none
        | some tab => addEntries nmod n (ws.drop 17) { g with tables := SMap.put g.tables t tab }

/-- The list cut into pieces of a size. -/
def chunks (k : Nat) : Nat → List Word → List (List Word)
  | 0, _ => []
  | n + 1, ws => ws.take k :: chunks k n (ws.drop k)

/-- The program that an image stands for (R274), or nothing where it is malformed. `area` and `win` give the sizes of the job's pipeline area
and cluster window by cluster, `stage` the flows and stages of the job. Of a table, counter array, slot set or ring with V = 0 no other field is looked at;
an empty counter array beyond the area is refused; bytes of a section after its last entry are accepted (DESIGN CHOICE, log 91). -/
def programOf (job nmod : Nat) (area win : Nat → Nat) (stage : Nat → Nat → Bool) (img : List Byte) : Option Program :=
  let ws := wordsOf (img.length / 8) img
  let n := bits (wd ws 0) 5 0 + 1
  let nent := bits (wd ws 1) 31 0
  let at_ := 8 + 4 * n
  let states := chunks 4 n (ws.drop 8)
  let tabs := chunks 16 64 (ws.drop at_)
  let carr := (ws.drop (at_ + 1024)).take 16
  let slots := chunks 4 16 (ws.drop (at_ + 1040))
  let rings := chunks 2 8 (ws.drop (at_ + 1104))
  let g : Program := { job := job, states := states, tables := (range 0 64).zip (tabs.map (fun d => ({ desc := d } : PTable))), carr := carr, cnt := [],
                       slots := slots, rings := rings, counts := [] }
  let wins := g.windows
  let taken := wins.filter (fun w => w.2.1 < w.2.2)
  let used := slots.filter ssV
  let bad := img.length < 8 * (at_ + 1120 + 17 * nent) || bits (wd ws 0) 63 6 ≠ 0 || bits (wd ws 1) 63 32 ≠ 0 || ((ws.take 8).drop 2).any (· ≠ 0) ||
    states.any (parseBad n) || g.tables.any (fun t => t.2.valid && tableBad g nmod t.1 t.2) || (carr.filter carrV).any carrBad ||
    used.any (slotBad g win stage) || !(used.Pairwise (fun a b => rangesMeet a b = false)) ||
    (rings.filter (fun r => bit (wd r 0) 0)).any (ringBad win) || wins.any (fun w => area w.1 < w.2.2) ||
    !(taken.Pairwise (fun a b => a.1 ≠ b.1 ∨ a.2.2 ≤ b.2.1 ∨ b.2.2 ≤ a.2.1))
  if bad then none else addEntries nmod nent (ws.drop (at_ + 1120)) g

/-! ## Code (R107, R371) -/

/-- The code sections with their head maps and block tags, or the first scan report. -/
def codeOf (task : Bool) (key : BitVec 256) (mapno : BitVec 32) (va : Nat) (body : List Byte) : List DirEntry → Except Word (List Section)
  | [] => .ok []
  | e :: t =>
    match scanCode task (e.bytes body), codeOf task key mapno va body t with
    | .error w, _ => .error w
    | .ok _, .error w => .error w
    | .ok hs, .ok l =>
      let a := va + 0x2000 + e.off
      let tag (i : Nat) : Nat × BitVec 64 := ((a + 512 * i) / 512, blockTag key mapno (a + 512 * i) (slice body (e.off + 512 * i) 512))
      .ok ({ va := a, size := e.size, heads := hs.map (· + a), tags := (range 0 ((e.size + 511) / 512)).map tag } :: l)

/-- The offsets in the segment at which a bundle of a code section starts (R26). -/
def bundleStarts (body : List Byte) (es : List DirEntry) : List Nat :=
  es.flatMap (fun e => (layOut (e.size / 4 + 1) 0 (lanesOf (e.size / 4) (e.bytes body))).map (fun b => 0x2000 + e.off + b.off))

/-! ## Mapping -/

/-- The rest of R371 on a segment: stage limit (R38, R343: the stages of jobs that Squall holds out count, so that they can come back), queue memory (R342), code, step 6 and the measurement (R377). -/
def State.mapRest (s : State) (die job va : Nat) (monitor : Bool) (hdr body : List Byte) (flows : List Flow) (stages : List Stage)
    (progs : List (DirEntry × Option Program)) (code : List DirEntry) (at_ : Nat) (p : Part) (nc : Nat) : Word × State :=
  let d := s.die die
  let mapno := d.mapno + 1
  let fail (reason off : Nat) : Word × State := (report reason 0xFF off, s)
  if 256 < (((d.flows ++ d.savedJobs.flatMap (·.flows)).flatMap (·.stages)).length + stages.length) then fail 0x13 at_
  else if !monitor && !d.queueFits p job nc stages then fail 0x14 at_
  else match codeOf (!monitor) (d.fetchKey job) mapno va body code with
    | .error w => (w, s)
    | .ok secs =>
      if (d.keyOf 2 job).isNone then fail 0x10 0
      else
        let segid := wordOf (slice hdr 8 8)
        let w2 := wordOf (slice hdr 16 8)
        let g : Segment := { job := job, monitor := monitor, va := va, size := 0x2000 + body.length, splo := bits w2 9 0, sphi := bits w2 25 16,
                             mapno := mapno, segid := segid, code := secs }
        let m := SMap.get (0, 0) d.jobs job
        let jm := Config.sha256 (bytesOf 32 m.2 ++ bytesOf 32 (Config.sha256 (hdr.take 256)).toNat ++ bytesOf 8 segid.toNat)
        (0, s.modDie die (fun d => { d with mapno := mapno, segs := g :: d.segs, flows := d.flows ++ flows,
                                            progs := d.progs ++ progs.filterMap (·.2), jobs := SMap.put d.jobs job (m.1 + 1, jm.toNat) }))

/-- The checks of R371 on a segment, and its mapping on the die of the system core; the answer is 0 or the scan report. A refused pipeline image is reported
at the first byte of its section (DESIGN CHOICE, log 91). -/
def State.mapSegment (s : State) (va : Nat) (hdr body : List Byte) : Word × State :=
  let die := coreDie s.cur.core
  let d := s.die die
  let job := bits s.cx.r.jobId 9 0
  let monitor := bit (wordOf (slice hdr 0 8)) 40
  let digest (off : Nat) : BitVec 256 := BitVec.ofNat 256 (ofBytes (slice hdr off 32))
  let fail (reason off : Nat) : Word × State := (report reason 0xFF off, s)
  match directory body with
  | none => fail 0x10 0
  | some dir =>
    let kind (k : Nat) : List DirEntry := dir.filter (fun e => e.kind == k)
    let tpk := slice hdr 0x40 32
    if (d.pinned.has job && Config.sha256 tpk != SMap.get 0 d.pinned job) || !Config.slhVerify tpk (hdr.take 256) (slice hdr 0x100 7856) ||
       Config.sha256 body != digest 0x20 then fail 0x10 0
    else
      let starts := bundleStarts body (kind 1)
      let mine := d.flows.filter (fun f => f.job == job)
      match allFlows job va starts.contains body (mine.map (·.flow)) (kind 4) with
      | .error off => fail 0x11 off
      | .ok new =>
        let flows := new.map (·.2)
        let stage (f t : Nat) : Bool := (mine ++ flows).any (fun g => g.flow == f && t < g.stages.length)
        let area (c : Nat) : Nat := SMap.get 0 d.areas (job * 8 + c)
        let win (c : Nat) : Nat := (SMap.get (0, 0) d.cwins (job * 8 + c)).2
        let progs := (kind 5).map (fun e => (e, programOf job s.nmod area win stage (e.bytes body)))
        match progs with
        | [(e, none)] => fail 0x12 (0x2000 + e.off)
        | _ :: (e, _) :: _ => fail 0x12 (0x2000 + e.off)
        | _ =>
          let at_ := match new with | (o, _) :: _ => o | [] => 0
          let stages := flows.flatMap (·.stages)
          let (p, nc) := match d.partOf job with | some (_, p) => (p, p.clusters.length) | none => (({} : Part), 0)
          match progs with
          | [(e, some _)] => if (d.progOf job).isSome then fail 0x12 (0x2000 + e.off) else s.mapRest die job va monitor hdr body flows stages progs (kind 1) at_ p nc
          | _ => s.mapRest die job va monitor hdr body flows stages progs (kind 1) at_ p nc

/-- The clusters that hold a pipeline area of the job of the context in issue (R261): a mapped program is written there. -/
def State.areaCls (s : State) : List Nat :=
  let die := coreDie s.cur.core
  ((range 0 8).filter (fun c => SMap.get 0 (s.die die).areas (bits s.cx.r.jobId 9 0 * 8 + c) ≠ 0)).map (die * 8 + ·)

/-- `segmap` (R323, R371): it waits for clusters that sleep (R403); where R62 keeps the answer out of d there is the fault and no effect. -/
def execSegmap (d a : BitVec 5) (s : State) : Out :=
  s.onSystem (fun s =>
    let va := vaOf (s.ra a)
    match s.eaBad (s.ra a) 0x2000 .rd with
    | some e => s.takeTrap e.1 e.2
    | none =>
      let hdr := s.span va 0x2000
      if headerBad hdr then s.wg d (report 0x10 0xFF 0)
      else
        let n := 512 * bits (wordOf (slice hdr 0 8)) 31 0
        match s.spanBad (va + 0x2000) n .rd with
        | some e => s.takeTrap e.1 (w64 e.2)
        | none =>
          let cls := s.areaCls
          if s.asleep cls then (s.callAll cls).hold
          else
            let (w, t) := s.mapSegment va hdr (s.span (va + 0x2000) n)
            if s.lowSp d w then s.wg d w else t.wg d w)

end Sys2Proof.Machine
end

