-- ==== Sys2Proof/Machine/Squall.lean ====
section
/-! DEFINITION. Squall, the gang switch (R350 to R364): tokens, `gsw`, the passes at each die, late packets, restore. The sections of a switch area to
which the spec gives no layout are data (DESIGN CHOICE, log 19). -/

namespace Sys2Proof

open Machine

/-- A scalar load (R175). -/
def Instr.isLoad : Instr → Bool
  | .ldS8 .. | .ldS16 .. | .ldS32 .. | .ldS64 .. | .ldZ8 .. | .ldZ16 .. | .ldZ32 .. => true
  | _ => false

end Sys2Proof

namespace Sys2Proof.Machine

/-! ## Dies, parts and switches -/

/-- The partition descriptor of a partition number on a die (R342). -/
def Die.partNo (d : Die) (n : Nat) : Option (Nat × Part) := d.parts.find? (fun p => bit p.2.w0 63 && bits p.2.w0 5 0 == n)
/-- A switch of a job at a die, out or in. -/
def Die.swOf (d : Die) (job : Nat) (out : Bool) : Option Switch := d.sw.find? (fun w => w.job == job && w.out == out)
/-- Change a switch at a die. -/
def State.modSw (s : State) (die job : Nat) (out : Bool) (f : Switch → Switch) : State :=
  s.modDie die (fun d => { d with sw := mapIf (fun w => w.job == job && w.out == out) f d.sw })
/-- The dies of a 256-bit set, ascending. -/
def dieSet (ws : List Word) : List Nat := (range 0 256).filter (fun n => bit (wd ws (n / 64)) (n % 64))
/-- The order of the token (R352): ascending from the die after the coordinator, ending at the coordinator. -/
def tokenOrder (coord : Nat) (ds : List Nat) : List Nat := ds.filter (coord < ·) ++ ds.filter (· ≤ coord)
/-- A token passes a die (R324, R352). -/
def State.tokenEvent (s : State) (die job : Nat) : State := s.event die 4 0 none job 0 0

/-- The fields of a switch descriptor (R350). -/
def swOut (ws : List Word) : Bool := bit (wd ws 0) 63
def swIn (ws : List Word) : Bool := bit (wd ws 0) 62
def swJin (ws : List Word) : Nat := bits (wd ws 0) 35 26
def swJout (ws : List Word) : Nat := bits (wd ws 0) 25 16
/-- The partition, and the switch area of the direction in which a switch runs. -/
def Switch.part (w : Switch) : Nat := bits (wd w.desc 0) 5 0
def Switch.area (w : Switch) : Nat := bits (wd w.desc (if w.out then 1 else 3)) 44 0
/-- The jobs that a switch moves. -/
def Switch.moves (w : Switch) (job : Nat) : Bool := (swOut w.desc && swJout w.desc == job) || (swIn w.desc && swJin w.desc == job)
/-- A switch of a descriptor as it begins at a die, its checks not yet answered. -/
def Switch.ofDesc (ws : List Word) (coord ctx : Nat) : Switch :=
  { job := if swOut ws then swJout ws else swJin ws, out := swOut ws, phase := .gather, dies := tokenOrder coord (dieSet (ws.drop 4)), coord := coord,
    ctx := ctx, desc := ws }
/-- A switch of which JOUT is out goes on with JIN. -/
def Switch.inward (w : Switch) : Switch := { Switch.ofDesc w.desc w.coord w.ctx with job := swJin w.desc, out := false }
/-- The die that the token visits after this one; none after the coordinator. -/
def Switch.next (w : Switch) (die : Nat) : Option Nat := (w.dies.dropWhile (· != die))[1]?
/-- A switch is the one that a system core's context runs (R323, R364). -/
def Switch.isOf (w : Switch) (coord ctx : Nat) : Bool := w.coord == coord && w.ctx == ctx
/-- Change the switch of a coordinator's context at a die, or drop it. -/
def State.modTok (s : State) (die coord ctx : Nat) (f : Switch → Switch) : State :=
  s.modDie die (fun d => { d with sw := mapIf (·.isOf coord ctx) f d.sw })
def State.dropSw (s : State) (die coord ctx : Nat) : State := s.modDie die (fun d => { d with sw := d.sw.filter (fun w => !w.isOf coord ctx) })

/-- The contexts of a die that run a task of a job. -/
def State.jobPlaces (s : State) (die job : Nat) : List Place :=
  ((s.coresOf die).filter (fun k => !isSystem k)).flatMap (fun k =>
    ([(⟨k, 0⟩ : Place), ⟨k, 1⟩]).filter (fun p => (s.ctxAt p).run != .free && (s.ctxAt p).t.job == job))
/-- The cores of a job on a die: those of its partition, and those that still run it. -/
def State.jobCores (s : State) (die job : Nat) : List Nat :=
  let mine := match (s.die die).partOf job with | some (_, p) => ((range 0 64).filter (fun c => bit p.w1 c)).map (fun c => die * 128 + c) | none => []
  mine ++ ((s.jobPlaces die job).map (·.core)).filter (fun k => !mine.contains k)

/-- The default context key of a job (R357, R375). -/
def Die.defaultKey (d : Die) (job : Nat) : Option (Nat × KeySlot) := d.keys.find? (fun k => k.2.v && k.2.kind == 1 && k.2.job == job && k.2.dflt)
/-- CTR + 1 of a key slot (R375). -/
def Die.countKey (d : Die) (job : Nat) : Die :=
  match d.defaultKey job with
  | some (i, k) => { d with keys := SMap.put d.keys i { k with ctr := k.ctr + 1 } }
  | none => d

/-! ## The checks of a switch (R350, R364) -/

/-- U(d) (R357), in units of 64 KiB. -/
def areaUnits (cores comms dies : Nat) : Nat := 372 + 64 * cores + 5 * comms + 17 * dies

/-- JOUT is the partition's active job on a die, and its area is large enough: 0, or a status. -/
def State.outCheck (s : State) (die part job size n : Nat) : Nat :=
  match (s.die die).partNo part with
  | none => 1
  | some (_, p) =>
    if bits p.w0 57 48 ≠ job then 1
    else if size < areaUnits (s.jobCores die job).length ((s.die die).comms.filter (fun e => e.2.valid && e.1 / 256 == job)).length n then 5 else 0
/-- JIN is a job of the partition held in its saved state: 0, or a status. -/
def State.inCheck (s : State) (die part job size n : Nat) : Nat :=
  match (s.die die).savedJobs.find? (fun v => v.job == job && v.part == part) with
  | none => 1
  | some v => if size < areaUnits v.cores.length (v.comms.filter (fun e => e.2.valid)).length n then 5 else 0

/-- What a die answers to a descriptor (R350, R364): 5, 1, or 0. -/
def State.switchCheck (s : State) (die : Nat) (ws : List Word) : Nat :=
  let part := bits (wd ws 0) 5 0
  let n := (dieSet (ws.drop 4)).length
  let found := (if swOut ws then [s.outCheck die part (swJout ws) (bits (wd ws 2) 31 0) n] else []) ++
               (if swIn ws then [s.inCheck die part (swJin ws) (bits (wd ws 2) 63 32) n] else [])
  let busy := (s.die die).sw.any (fun w => (swOut ws && w.moves (swJout ws)) || (swIn ws && w.moves (swJin ws)))
  if found.contains 5 then 5 else if busy || found.contains 1 then 1 else 0

/-- A descriptor that names no switch (R350). -/
def gswBad (die : Nat) (ws : List Word) : Bool :=
  let w0 := wd ws 0
  let out := bit w0 63
  let in_ := bit w0 62
  (!out && !in_) || bits w0 61 36 ≠ 0 || bits w0 15 6 ≠ 0 || bits (wd ws 1) 63 45 ≠ 0 || bits (wd ws 3) 63 45 ≠ 0 ||
  (out && bits (wd ws 1) 15 0 ≠ 0) || (in_ && bits (wd ws 3) 15 0 ≠ 0) || !(dieSet (ws.drop 4)).contains die

/-- The areas of a die at which a check of an area finds it as it was written (R361, R375; log 19): 0, 3 or 4. -/
def State.areaStatus (s : State) (die : Nat) (w : Switch) : Nat :=
  match (s.die die).savedJobs.find? (fun v => v.job == w.job && v.area == w.area), (s.die die).defaultKey w.job with
  | some v, some (_, k) =>
    let kept (p : Nat × List Byte) : Bool := s.bytesAt p.1 p.2.length == p.2
    let old (e : Nat × Nat × Nat × List Byte) : Bool :=
      let x := SMap.get {} (s.die die).keys e.1
      !x.dflt && wordOf (slice e.2.2.2 8 8) < x.ctr
    if !(v.images.map (·.2.2) ++ v.rest).all kept then 3 else if v.ctr < k.ctr || v.images.any old then 4 else 0
  | _, _ => 3

/-! ## Tokens (R352, R361; DESIGN CHOICE, log 19) -/

/-- A GANG packet (R383): [7:0] 0 question, 1 answer, 2 first token, 3 close token, 4 report, 5 load, 6 stop; [15:8] coordinator, [16] its context, [31:24]
status; then the descriptor. It carries job 0. -/
def tokenPacket (kind coord ctx status src dst : Nat) (ws : List Word) : Packet :=
  { op := 0x21, job := 0, offs := 0, steer := false, vc := 7, seq := 0, dst := dst, src := src, rkey := 0,
    payload := bytesOf 8 (kind % 2 ^ 8 + coord % 2 ^ 8 * 2 ^ 8 + ctx % 2 * 2 ^ 16 + status % 2 ^ 8 * 2 ^ 24) ++ (range 0 8).flatMap (fun i => bytesOf 8 (wd ws i).toNat) }

/-- Send a token, or nothing where the replay window is full (R390). -/
def State.sendTok (s : State) (die dst kind status : Nat) (w : Switch) : Option State :=
  (s.sendReq die (tokenPacket kind w.coord w.ctx status die dst w.desc) (5, die, 0)).map (·.1)

/-- A die is closed to a job again (R360, R361): what has come in of it meanwhile is late. -/
def State.shutAgain (s : State) (die job : Nat) : State :=
  let mine (p : Packet) : Bool := p.at_ == die && p.job == job && p.ing != 8
  let ps := s.net.filter mine
  let s := { s with net := s.net.filter (fun p => !mine p) }.modDie die (fun d => { d with closed := d.closed ++ [job] })
  ps.foldl (fun s p => s.lateArrive die p) s

/-- What a token, or what goes with one, does at a die that it reaches. A question reserves the jobs, and its answer goes back. -/
def State.hear (s : State) (die src kind coord ctx status : Nat) (ws : List Word) : Option State :=
  let w := Switch.ofDesc ws coord ctx
  match kind with
  | 0 =>
    let n := s.switchCheck die ws
    (if n = 0 then s.modDie die (fun d => { d with sw := d.sw ++ [w] }) else s).sendTok die coord 1 n w
  | 1 => some (s.modTok die coord ctx (fun w => { w with answers := w.answers ++ [(src, status)] }))
  | 2 => some (s.modTok die coord ctx (fun w => { w with phase := .idle, tok := .quiesce, status := status }))
  | 3 => some (s.modTok die coord ctx (fun w => { w with tok := .close }))
  | 4 => some (s.modTok die coord ctx (fun w => { w with reports := w.reports ++ [src] }))
  | 5 => some (s.modTok die coord ctx (fun w => { w with tok := .load }))
  | _ =>
    some (match (s.die die).sw.find? (·.isOf coord ctx) with
      | some w => (if w.phase == .opened then s.shutAgain die w.job else s).dropSw die coord ctx
      | none => s)

/-- FABRIC_MGMT (R300, R352, R383): a management packet is received and acknowledged, a proposal of an agreement round drains its communicator; a GANG
packet does what it says. -/
def execFabricMgmt (src dst vc : Nat) (s : State) : Out :=
  let take (op : Nat) : Option (Packet × State) := s.incoming op src dst vc
  match take 0x20, take 0x21 with
  | some (p, s), _ => (match s.arrive dst p with
    | .error s => .next s
    | .ok s => .next ((s.takeProposal dst p).reply dst p 0x11 []))
  | none, some (p, t) => (match t.arrive dst p with
    | .error s => .next s
    | .ok t =>
      let h := wordOf (slice p.payload 0 8)
      match (t.reply dst p 0x11 []).hear dst p.src (bits h 7 0) (bits h 15 8) (bits h 16 16) (bits h 31 24) (wordsOf 8 (p.payload.drop 8)) with
      | some t => .next t
      | none => .next s)
  | none, none => .next s

/-- The first token of a switch, or its close token, goes from the coordinator to the first die of the order: it may be the coordinator itself. -/
def State.launchTok (s : State) (die kind status : Nat) (w : Switch) : Option State :=
  match w.dies.head? with
  | none => none
  | some d => if d = die then s.hear die die kind w.coord w.ctx status w.desc else s.sendTok die d kind status w

/-- The same word goes to every other die of a set, or nothing where the window has no room for all. -/
def State.tellAll (s : State) (die kind : Nat) (w : Switch) (ds : List Nat) : Option State :=
  (ds.filter (· != die)).foldl (fun (s : Option State) d => s.bind (fun s => s.sendTok die d kind 0 w)) (some s)

/-! ## `gsw` (R350, R364) -/

/-- The bundle of `gsw` waits for its switch. -/
def State.gswWaits (s : State) : State := s.modIss (fun i => { i with wait := true, att := true })

/-- The first execution of `gsw`: the checks on this die, and the question to every other die of the set (R350). -/
def State.startSwitch (s : State) (d : BitVec 5) (ws : List Word) : State :=
  let die := coreDie s.cur.core
  if gswBad die ws then s.status d 5
  else
    let w := Switch.ofDesc ws die s.cur.ctx
    let n := s.switchCheck die ws
    match (s.modDie die (fun x => { x with sw := x.sw ++ [{ w with answers := [(die, n)] }] })).tellAll die 0 w w.dies with
    | some s => s.gswWaits
    | none => s.hold

/-- A later execution of `gsw`: the answers are in, the switch in follows, or the status is written (R350, R352). A failed check changes nothing. -/
def State.goOnSwitch (s : State) (d : BitVec 5) : State :=
  let die := coreDie s.cur.core
  match (s.die die).sw.find? (·.isOf die s.cur.ctx) with
  | none => s.status d 0
  | some w =>
    match w.phase with
    | .gather =>
      if w.answers.length < w.dies.length then s.gswWaits
      else if w.answers.all (fun a => a.2 == 0) then
        match (s.modTok die die s.cur.ctx (fun w => { w with phase := .idle })).launchTok die 2 0 w with
        | some s => s.gswWaits
        | none => s.gswWaits
      else
        match s.tellAll die 6 w ((w.answers.filter (fun a => a.2 == 0)).map (·.1)) with
        | some s => (s.dropSw die die s.cur.ctx).status d (if w.answers.any (fun a => a.2 == 5) then 5 else 1)
        | none => s.gswWaits
    | .closed =>
      if w.out && swIn w.desc then
        let v := { w.inward with phase := .idle }
        match (s.modTok die die s.cur.ctx (fun _ => v)).launchTok die 2 0 v with
        | some s => s.gswWaits
        | none => s.gswWaits
      else (s.dropSw die die s.cur.ctx).status d w.status
    | _ => s.gswWaits

/-- `gsw` (R350, R352). -/
def execGsw (d a : BitVec 5) (s : State) : Out :=
  s.onSystem (fun s =>
    if s.iss.att then s.goOnSwitch d
    else if (s.ra a).toNat % 64 ≠ 0 then s.takeTrap 0x0801 (s.ra a)
    else match s.eaBad (s.ra a) 64 .rd with
      | some e => s.takeTrap e.1 e.2
      | none => s.startSwitch d (wordsOf 8 (s.span (vaOf (s.ra a)) 64)))

/-- A token goes on from a die to the next of the order; at the coordinator it is back. Where the window is full it stays. `upto` is the status it takes on
(R361). -/
def State.passTok (s : State) (die kind status : Nat) (w : Switch) : State :=
  let gone (s : State) : State := s.modTok die w.coord w.ctx (fun v => { v with tok := .none, status := status, back := v.back || die == w.coord })
  match w.next die with
  | none => gone s
  | some d => match s.sendTok die d kind status w with
    | some s => gone s
    | none => s

/-! ## Quiesce (R353) -/

/-- A context whose bundle waits for the reply of a scalar remote load not yet left pending (R353, R359). -/
def Ctx.loads (c : Ctx) : Bool :=
  match c.held with
  | some i => i.req.isSome && i.slot == 5 && (match i.instr 5 with | .ok n => n.isLoad | .error _ => false)
  | none => false

/-- A context stops at a boundary (R353, R359): a `waita` is withdrawn, any other wait stays attached. -/
def State.stopCtx (s : State) (p : Place) : State :=
  let watched := s.watches.any (fun w => w.core == p.core && w.ctx == p.ctx)
  let s := { s with watches := s.watches.filter (fun w => !(w.core == p.core && w.ctx == p.ctx)) }
  s.modCtxAt p (fun c =>
    { c with run := if c.run == .running then .held else c.run,
             held := c.held.map (fun i => if watched then { i with sent := false, att := false } else { i with blocked := none, posting := none }) })

/-- A slice still has work of a job that came before the quiesce (R353). -/
def Slice.works (sl : Slice) (job : Nat) : Bool := sl.inbox.any (fun r => r.job == job) || sl.outbox.any (fun r => r.1.job == job)

/-- QUIESCE_PASS (R353): once the token is there, the die's clusters are awake, no context of the job is at monitor level, no agreement round runs and no Drift
request is on its way, the die stops the job; the array's work and the write-backs of its cores are made. Then the token goes on. -/
def execQuiescePass (die : Nat) (s : State) : Out :=
  match (s.die die).sw.find? (fun w => w.out && w.tok == .quiesce) with
  | none => .next s
  | some w =>
    if w.phase != .idle then .next (s.passTok die 2 0 w)
    else if s.asleep (range (die * 8) 8) then .next (s.callAll (range (die * 8) 8))
    else
      let ps := s.jobPlaces die w.job
      let busy := ps.any (fun p => (((s.ctxAt p).run == .running || (s.ctxAt p).run == .stopped) && (s.ctxAt p).y.level != 0) || (s.driftAt p).2) ||
        (s.die die).comms.any (fun c => c.1 / 256 == w.job && c.2.draining.isSome) || (s.die die).slices.any (fun e => e.2.works w.job)
      if busy then .next s
      else if ps.any (fun p => (s.ctxAt p).loads) then
        .next (ps.foldl (fun s p => s.modCtxAt p (fun c =>
          if c.loads then { c with held := c.held.map (fun i => { i with resp := some (i.resp.getD .defer) }) } else c)) s)
      else
        let s := (s.jobCores die w.job).foldl (fun s k => ((s.drainAll k).writeBackAll k (fun _ => true)).publish k 4) s
        let s := ps.foldl (fun s p => s.stopCtx p) s
        .next (((s.modSw die w.job true (fun v => { v with phase := .quiesced })).tokenEvent die w.job).passTok die 2 0 w)

/-! ## Sweep (R354, R355) -/

/-- The 64 bytes of a disposition (R355, R267). What stands where in them is the model's (DESIGN CHOICE, log 19). -/
def Disp.bytes (d : Disp) : List Byte :=
  padTo 64 (padTo 16 (d.targets.flatMap (fun t => bytesOf 2 (b2n t.1 * 2 ^ 8 + t.2 % 2 ^ 8))) ++ bytesOf 1 d.targets.length ++ bytesOf 1 (b2n d.drop) ++
    bytesOf 2 (match d.punt with | some r => 2 ^ 8 + r | none => 0) ++
    (match d.absorb with | some (ss, c, po, ab) => bytesOf 1 1 ++ bytesOf 1 ss ++ bytesOf 2 c ++ bytesOf 2 po ++ bytesOf 1 (b2n ab) | none => []))

/-- The bytes of a sweep record (R355). -/
def SweepRec.bytes (r : SweepRec) : List Byte :=
  let p := r.item.pkt
  let phv := !r.item.phv.isEmpty
  padTo 64 (bytesOf 8 r.aseq ++ bytesOf 8 (r.cls * 2 ^ 56 + r.pos * 2 ^ 48 + r.buf * 2 ^ 32 + (16 + p.payload.length)) ++
    bytesOf 8 (b2n phv * 2 ^ 9 + b2n (r.pos == 16 && r.item.absDone) * 2 ^ 8 + (if r.pos = 16 then r.item.tdone else 0))) ++
  padTo ((16 + p.payload.length + 31) / 32 * 32) ((p.bytes.drop 16).take 16 ++ p.payload) ++ (if phv then padTo 512 r.item.phv ++ r.item.disp.bytes else [])
/-- How many they are. -/
def SweepRec.size (r : SweepRec) : Nat :=
  64 + (16 + r.item.pkt.payload.length + 31) / 32 * 32 + (if r.item.phv.isEmpty then 0 else 576)

/-- The buffer class of a station (R354): where a packet came in, and of one made on the die where it leaves. -/
def stationClass (ing out : Nat) : Nat :=
  let at_ := if ing = 8 || (4 ≤ out && out < 8) || 4 ≤ ing then out else ing
  if at_ = 2 || at_ = 3 then 6 else if 4 ≤ at_ && at_ < 8 then 7 else 5

/-- The packets of a job that stand at a die outside its lanes, with their class (R354): of those made there, `n` have gone on from their engine's queue to the
station they leave by. -/
def stationPackets (net : List Packet) (die job n : Nat) : List (Nat × Packet) :=
  let here := net.filter (fun p => p.at_ == die && p.job == job)
  let own := here.filter (fun p => p.ing == 8)
  (own.take n).map (fun p => (stationClass p.ing p.out, p)) ++ (own.drop n).map (fun p => (1, p)) ++
  (here.filter (fun p => p.ing != 8)).map (fun p => (stationClass p.ing p.out, p))

/-- The records of the packets of a job in a die's buffers, in sweep order, and the die and network without them. -/
def State.sweepOut (s : State) (die job : Nat) : List SweepRec × State :=
  let d := s.die die
  let mine (p : Packet) : Bool := p.job == job
  let lanes := (d.lane0 ++ d.lane1).filter (fun p => mine p.pkt)
  let ofLane (p : PPkt) : SweepRec := { aseq := p.aseq, cls := if p.phv.isEmpty then 2 else 3, pos := if p.phv.isEmpty then 0 else p.pos,
                                        buf := p.ing * 4096 + p.lane * 256 + p.pkt.vc, item := p }
  let byAge (l : List SweepRec) : List SweepRec := l.mergeSort (fun a b => a.aseq ≤ b.aseq)
  let item (p : Packet) (lane : Nat) : PPkt := { pkt := p, aseq := p.aseq, lane := lane, pos := 0, ing := p.ing }
  let stn := stationPackets s.net die job (Config.stationed s.fresh)
  let ofStn (c : Nat) : List SweepRec := byAge ((stn.filter (fun e => e.1 == c)).map (fun e =>
    { aseq := e.2.aseq, cls := c, pos := 0, buf := if c = 1 then e.2.vc else stationBuf (if e.2.ing = 8 || c = 7 then e.2.out else e.2.ing) e.2.vc, item := item e.2 0 }))
  let eg := (d.egress.filter (fun e => mine e.1)).map (fun e =>
    ({ aseq := e.1.aseq, cls := 4, pos := 0, buf := e.2 * 4096 + e.1.vc, item := item e.1 e.2 } : SweepRec))
  let recs := ofStn 1 ++ byAge ((lanes.filter (fun p => p.phv.isEmpty)).map ofLane) ++ byAge ((lanes.filter (fun p => !p.phv.isEmpty)).map ofLane) ++ byAge eg ++
    ofStn 5 ++ ofStn 6 ++ ofStn 7
  let out (p : PPkt) : Bool := !mine p.pkt
  let s := (stn.map (·.2) ++ lanes.map (·.pkt)).foldl State.passOver s
  (recs, { s.modDie die (fun d => { d with lane0 := d.lane0.filter out, lane1 := d.lane1.filter out, egress := d.egress.filter (fun e => !mine e.1) }) with
           net := s.net.filter (fun p => !(p.at_ == die && mine p)), fresh := s.fresh + 1 })

/-- Append records as far as 16 MiB hold them; the packets beyond go to the late log (R357). -/
def State.keepSwept (s : State) (die : Nat) : List SweepRec → List SweepRec → List SweepRec × State
  | have_, [] => (have_, s)
  | have_, r :: t =>
    if have_.foldl (fun n r => n + r.size) 0 + r.size ≤ 2 ^ 24 then s.keepSwept die (have_ ++ [r]) t
    else (s.lateArrive die { r.item.pkt with ing := r.item.ing }).keepSwept die have_ t

/-- The sweep of what stands in a die's buffers now, appended to a switch's records, or to the saved area's after the save. -/
def State.sweepDie (s : State) (die : Nat) (w : Switch) : State :=
  let (recs, s) := s.sweepOut die w.job
  if w.phase == .saved then
    let have_ := ((s.die die).savedJobs.filter (fun v => v.job == w.job)).flatMap (·.sweep)
    let (l, s) := s.keepSwept die have_ recs
    s.modDie die (fun d => { d with savedJobs := mapIf (fun v => v.job == w.job) (fun v => { v with sweep := l }) d.savedJobs })
  else
    let (l, s) := s.keepSwept die w.recs recs
    s.modSw die w.job true (fun v => { v with recs := l })

/-- The home of a byte of a switch area (R350, R357): an HBM offset of the die. -/
def areaHome (die off : Nat) : Nat := homePa (die / 8) (die % 8 * 2 ^ 45 + off)
/-- Where the sections of an area start, in units of 64 KiB (R357): for `nc` cores of the job, `nm` of its communicators, and `n` dies in the set. -/
def areaSections (nc nm n : Nat) : List Nat :=
  [0, 1, 1 + 64 * nc, 65 + 64 * nc, 66 + 64 * nc + 5 * nm, 82 + 64 * nc + 5 * nm, 98 + 64 * nc + 5 * nm, 116 + 64 * nc + 5 * nm + 17 * n]
/-- The header of an area without its tag (R357): its fields are those the rule names, where they stand is the model's (DESIGN CHOICE, log 19). -/
def areaHeader (w : Switch) (ctr : Word) (secs : List Nat) (recs lost : Nat) : List Byte :=
  padTo 4080 ([w.job, ctr.toNat, recs, lost].flatMap (bytesOf 8) ++ (range 0 4).flatMap (fun i => bytesOf 8 (wd w.desc (4 + i)).toNat) ++ secs.flatMap (bytesOf 8))

/-- Write the header and the sweep section of a job's area (R357, R375): one image under the job's default context key, with a step of its counter. -/
def State.writeRest (s : State) (die : Nat) (w : Switch) : State :=
  let s := s.modDie die (·.countKey w.job)
  match (s.die die).savedJobs.find? (fun v => v.job == w.job), (s.die die).defaultKey w.job with
  | some v, some (_, k) =>
    let secs := areaSections v.cores.length (v.comms.filter (fun c => c.2.valid)).length w.dies.length
    let plain := v.sweep.flatMap (·.bytes)
    let ct := padTo plain.length (Config.gcmCrypt k.key (imgIv k.ctr) plain)
    let hdr := areaHeader w k.ctr secs v.sweep.length (SMap.get 0 (s.die die).lateLost w.job)
    let rest := [(areaHome die v.area, hdr ++ bytesOf 16 (Config.gcmTag k.key (imgIv k.ctr) hdr ct).toNat), (areaHome die (v.area + secs.getD 7 0 * 2 ^ 16), ct)]
    (rest.foldl (fun s e => s.homeWrite e.1 e.2) s).modDie die (fun d =>
      { d with savedJobs := mapIf (fun v => v.job == w.job) (fun v => { v with ctr := k.ctr, rest := rest }) d.savedJobs })
  | _, _ => s

/-- SWEEP (R354): the job's packets leave the die's buffers; a later run takes those that came since, until the close. -/
def execSweep (die : Nat) (s : State) : Out :=
  match (s.die die).sw.find? (fun w => w.out && (w.phase == .quiesced || w.phase == .swept || w.phase == .saved)) with
  | none => .next s
  | some w =>
    let s := s.sweepDie die w
    .next (if w.phase == .quiesced then s.modSw die w.job true (fun v => { v with phase := .swept }) else s)

/-! ## Save (R357 to R359) -/

/-- The scratchpad bytes of a core. -/
def State.scratchOf (s : State) (core : Nat) : List Host.Cell := s.mem.filter (fun c => homeScratch core 0 ≤ c.1 && c.1 < homeScratch core (2 ^ 21))

/-- A core after the save of a job (R37, R348, R357): its cards of the job gone, its contexts free from now, scrubbed. -/
def Core.leave (c : Core) (job : Nat) (now : Word) : Core :=
  let free (x : Ctx) : Ctx := { x with run := .free, held := none, pend := [], bfaults := [], t := {}, jobsDone := [] }
  ({ c with cards := c.cards.filter (fun k => k.job != job), c0 := free c.c0, c1 := free c.c1, idleSince := now }).scrubbed

/-- The area of a job on a die (R357). -/
def State.areaOf (s : State) (die : Nat) (w : Switch) : Saved :=
  let d := s.die die
  let job := w.job
  let cores := s.jobCores die job
  let part := match d.partOf job with | some (_, p) => p | none => {}
  { job := job, part := w.part, area := w.area, ctr := 0, cores := cores.map (fun k => (k, s.core k)), scratch := cores.flatMap s.scratchOf,
    flows := d.flows.filter (fun f => f.job == job), subqs := d.subqs.filter (fun q => q.job == job), overflow := SMap.get {} d.overflow job,
    pool := part.pool, used := part.used, comms := d.comms.filter (fun c => c.1 / 256 == job), phasers := d.phasers.filter (fun p => p.job == job),
    parked := d.slices.flatMap (fun e => (parkOrder (e.2.parked.filter (fun r => r.job == job))).map (fun r => (e.1, r.bytes))),
    station := d.station.filter (fun w => w.job == job && isRemote w.loc),
    window := d.window.filter (fun r => r.pkt.job == job), replies := d.replies.filter (fun r => r.2.2.2.job == job),
    sets := d.sets.filter (fun e => e.2.used && e.2.job == job), trigs := d.trigs.filter (fun t => t.trc.job == job), sweep := w.recs }

/-- The image of a context in an area (R357, R317, R375): that of `ctxsave`, with ATT = 1 where a wait or a parked request stays attached; of core `i` the
images and then the scratchpad stand in its 4 MiB (DESIGN CHOICE, log 19). -/
def State.saveInto (s : State) (die : Nat) (w : Switch) (i : Nat) (p : Place) : State × List (Nat × Nat × Nat × List Byte) :=
  match (s.die die).ctxKey w.job (coreId p.core p.ctx) with
  | none => (s, [])
  | some (slot, _) =>
    match s.saveImage p (if (s.ctxAt p).run = .stopped then s.recordOf p else s.saveRecord p true) with
    | none => (s, [])
    | some (t, img) =>
      let h := areaHome die (w.area + (1 + 64 * i) * 2 ^ 16 + p.ctx * 2 ^ 20)
      (t.homeWrite h img, [(slot, coreId p.core p.ctx, h, img)])

/-- The images of the contexts of a job (R357). -/
def State.saveImages (s : State) (die : Nat) (w : Switch) (cores : List Nat) : State × List (Nat × Nat × Nat × List Byte) :=
  (s.jobPlaces die w.job).foldl (fun (r : State × List (Nat × Nat × Nat × List Byte)) p =>
    let (t, l) := r.1.saveInto die w (cores.findIdx (· == p.core)) p
    (t, r.2 ++ l)) (s, [])

/-- What a job held on a die is freed (R357). -/
def Die.release (d : Die) (job : Nat) : Die :=
  { d with station := d.station.filter (fun w => !(w.job == job && isRemote w.loc)), failed := d.failed.filter (fun f => f.1 != job),
           flows := d.flows.filter (fun f => f.job != job), subqs := d.subqs.filter (fun q => q.job != job), overflow := SMap.del d.overflow job,
           parts := mapIf (fun p => p.2.names job) (fun p => (p.1, p.2.fresh)) d.parts,
           comms := d.comms.filter (fun c => c.1 / 256 != job), phasers := d.phasers.filter (fun p => p.job != job),
           slices := d.slices.map (fun e => (e.1, { e.2 with parked := e.2.parked.filter (fun r => r.job != job) })),
           window := d.window.filter (fun r => r.pkt.job != job), replies := d.replies.filter (fun r => r.2.2.2.job != job),
           sets := d.sets.filter (fun e => !(e.2.used && e.2.job == job)), trigs := d.trigs.filter (fun t => t.trc.job != job) }

/-- GANG_SAVE (R357): the job's state goes to its area under its context keys, its cores are scrubbed. -/
def execGangSave (die : Nat) (s : State) : Out :=
  match (s.die die).sw.find? (fun w => w.out && w.phase == .swept) with
  | none => .next s
  | some w =>
    let cores := s.jobCores die w.job
    let s := cores.foldl (fun s k => (s.writeBackAll k (fun _ => true)).publish k 4) s
    let v := s.areaOf die w
    let (s, images) := s.saveImages die w cores
    let s := cores.foldl (fun s k => (s.clearScratch k).modCore k (fun c => c.leave w.job s.cycle)) s
    let s := s.modDie die (fun d => { d.release w.job with savedJobs := d.savedJobs ++ [{ v with images := images }] })
    .next ((s.writeRest die w).modSw die w.job true (fun v => { v with phase := .saved, recs := [] }))

/-- The report of a die that has saved or loaded goes to the coordinator; with every report and the first token back, the coordinator sends the close
token (R352, R361). Nothing where there is none to send, or no room for it. -/
def State.report (s : State) (die : Nat) (w : Switch) : Option State :=
  let done (s : State) : State := s.modTok die w.coord w.ctx (fun v => { v with sent := true })
  if w.sent || !(w.phase == .saved || w.phase == .loaded) then none
  else if w.coord ≠ die then (s.sendTok die w.coord 4 0 w).map done
  else if w.back && w.dies.all (fun d => d == die || w.reports.contains d) then (done s).launchTok die 3 w.status w
  else none

/-- SAVED_REPORT (R352). -/
def execSavedReport (die : Nat) (s : State) : Out := .next (((s.die die).sw.findSome? (s.report die)).getD s)

/-- The close token goes on from a die that has closed, or opened for good: there the switch has ended, or its other half begins; the coordinator's `gsw`
ends its own. -/
def State.passClose (s : State) (die : Nat) (w : Switch) : State :=
  let s := s.passTok die 3 w.status w
  if die = w.coord || (s.die die).sw.any (fun v => v.isOf w.coord w.ctx && v.tok == .close) then s
  else if w.out && swIn w.desc then s.modTok die w.coord w.ctx (·.inward)
  else s.dropSw die w.coord w.ctx

/-- CLOSE_PASS (R354, R360): at the close token the last packets are swept, and the die is closed to the job. -/
def execClosePass (die : Nat) (s : State) : Out :=
  match (s.die die).sw.find? (fun w => w.out && w.tok == .close && (w.phase == .saved || w.phase == .closed)) with
  | none => .next s
  | some w =>
    if w.phase == .closed then .next (s.passClose die w)
    else
      let swept (s : State) : Nat := ((s.die die).savedJobs.filter (fun v => v.job == w.job)).foldl (fun n v => n + v.sweep.length) 0
      let t := s.sweepDie die w
      let t := if swept t = swept s then t else t.writeRest die w
      .next ((((t.modDie die (fun d => { d with closed := d.closed ++ [w.job] })).modTok die w.coord w.ctx (fun v => { v with phase := .closed })).tokenEvent
        die w.job).passClose die w)

/-- LATE_PACKET (R360). -/
def execLatePacket (die : Nat) (pkt : Packet) (s : State) : Out :=
  .next (if (s.die die).closed.contains pkt.job then s.lateArrive die pkt else s)

/-! ## Restore (R361 to R363) -/

/-- The free detached sets of a die, for the saved sets of a job; nothing where they do not suffice. -/
def State.placeSets (s : State) (die : Nat) (v : Saved) : Option (List (Nat × Nat)) :=
  let free := (range 0 32).filter (fun i => !s.setLive die i)
  if free.length < v.sets.length then none else some ((v.sets.map (·.1)).zip free)

/-- A counter set under its new number. -/
def moveSet (die : Nat) (m : List (Nat × Nat)) (k : KSet) : KSet :=
  match k with
  | .detached d i => .detached d (if d = die then ((m.find? (fun e => e.1 == i)).map (·.2)).getD i else i)
  | _ => k

/-- The keys of an area at its restore (R375): each image takes a step of its key's counter and binds a bound key to its context. -/
def Die.rebind (d : Die) (v : Saved) : Die :=
  v.images.foldl (fun d e => { d with keys := SMap.upd {} d.keys e.1 (fun k => { k with ctr := k.ctr + 1, bind := if k.dflt then k.bind else e.2.1 }) })
    (d.countKey v.job)

/-- The sections of an area but cores and records come back (R361, R363). -/
def Die.restore (d : Die) (die : Nat) (w : Switch) (v : Saved) (m : List (Nat × Nat)) : Die :=
  let mv := moveSet die m
  let comm (c : Comm) : Comm := { c with qps := c.qps.map (fun q => (q.1, { q.2 with entries := q.2.entries.map (fun e => { e with ks := mv e.ks }) })) }
  let put (l : SMap Slice) (e : Nat × List Byte) : SMap Slice := SMap.upd {} l e.1 (fun sl => sl.park (DReq.ofEntry e.2))
  let own (e : Nat × Part) : Nat × Part :=
    if bit e.2.w0 63 && bits e.2.w0 5 0 == w.part then
      (e.1, { e.2 with w0 := (e.2.w0 &&& ~~~(maskFrom 48 10)) ||| w64 (v.job * 2 ^ 48), pool := v.pool, used := v.used })
    else e
  let num (i : Nat) : Nat := ((m.find? (fun x => x.1 == i)).map (·.2)).getD i
  let d := { d with station := d.station ++ v.station, flows := d.flows ++ v.flows, subqs := d.subqs ++ v.subqs, overflow := SMap.put d.overflow v.job v.overflow,
                    parts := d.parts.map own, phasers := d.phasers ++ v.phasers, slices := v.parked.foldl put d.slices,
                    window := d.window ++ v.window, replies := d.replies ++ v.replies, trigs := d.trigs ++ v.trigs.map (fun (t : Trigger) => { t with ks := mv t.ks }),
                    sets := v.sets.foldl (fun (l : SMap DetSet) (e : Nat × DetSet) => SMap.put l (num e.1) e.2) d.sets,
                    savedJobs := d.savedJobs.filter (fun x => x.job != v.job), closed := d.closed.filter (· != v.job) }
  v.comms.foldl (fun d c => { d with comms := SMap.put d.comms c.1 (comm c.2) }) (d.rebind v)

/-- A core takes back what it held of a job (R357, R361). -/
def Core.rejoin (o c : Core) : Core :=
  { o with c0 := c.c0, c1 := c.c1, vfile := c.vfile, acc := c.acc, latch0 := c.latch0, latch1 := c.latch1, active := c.active, handles := c.handles,
           cards := o.cards ++ c.cards, cardNo := max o.cardNo c.cardNo, dcache := [], tenant := c.tenant, keyed := c.keyed }

/-- A swept record goes back into its buffer (R361). -/
def State.reinject (s : State) (die : Nat) (r : SweepRec) : State :=
  if r.cls = 2 || r.cls = 3 then s.modDie die (fun d => d.setLane r.item.lane (d.laneQ r.item.lane ++ [r.item]))
  else if r.cls = 4 then s.modDie die (fun d => { d with egress := d.egress ++ [(r.item.pkt, r.item.lane)] })
  else { s with net := s.net ++ [r.item.pkt] }

/-- A record of the late log comes in at its station (R361). -/
def State.relate (s : State) (die : Nat) (p : Packet) : State :=
  if 4 ≤ p.ing && p.ing < 8 then s.ethTake die p.ing p else s.join die (s.stand die p.ing p)

/-- A die loads its area (R361, R363): the sections, then the records in their order, the late log by age, and behind them what has come in since the die was
opened. It waits for cores and detached sets that are free. -/
def State.loadArea (s : State) (die : Nat) (w : Switch) : State :=
  match (s.die die).savedJobs.find? (fun v => v.job == w.job && v.area == w.area) with
  | none => s
  | some v =>
    match s.placeSets die v with
    | none => s
    | some m =>
      if v.cores.any (fun e => (s.core e.1).c0.run != .free || (s.core e.1).c1.run != .free) then s
      else
        let came (p : Packet) : Bool := p.at_ == die && p.job == w.job
        let waiting := s.net.filter came
        let s := { s with net := s.net.filter (fun p => !came p) }
        let s := v.cores.foldl (fun s e => (s.clearScratch e.1).modCore e.1 (fun o => o.scrubbed.rejoin e.2)) s
        let s := v.scratch.foldl (fun s c => s.setByte c.1 c.2) s
        let s := s.modDie die (fun d => d.restore die w v m)
        let s := v.cores.foldl (fun s e => s.rewordAll e.1 (fun c => c.job == w.job)) s
        let s := v.sweep.foldl (fun s r => s.reinject die r) s
        let late := ((s.die die).late.filter (fun e => e.1 == w.job)).map (·.2)
        let s := s.modDie die (fun d => { d with late := d.late.filter (fun e => e.1 != w.job) })
        let s := (late.mergeSort (fun a b => a.aseq ≤ b.aseq)).foldl (fun s r => s.relate die r.item.pkt) s
        { s with net := s.net ++ waiting }.modSw die w.job false (fun v => { v with phase := .loaded })

/-- A die checks its area and opens to the job (R361, R375); the first status that is not 0 goes with the token. -/
def State.openTo (s : State) (die : Nat) (w : Switch) : State :=
  let n := if w.status = 0 then s.areaStatus die w else w.status
  let s := s.modDie die (fun d => { d with closed := d.closed.filter (· != w.job) })
  ((s.modTok die w.coord w.ctx (fun v => { v with phase := .opened })).tokenEvent die w.job).passTok die 2 n w

/-- The token is back at the coordinator (R361): every die loads, or none does and each is closed to the job again. -/
def State.allOpen (s : State) (die : Nat) (w : Switch) : State :=
  let own (s : State) (f : Switch → Switch) : State := s.modTok die w.coord w.ctx f
  match s.tellAll die (if w.status = 0 then 5 else 6) w w.dies with
  | none => s
  | some s => if w.status = 0 then own s (fun v => { v with tok := .load }) else own (s.shutAgain die w.job) (fun v => { v with phase := .closed })

/-- RESTORE_OPEN (R361, R363): at the first token the die checks its area and opens; once every area of the set is found in order, it loads. -/
def execRestoreOpen (die : Nat) (s : State) : Out :=
  let due (w : Switch) : Bool := !w.out && (w.tok == .quiesce || w.phase == .opened && (w.tok == .load || (w.coord == die && w.back)))
  match (s.die die).sw.find? due with
  | none => .next s
  | some w =>
    .next (match w.tok with
      | .load => s.loadArea die w
      | .quiesce =>
        if w.phase == .opened then s.passTok die 2 w.status w
        else if s.asleep (range (die * 8) 8) then s.callAll (range (die * 8) 8)
        else s.openTo die w
      | _ => s.allOpen die w)

/-- A register or card element of a job that is still pending when packets of it were lost takes a fabric fault (R361, R198); a request for which a bundle
waits is refused. -/
def State.pendLost (s : State) (die job : Nat) : State :=
  let s := (s.jobPlaces die job).foldl (fun s p => s.modCtxAt p (fun c =>
    { c with pend := [], bfaults := c.bfaults ++ c.pend.map (fun d => { cause := 0x0C01, addr := d.va, aux := 0 }),
             held := c.held.map (fun i => if i.req.isSome then { i with req := none, resp := some (.nack 2) } else i) })) s
  let lost (c : Card) : Card := { c with waiting := none, failed := if c.failed.isSome then c.failed else some (3, 0) }
  let s := (s.coresOf die).foldl (fun s k => s.modCore k (fun o => { o with cards := mapIf (fun c => c.job == job && c.waiting.isSome) lost o.cards })) s
  s.modDie die (fun d => { d with window := d.window.filter (fun r => !(r.pkt.job == job && (r.origin.1 == 0 || r.origin.1 == 1))) })

/-- RESTORE_RESUME (R361): at the close token, once the replies that stand at the die are taken, issue, grants and the engines go on; triggers are
evaluated once; losses of the late log reach the supervisor. -/
def execRestoreResume (die : Nat) (s : State) : Out :=
  match (s.die die).sw.find? (fun w => !w.out && w.tok == .close && (w.phase == .loaded || w.phase == .closed)) with
  | none => .next s
  | some w =>
    if w.phase == .closed then .next (s.passClose die w)
    else if s.net.any (fun p => p.at_ == die && p.out == 8 && p.job == w.job && !p.request) then .next s
    else
      let lost := SMap.get 0 (s.die die).lateLost w.job
      let s := s.modTok die w.coord w.ctx (fun v => { v with phase := .closed })
      let s := if lost = 0 then s else s.pendLost die w.job
      let s := (s.jobPlaces die w.job).foldl (fun s p => s.modCtxAt p (fun c => { c with run := if c.run == .held then .running else c.run })) s
      let s := (s.kChanged die).modDie die (fun d => { d with lateLost := SMap.del d.lateLost w.job })
      .next (((if lost = 0 then s else s.supervise die w.job 0x0D01 0 0 lost).tokenEvent die w.job).passClose die w)

end Sys2Proof.Machine
end

