-- ==== Sys2Proof/Machine/Translate.lean ====
section
/-! DEFINITION. What caches, buffers, walkers and the fetch do on their own (R237, R238, R319, R336 to R339, R372). -/

namespace Sys2Proof.Machine

/-- CACHE_EVICTION (R238): the line at a location is written back; `drop` evicts it too. -/
def execCacheEviction (core line : Nat) (drop : Bool) (s : State) : Out :=
  let isIt (l : Line) : Bool := l.loc / 64 == line / 64
  .next (if drop then s.invalidate core isIt else s.writeBackAll core isIt)

/-- The write at a place of a buffer, unless an earlier one there is to the same byte (R237). -/
def drainable (b : List BufW) (idx : Nat) : Option BufW :=
  match b[idx]? with
  | none => none
  | some w => if (b.take idx).any (·.meets w) then none else some w

/-- BUFFER_DRAIN (R237): one write of a cluster's buffer, or of the die station, goes to the next point. -/
def execBufferDrain (die : Nat) (cluster : Option Nat) (idx : Nat) (s : State) : Out :=
  match cluster with
  | some c =>
    let k := die * 8 + c % 8
    let b := (s.cluster k).buffer
    .next (match drainable b idx with
      | none => s
      | some w => (s.modCluster k (fun c => { c with buffer := c.buffer.eraseIdx idx })).dieWrite die w)
  | none =>
    .next (match drainable (s.die die).station idx with
      | none => s
      | some w => ((s.modDie die (fun d => { d with station := d.station.eraseIdx idx })).stationWrite die w).getD s)

/-- PAGE_WALK (R336, R337): a walk for a context ends; a valid leaf fills the TLB, and the walker cache keeps the table entries read. A
fault leaves nothing. -/
def execPageWalk (core ctx : Nat) (va : Word) (s : State) : Out :=
  let p : Place := ⟨core, ctx⟩
  .next (if (s.ctxAt p).run == .free || !canonical va then s else s.tlbFill (s.xctxAt p) (vaOf va))

/-- SHOOTDOWN_CORE_ACK (R339): one core's part in the handshake. -/
def execShootdownCoreAck (core asid : Nat) (page : Option Word) (s : State) : Out :=
  .next ((s.shootCore core asid (page.map vaOf)).publish core 4)

/-- ICACHE_FILL (R319, R372): a block is fetched ahead; a failure only counts in SPECDISC. -/
def execIcacheFill (core ctx : Nat) (va : Word) (s : State) : Out :=
  let p : Place := ⟨core, ctx⟩
  let c := s.ctxAt p
  let discard (s : State) : State := s.modCtxAt p (fun c => { c with y := { c.y with specdisc := c.y.specdisc + 1 } })
  if c.run != .running || c.y.level = 2 then .next s
  else match s.fetchXl p va with
    | .error _ => .next (discard s)
    | .ok t => match s.sectionAt p (vaOf va) with
      | none => .next (discard s)
      | some (g, sec) => match s.fillBlock p (vaOf va) g sec t.loc with
        | .ok s => .next (s.tlbFill (s.xctxAt p) (vaOf va))
        | .error _ => .next (discard s)

end Sys2Proof.Machine
end

