-- ==== Sys2Proof/Machine/Vector.lean ====
section
/-! DEFINITION. The V- and W-slot instructions (R132 to R157). Views are read as latched at issue (R6). -/

namespace Sys2Proof.Machine

/-! ## Elements of a lane (R133) -/

/-- The float format of a type selector (R101). -/
def fmtOf (t : BitVec 2) : FFmt := if t = 0 then .f32 else if t = 1 then .f16 else .bf16
/-- Elements of a float format in a lane. -/
def FFmt.per (f : FFmt) : Nat := 32 / f.width
/-- Element `j` of a lane, by element width (R133). -/
def elemAt (w : Nat) (x : Lane) (j : Nat) : Nat := x.toNat / 2 ^ (w * j) % 2 ^ w
/-- A lane from its elements, with their flags. -/
def packElems (w n : Nat) (f : Nat → Nat × Flags) : Lane × Flags :=
  (BitVec.ofNat 32 ((List.range n).foldl (fun a j => a + (f j).1 * 2 ^ (w * j)) 0), (List.range n).foldl (fun a j => a ||| (f j).2) 0)

/-- Round a wide result with the flags that made it (R66, R67). -/
def rounded (f : FFmt) (r : Wide × Flags) : Nat × Flags := let (c, g) := fenc f r.1; (c, r.2 ||| g)

/-- A float form over the elements of each lane (R139). -/
def State.vf (s : State) (t : BitVec 2) (d a b : BitVec 8) (op : Wide → Wide → Wide → Wide × Flags) : State :=
  let f := fmtOf t
  let x := s.viewRd a
  let y := s.viewRd b
  let z := s.viewRd d
  let el (l : List Lane) (i j : Nat) : Wide := fdec f (elemAt f.width (l.getD i 0) j)
  s.lanesOut d (fun i => packElems f.width f.per (fun j => rounded f (op (el x i j) (el y i j) (el z i j))))

/-- NaN operands of a form that compares or moves (R66, R139). -/
def nanOr (x y : Wide) (r : Wide) : Wide × Flags := if x.isNan || y.isNan then (.nan, x.nv ||| y.nv) else (r, 0)

/-- z + x × y exactly, then one rounding; NV for 0 × ∞ even when z is a quiet NaN (R139). -/
def fma (x y z : Wide) : Wide × Flags :=
  let (p, f) := wmul x y
  let (r, g) := wadd z p
  (r, f ||| g)

/-- An integer form over lanes (R141): signedness and `.sat` by type. -/
def State.vi (s : State) (signed sat_ : Bool) (d a b : BitVec 8) (op : Int → Int → Int) : State :=
  let x := s.viewRd a
  let y := s.viewRd b
  let rd (l : Lane) : Int := if signed then l.toInt else l.toNat
  let lo : Int := if signed then -2 ^ 31 else 0
  let hi : Int := if signed then 2 ^ 31 - 1 else 2 ^ 32 - 1
  s.lanesOut d (fun i =>
    let r := op (rd (x.getD i 0)) (rd (y.getD i 0))
    let v := if sat_ then sat r lo hi else r
    (BitVec.ofInt 32 v, if v = r then 0 else fSAT))

/-- A form on lane bit patterns, with no flag (R135, R142). -/
def State.vb (s : State) (d a b : BitVec 8) (op : Lane → Lane → Lane) : State :=
  let x := s.viewRd a
  let y := s.viewRd b
  s.lanesOut d (fun i => (op (x.getD i 0) (y.getD i 0), 0))

/-- A special function (R140): the special operands, else the magnitude of the exact result with a sticky remainder. -/
def special (f : FFmt) (x : Wide) (k : Wide → Nat × Flags) : Nat × Flags :=
  if x.isNan then (fnan f, x.nv) else k x

/-- Round a magnitude with a sticky remainder; an exact result of zero magnitude cannot arise. -/
def roundMag (f : FFmt) (neg : Bool) (r : Nat × Int × Bool) : Nat × Flags := fencMag f neg r.1 r.2.1 r.2.2

def frecip (f : FFmt) (x : Wide) : Nat × Flags := special f x (fun x => match x with
  | .inf n => (fsign f n, 0)
  | .fin n m e => if m = 0 then (finf f n, 0) else roundMag f n (recipMag m e)
  | _ => (fnan f, 0))
def frsqrt (f : FFmt) (x : Wide) : Nat × Flags := special f x (fun x => match x with
  | .inf n => if n then (fnan f, fNV) else (0, 0)
  | .fin n m e => if m = 0 then (finf f n, 0) else if n then (fnan f, fNV) else roundMag f false (rsqrtMag m e)
  | _ => (fnan f, 0))
def fsqrt (f : FFmt) (x : Wide) : Nat × Flags := special f x (fun x => match x with
  | .inf n => if n then (fnan f, fNV) else (finf f false, 0)
  | .fin n m e => if m = 0 then (fsign f n, 0) else if n then (fnan f, fNV) else roundMag f false (sqrtMag m e)
  | _ => (fnan f, 0))

/-- 2^x for a finite x (R140): the integer part scales, the fraction by digits (UNVERIFIED, log 14). Beyond 2^12 every format over- or
underflows. -/
def fexp2Fin (f : FFmt) (n : Bool) (m : Nat) (e : Int) : Nat × Flags :=
  if m = 0 then fencMag f false 1 0 false
  else if e + ilog2 m ≥ 12 then (if n then fencMag f false 1 (-5000) true else fencMag f false 1 5000 true)
  else
    let fb : Nat := (-e).toNat                                  -- fraction bits of m
    let v : Int := alignTo n m e (min e 0)                      -- x × 2^fb
    let k : Int := v / 2 ^ fb
    let fr : Nat := (v - k * 2 ^ fb).toNat
    if fr = 0 then fencMag f false 1 k false
    else if fb ≤ 200 then fencMag f false (exp2Frac fr fb) (k - 256) true
    else fencMag f false (if k < 0 then 2 ^ 300 - 1 else 2 ^ 300 + 1) (k + (if k < 0 then 1 else 0) - 300) true

def fexp2 (f : FFmt) (x : Wide) : Nat × Flags := special f x (fun x => match x with
  | .inf n => (if n then 0 else finf f false, 0)
  | .fin n m e => fexp2Fin f n m e
  | _ => (fnan f, 0))

/-- log2 of a positive finite magnitude (R140): the integer part is the position of the leading one, the fraction by digits
(UNVERIFIED, log 14). Below 1 the value is −(k) + fraction, rounded as one number. -/
def flog2Fin (f : FFmt) (m : Nat) (e : Int) : Nat × Flags :=
  let lg := ilog2 m
  let k : Int := e + lg
  if m = 2 ^ lg then (fenc f (wint k))
  else
    let d := 120
    let fr := log2Frac m lg d
    let v : Int := k * 2 ^ d + fr                               -- floor of the value × 2^d; the remainder is not zero
    if v ≥ 0 then fencMag f false (2 * v.toNat + 1) (-(d : Int) - 1) true
    else fencMag f true (2 * (-v).toNat - 1) (-(d : Int) - 1) true

def flog2 (f : FFmt) (x : Wide) : Nat × Flags := special f x (fun x => match x with
  | .inf n => if n then (fnan f, fNV) else (finf f false, 0)
  | .fin n m e => if m = 0 then (finf f true, 0) else if n then (fnan f, fNV) else flog2Fin f m e
  | _ => (fnan f, 0))

/-- A special function over the elements of each lane. -/
def State.vspec (s : State) (t : BitVec 2) (d a : BitVec 8) (op : FFmt → Wide → Nat × Flags) : State :=
  let f := fmtOf t
  let x := s.viewRd a
  s.lanesOut d (fun i => packElems f.width f.per (fun j => op f (fdec f (elemAt f.width (x.getD i 0) j))))

/-- A comparison (R143): bits of the enabled elements, with the flags of the f32 forms. -/
def State.vcmp (s : State) (t : BitVec 2) (d : BitVec 4) (a b : BitVec 8) (signals nanRes : Bool) (op : Int → Bool) : State :=
  let x := s.viewRd a
  let y := s.viewRd b
  let cmp (i : Nat) : Bool × Flags :=
    let u := x.getD i 0
    let v := y.getD i 0
    if t = 0 then
      let p := fdec .f32 u.toNat
      let q := fdec .f32 v.toNat
      if p.isNan || q.isNan then (nanRes, if signals then fNV else p.nv ||| q.nv) else (op (wcmp p q), 0)
    else
      let rd (l : Lane) : Int := if t = 1 then l.toInt else l.toNat
      (op (if rd u < rd v then -1 else if rd u = rd v then 0 else 1), 0)
  let on (i : Nat) : Bool := s.enb i && i < s.lanes
  let f := (range 0 64).foldl (fun g i => if on i then g ||| (cmp i).2 else g) 0
  (s.predWr d (wordFrom (fun i => on i && (cmp i).1))).flag f

/-- The elements of a type as a reduction reads them (R79, R147, R148): f32, s32 or z32. -/
def redAdd (t : BitVec 2) (x y : Lane) : Lane × Flags :=
  if t = 0 then let (c, f) := rounded .f32 (wadd (fdec .f32 x.toNat) (fdec .f32 y.toNat)); (BitVec.ofNat 32 c, f)
  else (x + y, 0)
/-- The larger of two elements of a type. -/
def redMax (t : BitVec 2) (x y : Lane) : Lane × Flags :=
  if t = 0 then
    let p := fdec .f32 x.toNat
    let q := fdec .f32 y.toNat
    let (c, f) := rounded .f32 (nanOr p q (wmax p q)); (BitVec.ofNat 32 c, f)
  else if t = 1 then (if x.toInt < y.toInt then y else x, 0) else (if x.toNat < y.toNat then y else x, 0)
/-- The smaller of two elements of a type. -/
def redMin (t : BitVec 2) (x y : Lane) : Lane × Flags :=
  if t = 0 then
    let p := fdec .f32 x.toNat
    let q := fdec .f32 y.toNat
    let (c, f) := rounded .f32 (nanOr p q (wmin p q)); (BitVec.ofNat 32 c, f)
  else if t = 1 then (if x.toInt < y.toInt then x else y, 0) else (if x.toNat < y.toNat then x else y, 0)

/-- One level of the pairwise tree (R79). -/
def pairUp (op : Lane → Lane → Lane × Flags) : List Lane → List Lane × Flags
  | x :: y :: t =>
    let (v, f) := op x y
    let (l, g) := pairUp op t
    (v :: l, f ||| g)
  | l => (l, 0)

/-- The tree of R79 over 2^n elements. -/
def tree (op : Lane → Lane → Lane × Flags) : Nat → List Lane → Lane × Flags
  | 0, l => (l.getD 0 0, 0)
  | n + 1, l =>
    let (l, f) := pairUp op l
    let (v, g) := tree op n l
    (v, f ||| g)

/-- A reduction (R147): masked elements enter as `unit`; element 0 is written whatever its guard bit. -/
def State.vred (s : State) (d a : BitVec 8) (unit : Lane) (op : Lane → Lane → Lane × Flags) : State :=
  let x := s.viewRd a
  let l := (range 0 s.lanes).map (fun i => if s.enb i then x.getD i 0 else unit)
  let (v, f) := tree op (if s.cx.t.vb then 6 else 5) l
  (s.viewWr d (v :: List.replicate 63 0) 1).flag f

/-- The running sums of a scan (R148). -/
def scanGo (op : Lane → Lane → Lane × Flags) : Lane → List Lane → List Lane × Flags
  | _, [] => ([], 0)
  | r, x :: t =>
    let (v, f) := op r x
    let (l, g) := scanGo op v t
    (v :: l, f ||| g)

/-- Elements per lane and their width by format code (R133). -/
def fmtPer (c : Nat) : Nat × Nat :=
  match c with
  | 0x00 | 0x01 | 0x0B => (4, 8)
  | 0x02 | 0x03 | 0x08 | 0x09 => (2, 16)
  | 0x0C => (4, 6)
  | _ => (1, 32)

/-- Byte `m` of a view (R151). -/
def viewByte (l : List Lane) (m : Nat) : Nat := elemAt 8 (l.getD (m / 4) 0) (m % 4)

/-- ExpOf of R80. -/
def expOf (x : Wide) : Int :=
  match x with
  | .fin _ m e => if m = 0 then -126 else e + ilog2 m + 1
  | _ => -126

/-- The scale byte and flag of a block of `vexpo` (R152). -/
def blockScaleByte (t : Int) (xs : List Wide) : Lane × Flags :=
  if xs.any (fun x => x.isNan || (match x with | .inf _ => true | _ => false)) then (0xFF, fNV)
  else
    let e := xs.foldl (fun e x => max e (expOf x)) (-126)
    (BitVec.ofNat 32 (sat (e + 127 - t) 0 254).toNat, 0)

/-- `vexpo` (R152): T is 4 for nt8 and 2 for nt6. The enabled elements of a block select and receive its byte. -/
def State.vexpo (s : State) (t : Int) (d a : BitVec 8) : State :=
  let x := s.viewRd a
  let on (i : Nat) : Bool := s.enb i && i < s.lanes
  let blk (b : Nat) : Lane × Flags :=
    blockScaleByte t (((range (32 * b) 32).filter on).map (fun i => fdec .f32 (x.getD i 0).toNat))
  s.lanesOut d (fun i => if i < 32 then blk 0 else blk 1)

/-- `vadd`, float (R139). -/
def execVaddF (t : BitVec 2) (d a b : BitVec 8) (s : State) : Out := .next (s.vf t d a b (fun x y _ => wadd x y))

/-- `vsub`, float (R139). -/
def execVsubF (t : BitVec 2) (d a b : BitVec 8) (s : State) : Out := .next (s.vf t d a b (fun x y _ => wadd x y.neg))

/-- `vmul`, float (R139). -/
def execVmulF (t : BitVec 2) (d a b : BitVec 8) (s : State) : Out := .next (s.vf t d a b (fun x y _ => wmul x y))

/-- `vfma`, float (R139). -/
def execVfma (t : BitVec 2) (d a b : BitVec 8) (s : State) : Out := .next (s.vf t d a b (fun x y z => fma x y z))

/-- `vfms`, float (R139). -/
def execVfms (t : BitVec 2) (d a b : BitVec 8) (s : State) : Out := .next (s.vf t d a b (fun x y z => fma x.neg y z))

/-- `vfnma`, float (R139). -/
def execVfnma (t : BitVec 2) (d a b : BitVec 8) (s : State) : Out := .next (s.vf t d a b (fun x y z => fma x.neg y z.neg))

/-- `vmax`, float (R139). -/
def execVmaxF (t : BitVec 2) (d a b : BitVec 8) (s : State) : Out := .next (s.vf t d a b (fun x y _ => nanOr x y (wmax x y)))

/-- `vmin`, float (R139). -/
def execVminF (t : BitVec 2) (d a b : BitVec 8) (s : State) : Out := .next (s.vf t d a b (fun x y _ => nanOr x y (wmin x y)))

/-- `vabs` (R139). -/
def execVabs (t : BitVec 2) (d a : BitVec 8) (s : State) : Out := .next (s.vf t d a a (fun x _ _ => nanOr x x x.abs))

/-- `vneg` (R139). -/
def execVneg (t : BitVec 2) (d a : BitVec 8) (s : State) : Out := .next (s.vf t d a a (fun x _ _ => nanOr x x x.neg))

/-- `vrecip` (R140). -/
def execVrecip (t : BitVec 2) (d a : BitVec 8) (s : State) : Out := .next (s.vspec t d a frecip)

/-- `vrsqrt` (R140). -/
def execVrsqrt (t : BitVec 2) (d a : BitVec 8) (s : State) : Out := .next (s.vspec t d a frsqrt)

/-- `vsqrt` (R140). -/
def execVsqrt (t : BitVec 2) (d a : BitVec 8) (s : State) : Out := .next (s.vspec t d a fsqrt)

/-- `vexp2` (R140). -/
def execVexp2 (t : BitVec 2) (d a : BitVec 8) (s : State) : Out := .next (s.vspec t d a fexp2)

/-- `vlog2` (R140). -/
def execVlog2 (t : BitVec 2) (d a : BitVec 8) (s : State) : Out := .next (s.vspec t d a flog2)

/-- `vadd`, integer: types s32, z32, s32.sat, z32.sat (R141). -/
def execVaddI (t : BitVec 2) (d a b : BitVec 8) (s : State) : Out := .next (s.vi (!t.getLsbD 0) (t.getLsbD 1) d a b (fun x y => x + y))

/-- `vsub`, integer: types s32, z32, s32.sat, z32.sat (R141). -/
def execVsubI (t : BitVec 2) (d a b : BitVec 8) (s : State) : Out := .next (s.vi (!t.getLsbD 0) (t.getLsbD 1) d a b (fun x y => x - y))

/-- `vmul`, integer: types s32, z32, s32.sat, z32.sat (R141). -/
def execVmulI (t : BitVec 2) (d a b : BitVec 8) (s : State) : Out := .next (s.vi (!t.getLsbD 0) (t.getLsbD 1) d a b (fun x y => x * y))

/-- `vmulh`, integer: types s32, z32 (R141). -/
def execVmulh (t : BitVec 1) (d a b : BitVec 8) (s : State) : Out := .next (s.vi (!t.getLsbD 0) false d a b (fun x y => x * y / 2 ^ 32))

/-- `vmin`, integer: types s32, z32 (R141). -/
def execVminI (t : BitVec 1) (d a b : BitVec 8) (s : State) : Out := .next (s.vi (!t.getLsbD 0) false d a b (fun x y => if x < y then x else y))

/-- `vmax`, integer: types s32, z32 (R141). -/
def execVmaxI (t : BitVec 1) (d a b : BitVec 8) (s : State) : Out := .next (s.vi (!t.getLsbD 0) false d a b (fun x y => if x < y then y else x))

/-- `vand` (R142). -/
def execVand (d a b : BitVec 8) (s : State) : Out := .next (s.vb d a b (fun x y => x &&& y))

/-- `vor` (R142). -/
def execVor (d a b : BitVec 8) (s : State) : Out := .next (s.vb d a b (fun x y => x ||| y))

/-- `vxor` (R142). -/
def execVxor (d a b : BitVec 8) (s : State) : Out := .next (s.vb d a b (fun x y => x ^^^ y))

/-- `vshl` (R142). -/
def execVshl (d a b : BitVec 8) (s : State) : Out := .next (s.vb d a b (fun x y => x <<< (y.toNat % 32)))

/-- `vshr` (R142). -/
def execVshr (d a b : BitVec 8) (s : State) : Out := .next (s.vb d a b (fun x y => x >>> (y.toNat % 32)))

/-- `vsra` (R142). -/
def execVsra (d a b : BitVec 8) (s : State) : Out := .next (s.vb d a b (fun x y => x.sshiftRight (y.toNat % 32)))

/-- `vcmp.eq` (R143). -/
def execVcmpEq (t : BitVec 2) (d : BitVec 4) (a b : BitVec 8) (s : State) : Out := .next (s.vcmp t d a b false false (fun c => c == 0))

/-- `vcmp.ne` (R143). -/
def execVcmpNe (t : BitVec 2) (d : BitVec 4) (a b : BitVec 8) (s : State) : Out := .next (s.vcmp t d a b false true (fun c => c != 0))

/-- `vcmp.lt` (R143). -/
def execVcmpLt (t : BitVec 2) (d : BitVec 4) (a b : BitVec 8) (s : State) : Out := .next (s.vcmp t d a b true false (fun c => decide (c < 0)))

/-- `vcmp.le` (R143). -/
def execVcmpLe (t : BitVec 2) (d : BitVec 4) (a b : BitVec 8) (s : State) : Out := .next (s.vcmp t d a b true false (fun c => decide (c ≤ 0)))

/-- `vsel` (R144). -/
def execVsel (d a : BitVec 8) (p : BitVec 4) (s : State) : Out :=
  let x := s.viewRd a
  let z := s.viewRd d
  let m := s.iss.lat.rp p.toNat
  .next (s.lanesOut d (fun i => (if m.getLsbD i then x.getD i 0 else z.getD i 0, 0)))

/-- `vmov` (R145). -/
def execVmov (d a : BitVec 8) (s : State) : Out := .next (s.lanesOut d (fun i => ((s.viewRd a).getD i 0, 0)))

/-- `vbcast` (R145). -/
def execVbcast (d : BitVec 8) (g : BitVec 5) (s : State) : Out := .next (s.lanesOut d (fun _ => ((s.ra g).extractLsb' 0 32, 0)))

/-- `vlane`: gD is written only where the guard enables element k (R146). A value below SLIM for g30 is the stack-limit fault of R62, which holds for
every slot, though R136 names port faults alone for V and W slots (DEDUCED, log 83). -/
def execVlane (d : BitVec 5) (a : BitVec 8) (b : BitVec 5) (s : State) : Out :=
  let k := bits (s.ra b) 5 0
  .next (if s.enb k then s.wg d (if k < s.lanes then ((s.viewRd a).getD k 0).zeroExtend 64 else 0) else s)

/-- `vins`: element k alone is written (R146). -/
def execVins (d : BitVec 8) (a b : BitVec 5) (s : State) : Out :=
  let k := bits (s.ra b) 5 0
  .next (s.viewWr d (List.replicate 64 ((s.ra a).extractLsb' 0 32)) (if k < s.lanes && s.enb k then maskFrom k 1 else 0))

/-- `vperm` (R145). -/
def execVperm (d a b : BitVec 8) (s : State) : Out :=
  let x := s.viewRd a
  let y := s.viewRd b
  .next (s.lanesOut d (fun i => let k := (y.getD i 0).toNat % 64; (if k < s.lanes then x.getD k 0 else 0, 0)))

/-- `vrot` (R145). -/
def execVrot (d a : BitVec 8) (b : BitVec 5) (s : State) : Out :=
  let x := s.viewRd a
  let r := (s.ra b).toNat % s.lanes
  .next (s.lanesOut d (fun i => (x.getD ((i + r) % s.lanes) 0, 0)))

/-- `vredsum` (R147). -/
def execVredsum (t : BitVec 2) (d a : BitVec 8) (s : State) : Out := .next (s.vred d a (if t = 0 then 0x80000000 else 0) (redAdd t))

/-- `vredmax` (R147). -/
def execVredmax (t : BitVec 2) (d a : BitVec 8) (s : State) : Out := .next (s.vred d a (if t = 0 then 0xFF800000 else if t = 1 then 0x80000000 else 0) (redMax t))

/-- `vredmin` (R147). -/
def execVredmin (t : BitVec 2) (d a : BitVec 8) (s : State) : Out := .next (s.vred d a (if t = 0 then 0x7F800000 else if t = 1 then 0x7FFFFFFF else 0xFFFFFFFF) (redMin t))

/-- `vscan` (R148). -/
def execVscan (t : BitVec 2) (d a : BitVec 8) (s : State) : Out :=
  let x := s.viewRd a
  let u : Lane := if t = 0 then 0x80000000 else 0
  let (l, f) := scanGo (redAdd t) u ((range 0 s.lanes).map (fun i => if s.enb i then x.getD i 0 else u))
  .next ((s.viewWr d (l ++ List.replicate (64 - s.lanes) 0) s.en).flag f)

/-- `vcvt`, a numeric pair (R150): a source that is no number sets NV whatever the destination. -/
def execVcvt (x y : BitVec 4) (d a : BitVec 8) (s : State) : Out :=
  let v := s.viewRd a
  let (ps, ws) := fmtPer x.toNat
  let (pd, wd_) := fmtPer y.toNat
  .next (s.lanesOut d (fun j => packElems wd_ pd (fun k =>
    let n := pd * j + k
    if n < ps * s.lanes then
      let e := decFmt x.toNat (elemAt ws (v.getD (n / ps) 0) (n % ps))
      let (c, f) := encFmt y.toNat e
      (c, if e == Wide.nan || e == Wide.nar then f ||| fNV else f)
    else (0, 0))))

/-- `vcvt` 0x0C, unpack (R151). -/
def execVcvtNt6Unpack (d a : BitVec 8) (s : State) : Out :=
  let v := s.viewRd a
  .next (s.lanesOut d (fun j => (BitVec.ofNat 32 (viewByte v (3 * j) + viewByte v (3 * j + 1) * 256 + viewByte v (3 * j + 2) * 65536), 0)))

/-- `vcvt` 0xC0, pack (R151). -/
def execVcvtNt6Pack (d a : BitVec 8) (s : State) : Out :=
  let v := s.viewRd a
  .next (s.lanesOut d (fun j => packElems 8 4 (fun k =>
    let m := 4 * j + k
    (if m < 3 * s.lanes then elemAt 8 (v.getD (m / 3) 0) (m % 3) else 0, 0))))

/-- `vscale` (R153). -/
def execVscale (d a b : BitVec 8) (s : State) : Out :=
  let x := s.viewRd a
  let y := s.viewRd b
  .next (s.lanesOut d (fun i =>
    let r : Wide := match fdec .f32 (x.getD i 0).toNat with
      | .fin n m e => .fin n m (e + (y.getD i 0).toInt)
      | w => w
    let (c, f) := fenc .f32 r
    (BitVec.ofNat 32 c, f)))

/-- `vexpo.nt8` (R152). -/
def execVexpoNt8 (d a : BitVec 8) (s : State) : Out := .next (s.vexpo 4 d a)

/-- `vexpo.nt6` (R152). -/
def execVexpoNt6 (d a : BitVec 8) (s : State) : Out := .next (s.vexpo 2 d a)

/-- `pand` (R154). -/
def execPand (d a b : BitVec 4) (s : State) : Out := .next (s.predWr d (s.iss.lat.rp a.toNat &&& s.iss.lat.rp b.toNat))

/-- `por` (R154). -/
def execPor (d a b : BitVec 4) (s : State) : Out := .next (s.predWr d (s.iss.lat.rp a.toNat ||| s.iss.lat.rp b.toNat))

/-- `pxor` (R154). -/
def execPxor (d a b : BitVec 4) (s : State) : Out := .next (s.predWr d (s.iss.lat.rp a.toNat ^^^ s.iss.lat.rp b.toNat))

/-- `pnot` (R154). -/
def execPnot (d a : BitVec 4) (s : State) : Out := .next (s.predWr d (~~~(s.iss.lat.rp a.toNat)))

/-- `pmov` (R154). -/
def execPmov (d a : BitVec 4) (s : State) : Out := .next (s.predWr d (s.iss.lat.rp a.toNat))

/-- `vpack.p` (R155). -/
def execVpackP (d : BitVec 8) (hi : Bool) (s : State) : Out :=
  let b := if hi then 8 else 0
  .next (s.lanesOut d (fun i => packElems 1 8 (fun m => (b2n ((s.iss.lat.rp (b + m)).getLsbD i), 0))))

/-- `vunpack.p` (R155). -/
def execVunpackP (hi : Bool) (a : BitVec 8) (s : State) : Out :=
  let b := if hi then 8 else 0
  let x := s.viewRd a
  .next ((range 0 8).foldl (fun s m => s.predWr (BitVec.ofNat 4 (b + m)) (wordFrom (fun i => (x.getD i 0).getLsbD m))) s)

/-- `pcount` (R156), with the check of R62 for g30 (DEDUCED, log 83). -/
def execPcount (d : BitVec 5) (a : BitVec 4) (s : State) : Out := .next (s.wg d (w64 (ones 64 (s.lim (s.iss.lat.rp a.toNat &&& s.en)).toNat)))

end Sys2Proof.Machine
end

