-- ==== Sys2Proof/Machine/Dispatch.lean ====
section
/-! DEFINITION. One arm per row of spec/opcode_table.json: the meaning of each instruction and event. -/

namespace Sys2Proof.Machine

def exec (i : Instr) (s : State) : Host.Outcome State Fault Refusal :=
  match i with
  | .br w => Sys2Proof.Machine.execBr w s
  | .call w => Sys2Proof.Machine.execCall w s
  | .bz g w => Sys2Proof.Machine.execBz g w s
  | .bnz g w => Sys2Proof.Machine.execBnz g w s
  | .blt g w => Sys2Proof.Machine.execBlt g w s
  | .bge g w => Sys2Proof.Machine.execBge g w s
  | .bpany p w => Sys2Proof.Machine.execBpany p w s
  | .bpall p w => Sys2Proof.Machine.execBpall p w s
  | .callr g => Sys2Proof.Machine.execCallr g s
  | .jr g => Sys2Proof.Machine.execJr g s
  | .ret => Sys2Proof.Machine.execRet s
  | .loop n g w => Sys2Proof.Machine.execLoop n g w s
  | .loopi n c e => Sys2Proof.Machine.execLoopi n c e s
  | .lbrk n => Sys2Proof.Machine.execLbrk n s
  | .endt => Sys2Proof.Machine.execEndt s
  | .endtPost g st => Sys2Proof.Machine.execEndtPost g st s
  | .post g st => Sys2Proof.Machine.execPost g st s
  | .trap c => Sys2Proof.Machine.execTrap c s
  | .sysc c => Sys2Proof.Machine.execSysc c s
  | .emptyBundle pad lend stop => Sys2Proof.Machine.execEmptyBundle pad lend stop s
  | .add d a b w sat => Sys2Proof.Machine.execAdd d a b w sat s
  | .sub d a b w sat => Sys2Proof.Machine.execSub d a b w sat s
  | .mul d a b w sat => Sys2Proof.Machine.execMul d a b w sat s
  | .mulh d a b w => Sys2Proof.Machine.execMulh d a b w s
  | .mulhz d a b w => Sys2Proof.Machine.execMulhz d a b w s
  | .divs d a b w sat => Sys2Proof.Machine.execDivs d a b w sat s
  | .rems d a b w => Sys2Proof.Machine.execRems d a b w s
  | .remz d a b w => Sys2Proof.Machine.execRemz d a b w s
  | .and d a b => Sys2Proof.Machine.execAnd d a b s
  | .or d a b => Sys2Proof.Machine.execOr d a b s
  | .xor d a b => Sys2Proof.Machine.execXor d a b s
  | .andn d a b => Sys2Proof.Machine.execAndn d a b s
  | .shl d a b w => Sys2Proof.Machine.execShl d a b w s
  | .shr d a b w => Sys2Proof.Machine.execShr d a b w s
  | .sra d a b w => Sys2Proof.Machine.execSra d a b w s
  | .rotl d a b w => Sys2Proof.Machine.execRotl d a b w s
  | .min d a b w => Sys2Proof.Machine.execMin d a b w s
  | .max d a b w => Sys2Proof.Machine.execMax d a b w s
  | .minz d a b w => Sys2Proof.Machine.execMinz d a b w s
  | .maxz d a b w => Sys2Proof.Machine.execMaxz d a b w s
  | .slt d a b w => Sys2Proof.Machine.execSlt d a b w s
  | .sltz d a b w => Sys2Proof.Machine.execSltz d a b w s
  | .seq d a b w => Sys2Proof.Machine.execSeq d a b w s
  | .sel d a b c => Sys2Proof.Machine.execSel d a b c s
  | .clz d a w => Sys2Proof.Machine.execClz d a w s
  | .ctz d a w => Sys2Proof.Machine.execCtz d a w s
  | .popc d a w => Sys2Proof.Machine.execPopc d a w s
  | .divz d a b w => Sys2Proof.Machine.execDivz d a b w s
  | .addi d a i1 => Sys2Proof.Machine.execAddi d a i1 s
  | .andi d a i1 => Sys2Proof.Machine.execAndi d a i1 s
  | .ori d a i1 => Sys2Proof.Machine.execOri d a i1 s
  | .xori d a i1 => Sys2Proof.Machine.execXori d a i1 s
  | .shli d a h => Sys2Proof.Machine.execShli d a h s
  | .shri d a h => Sys2Proof.Machine.execShri d a h s
  | .srai d a h => Sys2Proof.Machine.execSrai d a h s
  | .li d i1 => Sys2Proof.Machine.execLi d i1 s
  | .lih d a i1 => Sys2Proof.Machine.execLih d a i1 s
  | .bext d a pos len => Sys2Proof.Machine.execBext d a pos len s
  | .bins d a pos len => Sys2Proof.Machine.execBins d a pos len s
  | .csrr d n => Sys2Proof.Machine.execCsrr d n s
  | .csrw a n => Sys2Proof.Machine.execCsrw a n s
  | .csrrsW d a n => Sys2Proof.Machine.execCsrrsW d a n s
  | .csrrsS d a n => Sys2Proof.Machine.execCsrrsS d a n s
  | .csrrsC d a n => Sys2Proof.Machine.execCsrrsC d a n s
  | .tret => Sys2Proof.Machine.execTret s
  | .tinv d a b => Sys2Proof.Machine.execTinv d a b s
  | .asidinv d a => Sys2Proof.Machine.execAsidinv d a s
  | .ctxsave d a b => Sys2Proof.Machine.execCtxsave d a b s
  | .ctxrest d a b => Sys2Proof.Machine.execCtxrest d a b s
  | .scrub d a => Sys2Proof.Machine.execScrub d a s
  | .keyld d a b => Sys2Proof.Machine.execKeyld d a b s
  | .gsw d a => Sys2Proof.Machine.execGsw d a s
  | .segmap d a => Sys2Proof.Machine.execSegmap d a s
  | .wfe d => Sys2Proof.Machine.execWfe d s
  | .mret => Sys2Proof.Machine.execMret s
  | .vaddF t d a b => Sys2Proof.Machine.execVaddF t d a b s
  | .vsubF t d a b => Sys2Proof.Machine.execVsubF t d a b s
  | .vmulF t d a b => Sys2Proof.Machine.execVmulF t d a b s
  | .vfma t d a b => Sys2Proof.Machine.execVfma t d a b s
  | .vfms t d a b => Sys2Proof.Machine.execVfms t d a b s
  | .vfnma t d a b => Sys2Proof.Machine.execVfnma t d a b s
  | .vmaxF t d a b => Sys2Proof.Machine.execVmaxF t d a b s
  | .vminF t d a b => Sys2Proof.Machine.execVminF t d a b s
  | .vabs t d a => Sys2Proof.Machine.execVabs t d a s
  | .vneg t d a => Sys2Proof.Machine.execVneg t d a s
  | .vrecip t d a => Sys2Proof.Machine.execVrecip t d a s
  | .vrsqrt t d a => Sys2Proof.Machine.execVrsqrt t d a s
  | .vsqrt t d a => Sys2Proof.Machine.execVsqrt t d a s
  | .vexp2 t d a => Sys2Proof.Machine.execVexp2 t d a s
  | .vlog2 t d a => Sys2Proof.Machine.execVlog2 t d a s
  | .vaddI t d a b => Sys2Proof.Machine.execVaddI t d a b s
  | .vsubI t d a b => Sys2Proof.Machine.execVsubI t d a b s
  | .vmulI t d a b => Sys2Proof.Machine.execVmulI t d a b s
  | .vmulh t d a b => Sys2Proof.Machine.execVmulh t d a b s
  | .vminI t d a b => Sys2Proof.Machine.execVminI t d a b s
  | .vmaxI t d a b => Sys2Proof.Machine.execVmaxI t d a b s
  | .vand d a b => Sys2Proof.Machine.execVand d a b s
  | .vor d a b => Sys2Proof.Machine.execVor d a b s
  | .vxor d a b => Sys2Proof.Machine.execVxor d a b s
  | .vshl d a b => Sys2Proof.Machine.execVshl d a b s
  | .vshr d a b => Sys2Proof.Machine.execVshr d a b s
  | .vsra d a b => Sys2Proof.Machine.execVsra d a b s
  | .vcmpEq t d a b => Sys2Proof.Machine.execVcmpEq t d a b s
  | .vcmpNe t d a b => Sys2Proof.Machine.execVcmpNe t d a b s
  | .vcmpLt t d a b => Sys2Proof.Machine.execVcmpLt t d a b s
  | .vcmpLe t d a b => Sys2Proof.Machine.execVcmpLe t d a b s
  | .vsel d a p => Sys2Proof.Machine.execVsel d a p s
  | .vmov d a => Sys2Proof.Machine.execVmov d a s
  | .vbcast d g => Sys2Proof.Machine.execVbcast d g s
  | .vlane d a b => Sys2Proof.Machine.execVlane d a b s
  | .vins d a b => Sys2Proof.Machine.execVins d a b s
  | .vperm d a b => Sys2Proof.Machine.execVperm d a b s
  | .vrot d a b => Sys2Proof.Machine.execVrot d a b s
  | .vredsum t d a => Sys2Proof.Machine.execVredsum t d a s
  | .vredmax t d a => Sys2Proof.Machine.execVredmax t d a s
  | .vredmin t d a => Sys2Proof.Machine.execVredmin t d a s
  | .vscan t d a => Sys2Proof.Machine.execVscan t d a s
  | .vcvt x y d a => Sys2Proof.Machine.execVcvt x y d a s
  | .vcvtNt6Unpack d a => Sys2Proof.Machine.execVcvtNt6Unpack d a s
  | .vcvtNt6Pack d a => Sys2Proof.Machine.execVcvtNt6Pack d a s
  | .vscale d a b => Sys2Proof.Machine.execVscale d a b s
  | .vexpoNt8 d a => Sys2Proof.Machine.execVexpoNt8 d a s
  | .vexpoNt6 d a => Sys2Proof.Machine.execVexpoNt6 d a s
  | .pand d a b => Sys2Proof.Machine.execPand d a b s
  | .por d a b => Sys2Proof.Machine.execPor d a b s
  | .pxor d a b => Sys2Proof.Machine.execPxor d a b s
  | .pnot d a => Sys2Proof.Machine.execPnot d a s
  | .pmov d a => Sys2Proof.Machine.execPmov d a s
  | .vpackP d hi => Sys2Proof.Machine.execVpackP d hi s
  | .vunpackP hi a => Sys2Proof.Machine.execVunpackP hi a s
  | .pcount d a => Sys2Proof.Machine.execPcount d a s
  | .wload p f c => Sys2Proof.Machine.execWload p f c s
  | .wswap => Sys2Proof.Machine.execWswap s
  | .mrunMac p f b c => Sys2Proof.Machine.execMrunMac p f b c s
  | .mrunAdm p f b c => Sys2Proof.Machine.execMrunAdm p f b c s
  | .mrunMax p f b c => Sys2Proof.Machine.execMrunMax p f b c s
  | .mrunMin p f b c => Sys2Proof.Machine.execMrunMin p f b c s
  | .accclr b c => Sys2Proof.Machine.execAccclr b c s
  | .accscale p b c => Sys2Proof.Machine.execAccscale p b c s
  | .arrayDequeue core => Sys2Proof.Machine.execArrayDequeue core s
  | .ldS8 d b o => Sys2Proof.Machine.execLdS8 d b o s
  | .ldS16 d b o => Sys2Proof.Machine.execLdS16 d b o s
  | .ldS32 d b o => Sys2Proof.Machine.execLdS32 d b o s
  | .ldS64 d b o => Sys2Proof.Machine.execLdS64 d b o s
  | .ldZ8 d b o => Sys2Proof.Machine.execLdZ8 d b o s
  | .ldZ16 d b o => Sys2Proof.Machine.execLdZ16 d b o s
  | .ldZ32 d b o => Sys2Proof.Machine.execLdZ32 d b o s
  | .st8 d b o => Sys2Proof.Machine.execSt8 d b o s
  | .st16 d b o => Sys2Proof.Machine.execSt16 d b o s
  | .st32 d b o => Sys2Proof.Machine.execSt32 d b o s
  | .st64 d b o => Sys2Proof.Machine.execSt64 d b o s
  | .vld v b o => Sys2Proof.Machine.execVld v b o s
  | .vldc v b o => Sys2Proof.Machine.execVldc v b o s
  | .vst v b o => Sys2Proof.Machine.execVst v b o s
  | .vstc v b o => Sys2Proof.Machine.execVstc v b o s
  | .vgath v b i1 s1 => Sys2Proof.Machine.execVgath v b i1 s1 s
  | .vscat v b i1 s1 => Sys2Proof.Machine.execVscat v b i1 s1 s
  | .accrd v b o hi => Sys2Proof.Machine.execAccrd v b o hi s
  | .accwr v b o hi => Sys2Proof.Machine.execAccwr v b o hi s
  | .pcfg w p h => Sys2Proof.Machine.execPcfg w p h s
  | .prst w p => Sys2Proof.Machine.execPrst w p s
  | .prstU w p => Sys2Proof.Machine.execPrstU w p s
  | .padv w p g n => Sys2Proof.Machine.execPadv w p g n s
  | .hld h b o => Sys2Proof.Machine.execHld h b o s
  | .hset h g f => Sys2Proof.Machine.execHset h g f s
  | .hst h b o => Sys2Proof.Machine.execHst h b o s
  | .pref b o => Sys2Proof.Machine.execPref b o s
  | .lea d b o => Sys2Proof.Machine.execLea d b o s
  | .xcopy s1 d k g ken out ord => Sys2Proof.Machine.execXcopy s1 d k g ken out ord s
  | .xgath s1 d k g ken out ord => Sys2Proof.Machine.execXgath s1 d k g ken out ord s
  | .xscat s1 d k g ken out ord => Sys2Proof.Machine.execXscat s1 d k g ken out ord s
  | .xfill d k g ken out ord lit => Sys2Proof.Machine.execXfill d k g ken out ord lit s
  | .kinc k g lit => Sys2Proof.Machine.execKinc k g lit s
  | .kset k g lit => Sys2Proof.Machine.execKset k g lit s
  | .kwaitLt k g lit => Sys2Proof.Machine.execKwaitLt k g lit s
  | .kwaitGe k g lit => Sys2Proof.Machine.execKwaitGe k g lit s
  | .xcoll s1 d k g ken out => Sys2Proof.Machine.execXcoll s1 d k g ken out s
  | .xtrig g => Sys2Proof.Machine.execXtrig g s
  | .xabort g => Sys2Proof.Machine.execXabort g s
  | .mtins k g t => Sys2Proof.Machine.execMtins k g t s
  | .mtdel k g t => Sys2Proof.Machine.execMtdel k g t s
  | .mtrd k g t => Sys2Proof.Machine.execMtrd k g t s
  | .mtregAdd k g t tgt => Sys2Proof.Machine.execMtregAdd k g t tgt s
  | .mtregMax k g t tgt => Sys2Proof.Machine.execMtregMax k g t tgt s
  | .mtregMin k g t tgt => Sys2Proof.Machine.execMtregMin k g t tgt s
  | .mtregCas k g t tgt => Sys2Proof.Machine.execMtregCas k g t tgt s
  | .mtregRead k g t tgt => Sys2Proof.Machine.execMtregRead k g t tgt s
  | .xsync => Sys2Proof.Machine.execXsync s
  | .amoAdd a v s1 dw rel acq => Sys2Proof.Machine.execAmoAdd a v s1 dw rel acq s
  | .amoMin a v s1 dw z rel acq => Sys2Proof.Machine.execAmoMin a v s1 dw z rel acq s
  | .amoMax a v s1 dw z rel acq => Sys2Proof.Machine.execAmoMax a v s1 dw z rel acq s
  | .amoAnd a v s1 dw rel acq => Sys2Proof.Machine.execAmoAnd a v s1 dw rel acq s
  | .amoOr a v s1 dw rel acq => Sys2Proof.Machine.execAmoOr a v s1 dw rel acq s
  | .amoXor a v s1 dw rel acq => Sys2Proof.Machine.execAmoXor a v s1 dw rel acq s
  | .amoSwap a v s1 dw rel acq => Sys2Proof.Machine.execAmoSwap a v s1 dw rel acq s
  | .amoCas a v c s1 dw rel acq => Sys2Proof.Machine.execAmoCas a v c s1 dw rel acq s
  | .vamoAdd a v s1 rel acq idx => Sys2Proof.Machine.execVamoAdd a v s1 rel acq idx s
  | .vamoMin a v s1 z rel acq idx => Sys2Proof.Machine.execVamoMin a v s1 z rel acq idx s
  | .vamoMax a v s1 z rel acq idx => Sys2Proof.Machine.execVamoMax a v s1 z rel acq idx s
  | .vamoAnd a v s1 rel acq idx => Sys2Proof.Machine.execVamoAnd a v s1 rel acq idx s
  | .vamoOr a v s1 rel acq idx => Sys2Proof.Machine.execVamoOr a v s1 rel acq idx s
  | .vamoXor a v s1 rel acq idx => Sys2Proof.Machine.execVamoXor a v s1 rel acq idx s
  | .vamoSwap a v s1 rel acq idx => Sys2Proof.Machine.execVamoSwap a v s1 rel acq idx s
  | .vamoCas a v s1 rel acq idx => Sys2Proof.Machine.execVamoCas a v s1 rel acq idx s
  | .fence s1 wb inv => Sys2Proof.Machine.execFence s1 wb inv s
  | .bind a l b => Sys2Proof.Machine.execBind a l b s
  | .unbind a => Sys2Proof.Machine.execUnbind a s
  | .preg p b m => Sys2Proof.Machine.execPreg p b m s
  | .pdrop b => Sys2Proof.Machine.execPdrop b s
  | .psig b => Sys2Proof.Machine.execPsig b s
  | .pwait t b => Sys2Proof.Machine.execPwait t b s
  | .psw b => Sys2Proof.Machine.execPsw b s
  | .pquery d b => Sys2Proof.Machine.execPquery d b s
  | .pqueryPhase d b => Sys2Proof.Machine.execPqueryPhase d b s
  | .waita a v d => Sys2Proof.Machine.execWaita a v d s
  | .tdep a v m s1 => Sys2Proof.Machine.execTdep a v m s1 s
  | .tdepPark a v m s1 => Sys2Proof.Machine.execTdepPark a v m s1 s
  | .tcopy a v m s1 => Sys2Proof.Machine.execTcopy a v m s1 s
  | .tcopyPark a v m s1 => Sys2Proof.Machine.execTcopyPark a v m s1 s
  | .ttake a v m s1 => Sys2Proof.Machine.execTtake a v m s1 s
  | .ttakePark a v m s1 => Sys2Proof.Machine.execTtakePark a v m s1 s
  | .uqWidxWrite die q v => Sys2Proof.Machine.execUqWidxWrite die q v s
  | .uqHaltClear die q mask => Sys2Proof.Machine.execUqHaltClear die q mask s
  | .launch die q => Sys2Proof.Machine.execLaunch die q s
  | .fenceOnly die q => Sys2Proof.Machine.execFenceOnly die q s
  | .packetCompletion die q idx => Sys2Proof.Machine.execPacketCompletion die q idx s
  | .dispatchGrant core ctx => Sys2Proof.Machine.execDispatchGrant core ctx s
  | .idleSteal core ctx => Sys2Proof.Machine.execIdleSteal core ctx s
  | .launchSequence core ctx => Sys2Proof.Machine.execLaunchSequence core ctx s
  | .queueGrowth die => Sys2Proof.Machine.execQueueGrowth die s
  | .preempt die => Sys2Proof.Machine.execPreempt die s
  | .coresBitSet die part core => Sys2Proof.Machine.execCoresBitSet die part core s
  | .coresBitClear die part core => Sys2Proof.Machine.execCoresBitClear die part core s
  | .engineJobStart core card burst => Sys2Proof.Machine.execEngineJobStart core card burst s
  | .engineJobCompletion core card => Sys2Proof.Machine.execEngineJobCompletion core card s
  | .triggerFire die => Sys2Proof.Machine.execTriggerFire die s
  | .collectiveEntryStart die comm qp => Sys2Proof.Machine.execCollectiveEntryStart die comm qp s
  | .chunkSend die => Sys2Proof.Machine.execChunkSend die s
  | .entryLocalCompletion die comm qp => Sys2Proof.Machine.execEntryLocalCompletion die comm qp s
  | .agreementPropose die comm members => Sys2Proof.Machine.execAgreementPropose die comm members s
  | .agreementCommit die comm => Sys2Proof.Machine.execAgreementCommit die comm s
  | .ethFrameRx die sub frame => Sys2Proof.Machine.execEthFrameRx die sub frame s
  | .pipelinePacket die lane => Sys2Proof.Machine.execPipelinePacket die lane s
  | .disposition die lane => Sys2Proof.Machine.execDisposition die lane s
  | .sliceCopy die slice => Sys2Proof.Machine.execSliceCopy die slice s
  | .sliceTake die slice => Sys2Proof.Machine.execSliceTake die slice s
  | .sliceDeposit die slice => Sys2Proof.Machine.execSliceDeposit die slice s
  | .sliceWithdraw die slice pnum => Sys2Proof.Machine.execSliceWithdraw die slice pnum s
  | .regionDestroy die rgn => Sys2Proof.Machine.execRegionDestroy die rgn s
  | .driftReply die slice => Sys2Proof.Machine.execDriftReply die slice s
  | .syncPhaserOp die obj op => Sys2Proof.Machine.execSyncPhaserOp die obj op s
  | .cacheEviction core line drop => Sys2Proof.Machine.execCacheEviction core line drop s
  | .bufferDrain die cluster idx => Sys2Proof.Machine.execBufferDrain die cluster idx s
  | .pageWalk core ctx va => Sys2Proof.Machine.execPageWalk core ctx va s
  | .shootdownCoreAck core asid page => Sys2Proof.Machine.execShootdownCoreAck core asid page s
  | .icacheFill core ctx va => Sys2Proof.Machine.execIcacheFill core ctx va s
  | .fabricRd src dst vc => Sys2Proof.Machine.execFabricRd src dst vc s
  | .fabricWr src dst vc => Sys2Proof.Machine.execFabricWr src dst vc s
  | .fabricAmo src dst vc => Sys2Proof.Machine.execFabricAmo src dst vc s
  | .fabricMcwr src dst vc => Sys2Proof.Machine.execFabricMcwr src dst vc s
  | .fabricWrr src dst vc => Sys2Proof.Machine.execFabricWrr src dst vc s
  | .fabricRsp src dst vc => Sys2Proof.Machine.execFabricRsp src dst vc s
  | .fabricAck src dst vc => Sys2Proof.Machine.execFabricAck src dst vc s
  | .fabricNack src dst vc => Sys2Proof.Machine.execFabricNack src dst vc s
  | .fabricMgmt src dst vc => Sys2Proof.Machine.execFabricMgmt src dst vc s
  | .answerTimeout src dst vc seq => Sys2Proof.Machine.execAnswerTimeout src dst vc seq s
  | .backoffResend src dst vc seq => Sys2Proof.Machine.execBackoffResend src dst vc seq s
  | .linkFrameRx die port frame => Sys2Proof.Machine.execLinkFrameRx die port frame s
  | .censusSend die port => Sys2Proof.Machine.execCensusSend die port s
  | .censusReceive die port c => Sys2Proof.Machine.execCensusReceive die port c s
  | .hostBarRequest md req => Sys2Proof.Machine.execHostBarRequest md req s
  | .claim md p0 p1 => Sys2Proof.Machine.execClaim md p0 p1 s
  | .handoff md port => Sys2Proof.Machine.execHandoff md port s
  | .accept md port => Sys2Proof.Machine.execAccept md port s
  | .ownerLinkLoss md => Sys2Proof.Machine.execOwnerLinkLoss md s
  | .go md kib => Sys2Proof.Machine.execGo md kib s
  | .reset md => Sys2Proof.Machine.execReset md s
  | .bootVerify die => Sys2Proof.Machine.execBootVerify die s
  | .rootStart die => Sys2Proof.Machine.execRootStart die s
  | .linkTraining die ok => Sys2Proof.Machine.execLinkTraining die ok s
  | .monitorHandover md => Sys2Proof.Machine.execMonitorHandover md s
  | .spdmMessageArrive md msg => Sys2Proof.Machine.execSpdmMessageArrive md msg s
  | .rootRequest md => Sys2Proof.Machine.execRootRequest md s
  | .monitorActivation md image => Sys2Proof.Machine.execMonitorActivation md image s
  | .quiescePass die => Sys2Proof.Machine.execQuiescePass die s
  | .sweep die => Sys2Proof.Machine.execSweep die s
  | .gangSave die => Sys2Proof.Machine.execGangSave die s
  | .savedReport die => Sys2Proof.Machine.execSavedReport die s
  | .closePass die => Sys2Proof.Machine.execClosePass die s
  | .latePacket die pkt => Sys2Proof.Machine.execLatePacket die pkt s
  | .restoreOpen die => Sys2Proof.Machine.execRestoreOpen die s
  | .restoreResume die => Sys2Proof.Machine.execRestoreResume die s
  | .powerP1Enter die cl => Sys2Proof.Machine.execPowerP1Enter die cl s
  | .powerP2Enter die cl => Sys2Proof.Machine.execPowerP2Enter die cl s
  | .powerP3Enter die => Sys2Proof.Machine.execPowerP3Enter die s
  | .clusterWake die cl => Sys2Proof.Machine.execClusterWake die cl s
  | .wakeComplete die cl => Sys2Proof.Machine.execWakeComplete die cl s
  | .patrolRead die addr found => Sys2Proof.Machine.execPatrolRead die addr found s
  | .registerWrite die target v => Sys2Proof.Machine.execRegisterWrite die target v s
  | .hostLinkDown md port => Sys2Proof.Machine.execHostLinkDown md port s
  | .hostLinkUp md port => Sys2Proof.Machine.execHostLinkUp md port s
  | .deviceInterfaceState md part run => Sys2Proof.Machine.execDeviceInterfaceState md part run s

end Sys2Proof.Machine
end

