-- ==== Sys2Proof/Machine/Bundle.lean ====
section
/-! DEFINITION. The issue of a bundle (R85 to R91, R113, R316): fetch, latches, the slots A to M together, then Y, X and C, completion. -/

namespace Sys2Proof.Machine

/-! ## The slots of a bundle -/

/-- Every present slot holds an instruction (R107, R109). -/
def Iss.scanned (i : Iss) : Bool :=
  (List.range 8).all (fun n => !i.has n || (match i.instr n with | .ok _ => true | .error _ => false))

/-! ## Ports of a bundle (R58, R91, R162) -/

/-- The checks of the port movement that a slot reports (R59, R91): of ports that no lower slot names, at the widest width. An M
slot that takes effect checks its own rows in its own order (R163). -/
def State.planBad (s : State) (slot : Nat) : Option Bad :=
  let all := s.iss.allTakes
  (s.iss.slotTakes slot).findSome? (fun t =>
    let q := t.2.1
    if all.any (fun u => u.1 < slot && u.2.1 == q) then none
    else
      let w := all.foldl (fun w u => if u.2.1 = q then max w u.2.2.1 else w) 0
      let own := slot = 4 && (match s.iss.instr slot with | .ok n => s.iss.acts slot n | .error _ => false)
      if own then none else if q < 8 then s.popBad (s.iss.lat.port q) w else s.pushBad (s.iss.lat.port q))

/-! ## Latches (R6, R318, R321) -/

/-- The rows that the bundle in the latches takes, and by how many its ports move (R58, R161), under its guard (R164). -/
def State.latchRows (s : State) : State :=
  let i := s.iss
  let r := i.lat
  let q := (i.allTakes.filter (fun t => t.2.1 < 8 && t.1 != 4)).foldl (fun m t => SMap.put m t.2.1 (s.rowAt (r.port t.2.1) 0 256)) []
  let m := match i.slotTakes 4, i.instr 4 with
    | [(_, p, _, n)], .ok (.wload _ f _) | [(_, p, _, n)], .ok (.mrunMac _ f _ _) | [(_, p, _, n)], .ok (.mrunAdm _ f _ _)
    | [(_, p, _, n)], .ok (.mrunMax _ f _ _) | [(_, p, _, n)], .ok (.mrunMin _ f _ _) => (range 0 n).map (s.mrowAt (r.port p) f.toNat)
    | [(_, p, _, _)], .ok (.accscale ..) => [s.mrowAt (r.port p) 0x0A 0]
    | _, _ => []
  { s with iss := { i with takes := i.moves, rows := q, mrows := m } }

/-- Latch the registers of a bundle (R6). -/
def State.latchBundle (s : State) (baddr : Word) (head : Lane) (words : List Lane) (lit : Lane) : State :=
  let r := s.cx.r
  let i : Iss := { live := true, baddr := baddr, head := head, words := words, lit := lit, lat := r, sync := r,
                   latV := s.co.vfile, syncV := s.co.vfile, born := s.cycle }
  ({ s with iss := { i with guard := r.rp i.gpred } } : State).latchRows

/-- The doubleword at an offset of a record. -/
def rcdWord (b : List Byte) (off : Nat) : Word := wordOf (slice b off 8)

/-- Write a row of the vector file as lanes 0 to 63. -/
def putRow (vf : SMap Lane) (vb : Bool) (ctx n : Nat) (ls : List Lane) (count : Nat) : SMap Lane :=
  ((range 0 count).zip ls).foldl (fun m e => match vkey vb ctx n e.1 with | some k => SMap.put m k e.2 | none => m) vf

/-- The phaser at which a context waits; none of any number where it waits at none. -/
def State.waitsAt (s : State) (p : Place) : Nat :=
  ((s.dies.flatMap (fun d => d.2.phasers)).find? (fun f => f.waits.any (fun w => w.core == p.core && w.ctx == p.ctx))).elim (2 ^ 48) (·.obj)

/-- A reissued bundle takes the latches of its uncompleted C, X and Y slots from the record, and its rows under the record's guard (R318, R321). An
attached phaser wait or Drift request is not made again. -/
def State.relatch (s : State) (b : List Byte) : State :=
  let w1 := rcdWord b 8
  let i := { s.iss with cmask := BitVec.ofNat 8 (bits w1 55 48), att := bit w1 58, lmask := rcdWord b 0x20, guard := rcdWord b 0x40, rcd := [] }
  let cw := i.word 0
  let cop : Nat := (cw.extractLsb' 0 8).toNat
  let cf : Nat := (cw.extractLsb' 8 5).toNat
  let y : Regs := i.sync
  let y : Regs := if !i.pendingSlot 0 then y
           else if cop = 0x0C || cop = 0x0D then y.setP cf (rcdWord b 0x48)
           else if cop = 0x12 then y.setG 31 (rcdWord b 0x48)
           else if cop = 0x01 || cop = 0x02 || cop = 0x28 || cop = 0x38 || cop = 0x39 || (0x24 ≤ cop && cop ≤ 0x27) then y
           else y.setG cf (rcdWord b 0x48)
  let xw := i.word 6
  let xop : Nat := (xw.extractLsb' 0 8).toNat
  let sN : Nat := (xw.extractLsb' 8 4).toNat
  let dN : Nat := (xw.extractLsb' 12 4).toNat
  let sh (k : Nat) : Shape := Shape.ofBytes (slice b (0x80 + 64 * k) 64)
  let y : Regs := if !i.pendingSlot 6 then y
           else
             let y : Regs := if xLit xw then y else y.setG (xw.extractLsb' 21 5).toNat (rcdWord b 0x50)
             let y : Regs := if xop = 2 then y.setH ((sN + 1) % 16) (sh 2) else if xop = 3 then y.setH ((dN + 1) % 16) (sh 2) else y
             if (1 ≤ xop && xop ≤ 4) || xop = 0x20 then (y.setH sN (sh 0)).setH dN (sh 1) else y
  let yw := i.word 7
  let yop : Nat := (yw.extractLsb' 0 8).toNat
  let v := (yw.extractLsb' 13 5).toNat + 32 * b2n (yw.getLsbD 31)
  let y : Regs := if !i.pendingSlot 7 then y
           else ((y.setG (yw.extractLsb' 18 5).toNat (rcdWord b 0x68)).setG (yw.extractLsb' 13 5).toNat (rcdWord b 0x60)).setG
             (yw.extractLsb' 8 5).toNat (rcdWord b 0x58)
  let vb := s.cx.t.vb
  let row (k : Nat) : List Lane := lanesOf 64 (slice b (0x140 + 256 * k) 256)
  let vf := if !i.pendingSlot 7 then i.syncV
            else if 0x09 ≤ yop && yop ≤ 0x10 then
              (let f := putRow i.syncV vb s.cur.ctx ((v + 1) % 64) (row 0) 64
               if yw.getLsbD 30 then putRow f vb s.cur.ctx ((v + 2) % 64) (row 1) 64 else f)
            else if 0x28 ≤ yop && yop ≤ 0x2D then putRow i.syncV vb s.cur.ctx v (row 0) 16
            else i.syncV
  let lit := if i.pendingSlot 6 && xLit xw then (rcdWord b 0x50).extractLsb' 0 32 else i.lit
  let drifts := i.att && 0x28 ≤ yop && yop ≤ 0x2D
  let waits := i.att && 0x1A ≤ yop && yop ≤ 0x1C
  ({ s with iss := { i with sync := y, syncV := vf, lit := lit, sent := drifts, phase := if waits then some (s.waitsAt s.cur) else none } } : State).latchRows

/-! ## The slots act (R316) -/

/-- Go on from a next state. -/
def andThen (o : Out) (f : State → Out) : Out :=
  match o with
  | .next s => f s
  | .fault r => .fault r
  | .refused r => .refused r

/-- A slot stopped the bundle: it trapped or it waits. -/
def Iss.stopped (i : Iss) : Bool := i.trapped || i.wait

/-- One slot acts, if it is pending and its guard lets it. -/
def State.actSlot (s : State) (slot : Nat) : Out :=
  if !s.iss.pendingSlot slot then .next s
  else match s.iss.instr slot with
    | .error _ => .fault .unscanned
    | .ok n => if s.iss.acts slot n then exec n (s.modIss (fun i => { i with slot := slot })) else .next s

/-- The check of one A to M slot at issue (R316): the outcome if it stops the bundle. -/
def State.probe (s : State) (slot : Nat) : Option Out :=
  if !s.iss.pendingSlot slot then none
  else match s.planBad slot with
    | some (c, a) => some (.next ((s.modIss (fun i => { i with slot := slot })).takeTrap c a))
    | none =>
      match s.actSlot slot with
      | .next t => if t.iss.stopped then some (.next t) else none
      | o => some o

/-- A slot is marked completed. -/
def State.mark (s : State) (slots : BitVec 8) : State := s.modIss (fun i => { i with cmask := i.cmask ||| (slots &&& BitVec.ofNat 8 i.pres) })

/-- The A, V, W, L and M slots: none of them acts if one stops; else all act (R316). -/
def State.phaseAM (s : State) : Out :=
  if [1, 2, 3, 4, 5].all (fun i => !s.iss.pendingSlot i) then .next s
  else match [1, 2, 3, 4, 5].findSome? s.probe with
  | some o => o
  | none =>
    andThen (s.actSlot 1) fun s => andThen (s.actSlot 2) fun s => andThen (s.actSlot 3) fun s =>
    andThen (s.actSlot 5) fun s => andThen (s.actSlot 4) fun s =>
    .next ((s.mark 0x3E).modIss (fun i => { i with resp := none, req := none }))

/-- One of the slots Y, X and C, after what stands before it has completed. -/
def State.phaseLate (slot : Nat) (s : State) : Out :=
  if s.iss.stopped || !s.iss.pendingSlot slot then .next s
  else andThen (s.actSlot slot) fun s => .next (if s.iss.stopped then s else (s.mark (BitVec.ofNat 8 (2 ^ slot))).modIss (fun i => { i with sent := false, resp := none, req := none, target := none, lmask := 0, att := false }))

/-- The pushes of a bundle (R174). -/
def State.phasePush (s : State) : Out := .next (if s.iss.stopped then s else s.doPushes)

/-- The pc moves to the sequential successor before the C slot acts (R117). -/
def State.phaseNext (s : State) : Out :=
  .next (if s.iss.stopped || s.iss.xfer then s else s.modCx (fun c => { c with r := { c.r with pc := s.succ } }))

/-- The end of a bundle: a waiting one is held (R24), a completed one moves its ports (R58) and has its loop-end effect (R120). -/
def State.phaseEnd (s : State) : Out :=
  if s.iss.wait then .next (s.modCx (fun c => { c with held := some s.iss }))
  else if s.iss.trapped || s.iss.ended then .next s
  else
    let s := s.advancePorts
    if s.iss.xfer then .next s
    else
      let off := s.leaves s.cur s.iss.baddr s.succ
      let s := if s.iss.skip then s else s.modCx (fun c => { c with off := off })
      .next (if s.iss.lend then s.loopEnd else s)

/-- The bundle in the latches acts (R316). -/
def State.runBundle (s : State) : Out :=
  andThen s.phaseAM fun s => andThen (if s.iss.stopped then .next s else s.phaseLate 7) fun s => andThen s.phasePush fun s =>
  andThen (s.phaseLate 6) fun s => andThen s.phaseNext fun s => andThen (s.phaseLate 0) fun s => s.phaseEnd

/-! ## Issue -/

/-- A fetch or tag fault of the bundle at the pc (R319): no slot completed. Of a head that cannot be read PRES is a free value, not 0
(R317; DEDUCED, log 60). -/
def State.fetchFault (s : State) (cause : Nat) : State :=
  let pc := s.cx.r.pc
  let read := match s.fetchAt s.cur pc with
    | .ok (_, _, h) => !s.poisoned h 4
    | .error _ => false
  let free : Lane := (Config.unfetchedPres s.fresh).zeroExtend 32
  let head := if read then s.headAt s.cur pc else if free = 0 then 0xFF else free
  ({ s with iss := { live := true, baddr := pc, head := head &&& 0xFF, lat := s.cx.r, sync := s.cx.r }, fresh := s.fresh + 1 } : State).trapAt cause 0 pc 0 pc

/-- The bundle at the pc, fetched and latched, or its fetch fault (R109, R114, R319, R332, R372). -/
def State.fetchBundle (s : State) : Except Nat State :=
  let p := s.cur
  let pc := s.cx.r.pc
  let filled : Except Nat State :=
    if s.cx.y.level = 2 then .ok s
    else if s.cx.off then .error 0x0103
    else match s.fetchAt p pc with
      | .error c => .error c
      | .ok (g, sec, home) => s.fillBlock p (vaOf pc) g sec home
  match filled with
  | .error c => .error c
  | .ok s =>
    let s := if s.cx.y.level = 2 then s else s.tlbFill (s.xctxAt p) (vaOf pc)
    let head := s.headAt p pc
    let n := ones 8 (head.extractLsb' 0 8).toNat
    let words := lanesOf (n + b2n (head.getLsbD 9)) (s.codeBytes p (vaOf pc + 4) (4 * (n + b2n (head.getLsbD 9))))
    .ok (s.latchBundle pc head words (words.getD n 0))

/-- A fault due at the boundary before the latched bundle (R198, R295, R361). -/
def State.boundary (s : State) (f : BFault) (rest : List BFault) : State :=
  (s.modCx (fun c => { c with bfaults := rest })).trapAt f.cause f.slot f.addr f.aux s.iss.baddr

/-- A fault due to the context at this boundary (R198, R295, R361): at task level, and before a bundle none of whose slots has completed. -/
def State.boundaryDue (s : State) : Bool := s.cx.y.level == 0 && s.iss.cmask == 0 && !s.iss.att

/-- The M slot of the latched bundle finds the array's queue full (R170). -/
def State.arrayFull (s : State) : Bool :=
  s.iss.pendingSlot 4 && 4 ≤ s.co.queue.length && (match s.iss.instr 4 with | .ok n => s.iss.acts 4 n | .error _ => false)

/-- The context in `cur` issues: its held bundle goes on, or the bundle at its pc starts. One whose M slot finds the queue full does not issue
(R24, R170). -/
def State.issue (s : State) : Out :=
  let c := s.cx
  let s := s.modCx (fun c => { c with held := none })
  let fresh (b : List Byte) : Out :=
    match s.fetchBundle with
    | .error k => .next (s.fetchFault k)
    | .ok s =>
      if !s.iss.scanned then .fault .unscanned
      else
        let s := if b.isEmpty then s else s.relatch b
        match (if s.boundaryDue then s.cx.bfaults else []) with
        | f :: rest => .next (s.boundary f rest)
        | [] =>
          if s.arrayFull then .next ((s.modCx (fun x => { x with held := c.held })).modIss (fun i => { i with live := false, wait := true }))
          else s.runBundle
  match c.held with
  | none => fresh []
  | some i => if i.rcd.isEmpty then ({ s with iss := { i with wait := false } }).runBundle else fresh i.rcd

/-- The issue of the context in `cur`. While a new monitor is activated a trap of a compute core waits for it (R379): the bundle has not issued. -/
def State.issueLive (s : State) : Out :=
  if isSystem s.cur.core || !(s.md (coreDie s.cur.core / 8)).activating then s.issue
  else andThen s.issue (fun t => .next (if t.iss.trapped then { s with iss := { wait := true } } else t))

/-- A context that may issue (R24): no register waits for a remote load's reply (R359). -/
def Ctx.ready (c : Ctx) : Bool := c.run == .running && c.pend.isEmpty

/-- An issue cycle of a core (R24): the context that did not issue last goes first. One whose bundle waits from an earlier cycle, or cannot issue,
leaves the cycle to the other and has not issued. -/
def State.coreTurn (s : State) (k : Nat) : Out :=
  let c := s.core k
  let o := 1 - c.last
  let try_ (x : Nat) (s : State) : Out := ({ s with cur := ⟨k, x⟩ } : State).issueLive
  let again (x : Nat) : Bool := match (c.ctx x).held with | some i => i.rcd.isEmpty | none => false
  let idle (x : Nat) (t : State) : Bool := t.iss.wait && (again x || !t.iss.live)
  let used (x : Nat) (t : State) : Out := .next (if idle x t then t else t.modCore k (fun c => { c with last := x }))
  if (c.ctx o).ready then
    andThen (try_ o s) fun t => if idle o t && ((t.core k).ctx c.last).ready then andThen (try_ c.last t) (used c.last) else used o t
  else if (c.ctx c.last).ready then andThen (try_ c.last s) (used c.last)
  else .next { s with cur := ⟨k, s.cur.ctx⟩ }

end Sys2Proof.Machine
end

