-- ==== Sys2Proof/Machine/Step.lean ====
section
/-! DEFINITION. One step of the machine (DESIGN CHOICE, log 5), and the placing of an instruction where the next step fetches it (DESIGN CHOICE, log 4). -/

namespace Sys2Proof.Machine

/-- Actions whose predicate has held are due in this cycle, which lasts until they have taken place (R206). -/
def State.actionsDue (s : State) : Bool := s.dies.any (fun d => d.2.trigs.any (fun t => t.fired.isSome && !d.2.halted t.trc.job))

/-- Time passes by a free number of cycles (R60; DESIGN CHOICE, log 6). Where it passes, the cycle in which counters changed has ended, and where a
predicate then holds the next cycle comes, in which its action takes place (R206). -/
def State.tick (s : State) : State :=
  if s.actionsDue then { s with fresh := s.fresh + 1 }
  else
    let n := Config.elapsed s.fresh
    let s := if s.dies.any (fun d => d.2.kdirty) then (if n = 0 then s else s.endCycle) else s
    { s with cycle := s.cycle + w64 (if s.actionsDue then 1 else n), fresh := s.fresh + 1 }

/-- One step: the agent that `turns` names moves; with none named, the core last named has an issue cycle. -/
def step (s : State) : Host.Outcome State Fault Refusal :=
  match s.turns with
  | [] => s.tick.coreTurn s.cur.core
  | .core k :: t => ({ s.tick with turns := t } : State).coreTurn k
  | .event i :: t => exec i { s.tick with turns := t }

/-- The presence bit of a class; the V slot serves V and W words. -/
def classBit (c : Slot) : Nat :=
  match c with
  | .C => 0
  | .A => 1
  | .V => 2
  | .M => 4
  | .L => 5
  | .X => 6
  | .Y => 7
  | .H => 8

/-- The words of a bundle that holds one slot word and, for a consumer, a literal of zero. -/
def bundleOf (c : Slot) (i : Instr) (w : Lane) : List Lane :=
  match c with
  | .H => [w]
  | _ =>
    let lit := i.usesLit
    [BitVec.ofNat 32 (2 ^ classBit c + 0x100 + 0x200 * b2n lit), w] ++ (if lit then [0] else [])

/-- Where the placed bundle stands: a VA, and the same physical address of module 0. -/
def placedVa : Nat := 0x1000

/-- Put a bundle where context 0 of a core fetches next, at a level: its bytes in memory, a verified resident block of them, a
mapped segment that holds it, a translation, a running context. -/
def State.placeBundle (s : State) (k : Nat) (level : BitVec 2) (ws : List Lane) : State :=
  let p : Place := ⟨k, 0⟩
  let c := s.ctxAt p
  let asid := bits c.y.asid 8 0
  let bytes := padTo 512 (ws.flatMap (fun w => bytesOf 4 w.toNat))
  let sec : Section := { va := placedVa, size := 512, heads := [placedVa], tags := [] }
  let g : Segment := { job := bits c.r.jobId 9 0, monitor := level != 0, va := placedVa, size := 512, splo := 0, sphi := 512, mapno := 0,
                       segid := 0, code := [sec] }
  let t : Tlb := ⟨asid, 1, 12, .ordinary, placedVa, 0, 0, true, false, true, level != 0⟩
  let s := s.setBytes (homePa (coreDie k / 8) placedVa) bytes
  let s := s.modDie (coreDie k) (fun d => { d with segs := g :: d.segs })
  let s := s.modDie (coreDie k / 8 * 8) (fun d => { d with sealm := SMap.put d.sealm 0 0xFFF })
  let s := s.modCore k (fun c => { c with icache := { asid := asid, va := placedVa, bytes := bytes } :: c.icache, tlb := t :: c.tlb, last := 1 })
  let s := s.modCtxAt p (fun c => { c with r := { c.r with pc := w64 placedVa }, y := { c.y with level := level }, run := .running, held := none,
                                           bfaults := [], off := false })
  { s with turns := .core k :: s.turns }

/-- A state whose next step fetches and runs the instruction of a table word (DESIGN CHOICE, log 4): a system core for a monitor-level one, at root
level for `mret`, a compute core at task level for any other. -/
def State.withFetchWord (s : State) (nbits w : Nat) : State :=
  let x : Lane := BitVec.ofNat 32 w
  if nbits ≠ 32 then s
  else match decodeAny x slotOrder with
    | none => s.placeBundle 0 0 [0x102, x]
    | some (c, i) =>
      if i.monitorOnly then s.placeBundle 64 (if i = .mret then 2 else 1) (bundleOf c i x) else s.placeBundle 0 0 (bundleOf c i x)

end Sys2Proof.Machine
end

