-- ==== Sys2Proof/Safety.lean ====
section
/-! DEFINITION. What counts as a safe run: the canonical form of memory holds, and no step stops. -/

namespace Sys2Proof

/-- The memory of a state keeps its canonical form. -/
def Safe (s : Machine.State) : Prop := s.memOk = true

/-- `n` steps from a state all give next states, and each of them is safe. -/
def SafeRun : Nat → Machine.State → Prop
  | 0, s => Safe s
  | n + 1, s => Safe s ∧ ∃ t, Machine.step s = .next t ∧ SafeRun n t

end Sys2Proof
end

