-- ==== Sys2Proof/Certificates/Slice0/Obligations.lean ====
section
/-! DEFINITION. The statements for the provers. What they say of several instructions is said through tables of the expected effect, written
from the rules of the specification and not from the meanings. -/

namespace Sys2Proof.Claims

open Sys2Proof.Machine

/-! ## Frames -/

/-- Nothing outside the cores and the latches of the bundle in issue changes: no byte of memory, no die, cluster, module, packet, wait. -/
def KeepsMachine (s t : State) : Prop :=
  (∀ a, t.byte a = s.byte a) ∧ t = { s with cores := t.cores, iss := t.iss } ∧ ∀ k, k ≠ s.cur.core → t.core k = s.core k

/-- Of the core in issue too, nothing changes but the context in issue, and of that nothing but what `r` holds. -/
def KeepsAllButRegs (s t : State) : Prop :=
  KeepsMachine s t ∧ t.co = s.co.setCtx s.cur.ctx t.cx ∧ t.cx = { s.cx with r := t.cx.r }

/-- Only g register `d` and AFLAGS may change: every other g register, every predicate, counter, shape, port, loop frame, binding, control
register, the pc and the latches of the bundle stand. -/
def WritesG (d : BitVec 5) (s t : State) : Prop :=
  KeepsAllButRegs s t ∧ t.iss = s.iss ∧ t.cx.r = { s.cx.r with g := t.cx.r.g, aflags := t.cx.r.aflags } ∧
  ∀ n, n ≠ d.toNat → t.cx.r.rg n = s.cx.r.rg n

/-- A register that reads zero discards its write (R48); any other holds what was written. -/
def gValue (d : BitVec 5) (v : Word) : Word := if d = 0 then 0 else v

/-- A bundle runs at task level, and its context takes its traps itself (R311, R316, R320). -/
def TrapsHere (s : State) : Prop := s.cx.y.level = 0 ∧ bit s.cx.y.tpol 1 = false

/-! ## The A slot (R126 to R129) -/

/-- An operand of width W, with a sign. -/
def readS (w : BitVec 2) (v : Word) : Int := (v.setWidth (64 / 2 ^ w.toNat)).toInt
/-- An operand of width W, without a sign. -/
def readZ (w : BitVec 2) (v : Word) : Nat := (v.setWidth (64 / 2 ^ w.toNat)).toNat
/-- A shift amount: y modulo W, read without a sign (R126). -/
def shift (w : BitVec 2) (v : Word) : Nat := readZ w v % (64 / 2 ^ w.toNat)
/-- A truth value as a number. -/
def truth (b : Bool) : Int := if b then 1 else 0
/-- Bits of an operand from the least significant one, below W. -/
def lowBits (w : BitVec 2) (v : Word) : List Bool := (List.range (64 / 2 ^ w.toNat)).map v.getLsbD

/-- The exact results of R126 and R127: destination, width, whether the form is signed, whether it is `.sat`, the result, NV. -/
def scalarExact (i : Instr) (s : State) : Option (BitVec 5 × BitVec 2 × Bool × Bool × Int × Bool) :=
  match i with
  | .add d a b w sat => some (d, w, true, sat, readS w (s.ra a) + readS w (s.ra b), false)
  | .sub d a b w sat => some (d, w, true, sat, readS w (s.ra a) - readS w (s.ra b), false)
  | .mul d a b w sat => some (d, w, true, sat, readS w (s.ra a) * readS w (s.ra b), false)
  | .mulh d a b w => some (d, w, true, false, (readS w (s.ra a) * readS w (s.ra b)).fdiv (2 ^ (64 / 2 ^ w.toNat)), false)
  | .mulhz d a b w => some (d, w, false, false, (readZ w (s.ra a) * readZ w (s.ra b) / 2 ^ (64 / 2 ^ w.toNat) : Nat), false)
  | .divs d a b w sat => some (d, w, true, sat, if readS w (s.ra b) = 0 then -1 else (readS w (s.ra a)).tdiv (readS w (s.ra b)), readS w (s.ra b) = 0)
  | .rems d a b w =>
      some (d, w, true, false, if readS w (s.ra b) = 0 then readS w (s.ra a) else (readS w (s.ra a)).tmod (readS w (s.ra b)), readS w (s.ra b) = 0)
  | .divz d a b w =>
      some (d, w, false, false, if readZ w (s.ra b) = 0 then 2 ^ (64 / 2 ^ w.toNat) - 1 else (readZ w (s.ra a) / readZ w (s.ra b) : Nat), readZ w (s.ra b) = 0)
  | .remz d a b w => some (d, w, false, false, (readZ w (s.ra a) % readZ w (s.ra b) : Nat), readZ w (s.ra b) = 0)
  | .and d a b => some (d, 0, false, false, (s.ra a &&& s.ra b).toNat, false)
  | .or d a b => some (d, 0, false, false, (s.ra a ||| s.ra b).toNat, false)
  | .xor d a b => some (d, 0, false, false, (s.ra a ^^^ s.ra b).toNat, false)
  | .andn d a b => some (d, 0, false, false, (s.ra a &&& ~~~(s.ra b)).toNat, false)
  | .shl d a b w => some (d, w, true, false, readS w (s.ra a) * 2 ^ shift w (s.ra b), false)
  | .shr d a b w => some (d, w, false, false, (readZ w (s.ra a) / 2 ^ shift w (s.ra b) : Nat), false)
  | .sra d a b w => some (d, w, true, false, (readS w (s.ra a)).fdiv (2 ^ shift w (s.ra b)), false)
  | .rotl d a b w => some (d, w, false, false, (((s.ra a).setWidth (64 / 2 ^ w.toNat)).rotateLeft (shift w (s.ra b))).toNat, false)
  | .min d a b w => some (d, w, true, false, Min.min (readS w (s.ra a)) (readS w (s.ra b)), false)
  | .max d a b w => some (d, w, true, false, Max.max (readS w (s.ra a)) (readS w (s.ra b)), false)
  | .minz d a b w => some (d, w, false, false, (Min.min (readZ w (s.ra a)) (readZ w (s.ra b)) : Nat), false)
  | .maxz d a b w => some (d, w, false, false, (Max.max (readZ w (s.ra a)) (readZ w (s.ra b)) : Nat), false)
  | .slt d a b w => some (d, 0, false, false, truth (readS w (s.ra a) < readS w (s.ra b)), false)
  | .sltz d a b w => some (d, 0, false, false, truth (readZ w (s.ra a) < readZ w (s.ra b)), false)
  | .seq d a b w => some (d, 0, false, false, truth (readZ w (s.ra a) = readZ w (s.ra b)), false)
  | .clz d a w => some (d, w, false, false, ((lowBits w (s.ra a)).reverse.takeWhile (fun b => !b)).length, false)
  | .ctz d a w => some (d, w, false, false, ((lowBits w (s.ra a)).takeWhile (fun b => !b)).length, false)
  | .popc d a w => some (d, w, false, false, ((lowBits w (s.ra a)).filter (fun b => b)).length, false)
  | _ => none

/-- A result limited to the signed range of W bits. -/
def limited (w : BitVec 2) (r : Int) : Int := Max.max (-2 ^ (64 / 2 ^ w.toNat - 1)) (Min.min (2 ^ (64 / 2 ^ w.toNat - 1) - 1) r)

/-- The 64 bits written: wrapped to W bits and extended with or without a sign (R126). -/
def written (w : BitVec 2) (signed : Bool) (r : Int) : Word :=
  if signed then (BitVec.ofInt (64 / 2 ^ w.toNat) r).signExtend 64 else (BitVec.ofInt (64 / 2 ^ w.toNat) r).setWidth 64

/-- The flags a result sets: SAT where a `.sat` form changed it, NV for a zero divisor (R126, R127). -/
def scalarFlags (w : BitVec 2) (sat : Bool) (r : Int) (nv : Bool) : Word :=
  (if sat ∧ limited w r ≠ r then 0x10 else 0) ||| (if nv then 0x01 else 0)

/-- The immediate of a form of R128: the sign-extended field, or the sign-extended literal where the field is 0x2000. -/
def immediate (s : State) (i : BitVec 14) : Word := if i = 0x2000#14 then s.iss.lit.signExtend 64 else i.signExtend 64

/-- The 64-bit results of `sel` and of the immediate and field forms, which set no flag (R126, R128, R129). -/
def scalarWord (i : Instr) (s : State) : Option (BitVec 5 × Word) :=
  match i with
  | .sel d a b c => some (d, if s.ra c = 0 then s.ra b else s.ra a)
  | .addi d a i => some (d, s.ra a + immediate s i)
  | .andi d a i => some (d, s.ra a &&& immediate s i)
  | .ori d a i => some (d, s.ra a ||| immediate s i)
  | .xori d a i => some (d, s.ra a ^^^ immediate s i)
  | .shli d a h => some (d, s.ra a <<< h.toNat)
  | .shri d a h => some (d, s.ra a >>> h.toNat)
  | .srai d a h => some (d, (s.ra a).sshiftRight h.toNat)
  | .li d i => some (d, immediate s i)
  | .lih d a i => some (d, ((s.ra a).setWidth 32).setWidth 64 + ((immediate s i).setWidth 64 <<< 32))
  | .bext d a pos len => some (d, ((s.ra a) >>> pos.toNat) &&& (BitVec.allOnes 64 >>> (63 - len.toNat)))
  | .bins d a pos len =>
      let m : Word := BitVec.allOnes 64 >>> (63 - len.toNat)
      some (d, (s.ra d &&& ~~~(m <<< pos.toNat)) ||| ((s.ra a &&& m) <<< pos.toNat))
  | _ => none

/-! ## The C slot (R113 to R125) -/

/-- Whether a direct branch is taken, and its offset in words from the head of its bundle (R114, R117). -/
def branch (i : Instr) (s : State) : Option (Prop × Int) :=
  match i with
  | .br w => some (True, w.toInt)
  | .bz g w => some (s.rs g = 0, w.toInt)
  | .bnz g w => some (s.rs g ≠ 0, w.toInt)
  | .blt g w => some ((s.rs g).msb = true, w.toInt)
  | .bge g w => some ((s.rs g).msb = false, w.toInt)
  | .bpany p w => some (∃ k, k < s.lanes ∧ (s.iss.sync.rp p.toNat).getLsbD k = true, w.toInt)
  | .bpall p w => some (∀ k, k < s.lanes → (s.iss.sync.rp p.toNat).getLsbD k = true, w.toInt)
  | _ => none

/-- Only the pc of the context in issue moves, and the note that the bundle transferred control. -/
def MovesPc (s t : State) : Prop :=
  KeepsMachine s t ∧ t.co = s.co.setCtx s.cur.ctx t.cx ∧ t.cx = { s.cx with r := { s.cx.r with pc := t.cx.r.pc }, off := t.cx.off } ∧
  t.iss = { s.iss with xfer := t.iss.xfer }

/-- Only the pc moves, to `next`; it faults when it is fetched where it lies outside the section of the bundle at `last` (R109). -/
def PassesBody (s t : State) (last next : Word) : Prop :=
  KeepsMachine s t ∧ t.co = s.co.setCtx s.cur.ctx t.cx ∧
  t.cx = { s.cx with r := { s.cx.r with pc := next }, off := s.leaves s.cur last next }

/-- As `MovesPc`, but g register 31 too may change. -/
def MovesPcAndLink (s t : State) : Prop :=
  KeepsMachine s t ∧ t.co = s.co.setCtx s.cur.ctx t.cx ∧ t.cx = { s.cx with r := { s.cx.r with pc := t.cx.r.pc, g := t.cx.r.g }, off := t.cx.off } ∧
  t.iss = { s.iss with xfer := t.iss.xfer } ∧ ∀ n, n ≠ 31 → t.cx.r.rg n = s.cx.r.rg n

/-- The address of the bundle after the one in issue. -/
def nextBundle (s : State) : Word := s.succ

/-- The count that a loop form gives its counter, with whether it was limited (R119): a `loop` count above 2^24 − 1 is. -/
def loopCount (i : Instr) (s : State) : Option (BitVec 2 × Nat × Int × Bool) :=
  match i with
  | .loop n g w => some (n, Min.min (s.rs g).toNat 16777215, w.toInt, 16777215 < (s.rs g).toNat)
  | .loopi n c e => some (n, if c = 0x1FFF#13 then (s.iss.lit.setWidth 24).toNat else c.toNat, e.toNat, false)
  | _ => none

/-! ## The V and W slots (R132 to R157) -/

/-- Element `j` of lane `i` of a view as latched, read in a float format (R6, R133). -/
def floatAt (s : State) (t : BitVec 2) (v : BitVec 8) (i j : Nat) : Wide :=
  fdec (fmtOf t) (elemAt (fmtOf t).width ((s.viewRd v).getD i 0) j)
/-- A lane of a float format made of its elements, each rounded once (R66, R67, R133). -/
def floatLane (t : BitVec 2) (r : Nat → Wide × Flags) : Lane × Flags :=
  packElems (fmtOf t).width (fmtOf t).per (fun j => rounded (fmtOf t) (r j))
/-- Lane `i` of a view as latched. -/
def laneAt (s : State) (v : BitVec 8) (i : Nat) : Lane := (s.viewRd v).getD i 0
/-- A lane of an integer form by type: s32, z32, s32.sat, z32.sat (R141). -/
def intLane (signed sat : Bool) (x y : Lane) (op : Int → Int → Int) : Lane × Flags :=
  let r := if signed then op x.toInt y.toInt else op x.toNat y.toNat
  let v := if ¬ sat then r else if signed then Max.max (-2147483648) (Min.min 2147483647 r) else Max.max 0 (Min.min 4294967295 r)
  (BitVec.ofInt 32 v, if v = r then 0 else 0x10)
/-- One number of two, or a NaN if either is one (R66). -/
def orNan (x y r : Wide) : Wide × Flags := if x.isNan || y.isNan then (.nan, x.nv ||| y.nv) else (r, 0)

/-- The forms that act on each lane alone: the destination view, and the value and flags of lane `i` (R139 to R145, R149 to R153, R155). -/
def laneForm (i : Instr) (s : State) : Option (BitVec 8 × (Nat → Lane × Flags)) :=
  match i with
  | .vaddF t d a b => some (d, fun i => floatLane t (fun j => wadd (floatAt s t a i j) (floatAt s t b i j)))
  | .vsubF t d a b => some (d, fun i => floatLane t (fun j => wadd (floatAt s t a i j) (floatAt s t b i j).neg))
  | .vmulF t d a b => some (d, fun i => floatLane t (fun j => wmul (floatAt s t a i j) (floatAt s t b i j)))
  | .vfma t d a b => some (d, fun i => floatLane t (fun j => fma (floatAt s t a i j) (floatAt s t b i j) (floatAt s t d i j)))
  | .vfms t d a b => some (d, fun i => floatLane t (fun j => fma (floatAt s t a i j).neg (floatAt s t b i j) (floatAt s t d i j)))
  | .vfnma t d a b => some (d, fun i => floatLane t (fun j => fma (floatAt s t a i j).neg (floatAt s t b i j) (floatAt s t d i j).neg))
  | .vmaxF t d a b => some (d, fun i => floatLane t (fun j =>
      orNan (floatAt s t a i j) (floatAt s t b i j) (wmax (floatAt s t a i j) (floatAt s t b i j))))
  | .vminF t d a b => some (d, fun i => floatLane t (fun j =>
      orNan (floatAt s t a i j) (floatAt s t b i j) (wmin (floatAt s t a i j) (floatAt s t b i j))))
  | .vabs t d a => some (d, fun i => floatLane t (fun j => orNan (floatAt s t a i j) (floatAt s t a i j) (floatAt s t a i j).abs))
  | .vneg t d a => some (d, fun i => floatLane t (fun j => orNan (floatAt s t a i j) (floatAt s t a i j) (floatAt s t a i j).neg))
  | .vrecip t d a => some (d, fun i => packElems (fmtOf t).width (fmtOf t).per (fun j => frecip (fmtOf t) (floatAt s t a i j)))
  | .vrsqrt t d a => some (d, fun i => packElems (fmtOf t).width (fmtOf t).per (fun j => frsqrt (fmtOf t) (floatAt s t a i j)))
  | .vsqrt t d a => some (d, fun i => packElems (fmtOf t).width (fmtOf t).per (fun j => fsqrt (fmtOf t) (floatAt s t a i j)))
  | .vexp2 t d a => some (d, fun i => packElems (fmtOf t).width (fmtOf t).per (fun j => fexp2 (fmtOf t) (floatAt s t a i j)))
  | .vlog2 t d a => some (d, fun i => packElems (fmtOf t).width (fmtOf t).per (fun j => flog2 (fmtOf t) (floatAt s t a i j)))
  | .vaddI t d a b => some (d, fun i => intLane (!t.getLsbD 0) (t.getLsbD 1) (laneAt s a i) (laneAt s b i) (fun x y => x + y))
  | .vsubI t d a b => some (d, fun i => intLane (!t.getLsbD 0) (t.getLsbD 1) (laneAt s a i) (laneAt s b i) (fun x y => x - y))
  | .vmulI t d a b => some (d, fun i => intLane (!t.getLsbD 0) (t.getLsbD 1) (laneAt s a i) (laneAt s b i) (fun x y => x * y))
  | .vmulh t d a b => some (d, fun i => intLane (!t.getLsbD 0) false (laneAt s a i) (laneAt s b i) (fun x y => (x * y).fdiv (2 ^ 32)))
  | .vminI t d a b => some (d, fun i => intLane (!t.getLsbD 0) false (laneAt s a i) (laneAt s b i) Min.min)
  | .vmaxI t d a b => some (d, fun i => intLane (!t.getLsbD 0) false (laneAt s a i) (laneAt s b i) Max.max)
  | .vand d a b => some (d, fun i => (laneAt s a i &&& laneAt s b i, 0))
  | .vor d a b => some (d, fun i => (laneAt s a i ||| laneAt s b i, 0))
  | .vxor d a b => some (d, fun i => (laneAt s a i ^^^ laneAt s b i, 0))
  | .vshl d a b => some (d, fun i => (laneAt s a i <<< ((laneAt s b i).toNat % 32), 0))
  | .vshr d a b => some (d, fun i => (laneAt s a i >>> ((laneAt s b i).toNat % 32), 0))
  | .vsra d a b => some (d, fun i => ((laneAt s a i).sshiftRight ((laneAt s b i).toNat % 32), 0))
  | .vsel d a p => some (d, fun i => (if (s.iss.lat.rp p.toNat).getLsbD i then laneAt s a i else laneAt s d i, 0))
  | .vmov d a => some (d, fun i => (laneAt s a i, 0))
  | .vbcast d g => some (d, fun _ => ((s.ra g).setWidth 32, 0))
  | .vperm d a b => some (d, fun i => (if (laneAt s b i).toNat % 64 < s.lanes then laneAt s a ((laneAt s b i).toNat % 64) else 0, 0))
  | .vrot d a b => some (d, fun i => (laneAt s a ((i + (s.ra b).toNat) % s.lanes), 0))
  | .vcvt x y d a => some (d, fun i => packElems (fmtPer y.toNat).2 (fmtPer y.toNat).1 (fun k =>
      let n := (fmtPer y.toNat).1 * i + k
      let e := decFmt x.toNat (elemAt (fmtPer x.toNat).2 (laneAt s a (n / (fmtPer x.toNat).1)) (n % (fmtPer x.toNat).1))
      if n < (fmtPer x.toNat).1 * s.lanes then
        ((encFmt y.toNat e).1, (encFmt y.toNat e).2 ||| (if e = .nan ∨ e = .nar then 1 else 0))
      else (0, 0)))
  | .vcvtNt6Unpack d a => some (d, fun i => (BitVec.ofNat 32 (viewByte (s.viewRd a) (3 * i) + viewByte (s.viewRd a) (3 * i + 1) * 2 ^ 8 +
      viewByte (s.viewRd a) (3 * i + 2) * 2 ^ 16), 0))
  | .vcvtNt6Pack d a => some (d, fun i => packElems 8 4 (fun k =>
      (if 4 * i + k < 3 * s.lanes then elemAt 8 (laneAt s a ((4 * i + k) / 3)) ((4 * i + k) % 3) else 0, 0)))
  | .vscale d a b => some (d, fun i =>
      let r := fenc .f32 (match fdec .f32 (laneAt s a i).toNat with | .fin n m e => .fin n m (e + (laneAt s b i).toInt) | w => w)
      (BitVec.ofNat 32 r.1, r.2))
  | .vpackP d hi => some (d, fun i => packElems 1 8 (fun m => (if (s.iss.lat.rp (m + if hi then 8 else 0)).getLsbD i then 1 else 0, 0)))
  | _ => none

/-- An element that a V- or W-slot word may write: below Lanes() and enabled by the guard (R90, R132). -/
def Enabled (s : State) (i : Nat) : Prop := i < s.lanes ∧ (s.iss.mask s.iss.slot).getLsbD i = true

/-- The lanes of the vector file that a view's elements in `m` name hold `f`; every other lane of the file, of both contexts, stands. -/
def LanesHold (s t : State) (d : BitVec 8) (m : Nat → Prop) (f : Nat → Lane) : Prop :=
  (∀ i k, i < 64 → m i → viewKey s.cx.t.vb s.cur.ctx d i = some k → SMap.get 0 t.co.vfile k = f i) ∧
  ∀ k, (∀ i, i < 64 → m i → viewKey s.cx.t.vb s.cur.ctx d i ≠ some k) → SMap.get 0 t.co.vfile k = SMap.get 0 s.co.vfile k

/-- The flags of a lane-wise form: those of its enabled elements, ORed (R61, R135). -/
def laneFlags (s : State) (f : Nat → Lane × Flags) : Word :=
  (List.range 64).foldl (fun g i => if i < s.lanes ∧ (s.iss.mask s.iss.slot).getLsbD i = true then g ||| (f i).2 else g) 0

/-- Only the vector file and AFLAGS of the context in issue may change. -/
def KeepsAllButVectors (s t : State) : Prop :=
  KeepsMachine s t ∧ t.iss = s.iss ∧ t.co = { s.co.setCtx s.cur.ctx t.cx with vfile := t.co.vfile } ∧
  t.cx = { s.cx with r := { s.cx.r with aflags := t.cx.r.aflags } }

/-- Only what the bundle will push and AFLAGS may change. -/
def KeepsAllButPushes (s t : State) : Prop :=
  KeepsMachine s t ∧ t.co = s.co.setCtx s.cur.ctx t.cx ∧ t.cx = { s.cx with r := { s.cx.r with aflags := t.cx.r.aflags } } ∧
  t.iss = { s.iss with push := t.iss.push }

/-- A view is written with `f` where `m` says and nowhere else (R52, R53, R58): lanes of the vector file, or a row that waits to be pushed to a
write port with those lanes enabled. AFLAGS apart, nothing else changes. -/
def ViewWritten (s t : State) (d : BitVec 8) (m : Nat → Prop) (f : Nat → Lane) : Prop :=
  (d.toNat < 0xC0 → LanesHold s t d m f ∧ KeepsAllButVectors s t) ∧
  (0xC0 ≤ d.toNat → KeepsAllButPushes s t ∧ ∃ w, t.iss.push = s.iss.push ++ [w] ∧ w.port = d.toNat % 4 ∧
    (∀ i, i < 64 → (w.mask.getLsbD i = true ↔ m i)) ∧ ∀ i, i < 64 → m i → w.lanes.getD i 0 = f i)

/-- Only the predicates of the context in issue, and AFLAGS, may change. -/
def KeepsAllButPredicates (s t : State) : Prop :=
  KeepsAllButRegs s t ∧ t.iss = s.iss ∧ t.cx.r = { s.cx.r with p := t.cx.r.p, aflags := t.cx.r.aflags }

/-- The order of two elements of a comparison: none where either is a NaN (R143). -/
def order (t : BitVec 2) (x y : Lane) : Option Int :=
  if t = 0 then
    let p := fdec .f32 x.toNat
    let q := fdec .f32 y.toNat
    if p.isNan || q.isNan then none else some (wcmp p q)
  else if t = 1 then some (if x.toInt < y.toInt then -1 else if x.toInt = y.toInt then 0 else 1)
  else some (if x.toNat < y.toNat then -1 else if x.toNat = y.toNat then 0 else 1)
/-- NV of a comparison that gave no order: `lt` and `le` always, `eq` and `ne` for a signalling NaN (R66, R143). -/
def unordered (t : BitVec 2) (signals : Bool) (x y : Lane) : Flags :=
  if order t x y = none then (if signals then 1 else (fdec .f32 x.toNat).nv ||| (fdec .f32 y.toNat).nv) else 0

/-- The forms that write one predicate: destination, bit `i` of the result, and its flags (R143, R154). -/
def predForm (i : Instr) (s : State) : Option (BitVec 4 × (Nat → Bool) × (Nat → Flags)) :=
  match i with
  | .vcmpEq t d a b => some (d, fun i => order t (laneAt s a i) (laneAt s b i) == some 0, fun i => unordered t false (laneAt s a i) (laneAt s b i))
  | .vcmpNe t d a b => some (d, fun i => order t (laneAt s a i) (laneAt s b i) != some 0, fun i => unordered t false (laneAt s a i) (laneAt s b i))
  | .vcmpLt t d a b => some (d, fun i => (order t (laneAt s a i) (laneAt s b i)).any (· < 0), fun i => unordered t true (laneAt s a i) (laneAt s b i))
  | .vcmpLe t d a b => some (d, fun i => (order t (laneAt s a i) (laneAt s b i)).any (· ≤ 0), fun i => unordered t true (laneAt s a i) (laneAt s b i))
  | .pand d a b => some (d, fun i => (s.iss.lat.rp a.toNat).getLsbD i && (s.iss.lat.rp b.toNat).getLsbD i, fun _ => 0)
  | .por d a b => some (d, fun i => (s.iss.lat.rp a.toNat).getLsbD i || (s.iss.lat.rp b.toNat).getLsbD i, fun _ => 0)
  | .pxor d a b => some (d, fun i => (s.iss.lat.rp a.toNat).getLsbD i ^^ (s.iss.lat.rp b.toNat).getLsbD i, fun _ => 0)
  | .pnot d a => some (d, fun i => !(s.iss.lat.rp a.toNat).getLsbD i, fun _ => 0)
  | .pmov d a => some (d, fun i => (s.iss.lat.rp a.toNat).getLsbD i, fun _ => 0)
  | _ => none

/-- What bit `i` of predicate `d` holds after a predicated write (R49, R132): the result where enabled, else the bit as latched, zero beyond
Lanes(), one throughout p0. -/
def predBit (s : State) (d : BitVec 4) (v : Nat → Bool) (i : Nat) : Bool :=
  if d = 0 then decide (i < 64)
  else if i < s.lanes then (if (s.iss.mask s.iss.slot).getLsbD i then v i else (s.iss.lat.rp d.toNat).getLsbD i)
  else false

/-- The reductions: source view, the element that stands for a disabled one, and the operation of the tree (R79, R147). -/
def reduction (i : Instr) : Option (BitVec 8 × BitVec 8 × Lane × (Lane → Lane → Lane × Flags)) :=
  match i with
  | .vredsum t d a => some (d, a, if t = 0 then 0x80000000 else 0, redAdd t)
  | .vredmax t d a => some (d, a, if t = 0 then 0xFF800000 else if t = 1 then 0x80000000 else 0, redMax t)
  | .vredmin t d a => some (d, a, if t = 0 then 0x7F800000 else if t = 1 then 0x7FFFFFFF else 0xFFFFFFFF, redMin t)
  | _ => none

/-- The elements that enter a reduction. -/
def entering (s : State) (a : BitVec 8) (u : Lane) : List Lane :=
  (List.range s.lanes).map (fun i => if (s.iss.mask s.iss.slot).getLsbD i then laneAt s a i else u)

/-! ## The M slot (R158 to R170) -/

/-- What an M-slot word asks for: its accumulator rows, the port with the format and number of rows it takes, whether the formats agree (R163),
and what it then puts in the array queue (R165 to R169). -/
def arrayForm (i : Instr) (s : State) :
    Option (Option (Nat × Nat) × Option (BitVec 3 × Nat × Nat) × Bool × (List (List Byte × List Byte) → ArrOp)) :=
  let active := s.activeLatch
  let loaded := s.co.latchAfter active
  let run (kind : Nat) (p : BitVec 3) (f : BitVec 5) (b : BitVec 10) (c : BitVec 6) :=
    some (some (b.toNat, c.toNat + 1), some (p, f.toNat, c.toNat + 1), loaded.2 && decide (f.toNat = 0x0C ↔ loaded.1 = 0x0C),
      ArrOp.mrun kind f.toNat b.toNat active)
  match i with
  | .wload p f c => some (none, some (p, f.toNat, c.toNat + 1), true, ArrOp.wload s.shadowLatch f.toNat)
  | .wswap => some (none, none, true, fun _ => .wswap s.cx.t.vb)
  | .mrunMac p f b c => run 0 p f b c
  | .mrunAdm p f b c => run 1 p f b c
  | .mrunMax p f b c => run 2 p f b c
  | .mrunMin p f b c => run 3 p f b c
  | .accclr b c => some (some (b.toNat, c.toNat + 1), none, true, fun _ => .accclr b.toNat (c.toNat + 1))
  | .accscale p b c => some (some (b.toNat, c.toNat + 1), some (p, 0x0A, 1), true, fun rows => .accscale b.toNat (c.toNat + 1) (rows.getD 0 ([], [])))
  | _ => none

/-- Rows lie in the accumulator window of the running stage (R21, R26). -/
def InWindow (s : State) (r : Nat × Nat) : Prop := s.cx.t.acb * 64 ≤ r.1 ∧ r.1 + r.2 ≤ (s.cx.t.acb + s.cx.t.acn) * 64

/-! ## Tasks, traps and control registers -/

/-- A value that g30 takes without the stack-limit fault of R62. -/
def Fits (s : State) (d : BitVec 5) (v : Word) : Prop := ¬ (d = 30 ∧ v < s.cx.r.slim)

/-- A write of a byte is on its way from a core: it is dirty in its data cache, or it waits in a buffer or a station (R237, R238). -/
def OnItsWay (s : State) (core a : Nat) : Prop :=
  (∃ l ∈ (s.core core).dcache, ∃ i, i < 64 ∧ l.loc + i = a ∧ l.dirty.getLsbD i = true) ∨
  (∃ c, ∃ w ∈ (s.cluster c).buffer, w.covers a = true) ∨ ∃ d, ∃ w ∈ (s.die d).station, w.covers a = true

/-- Every store that a core has made is visible in its die (R243, R244): no line of its data cache is dirty, and no write of it waits in its cluster's
buffer. -/
def ReleasedAtDie (t : State) (core : Nat) : Prop :=
  (∀ l ∈ (t.core core).dcache, l.dirty = 0) ∧ (isSystem core = false → ∀ w ∈ (t.cluster (coreCluster core)).buffer, w.core ≠ core)

/-- A key header that KEYGEN turns away (R366, R367): a reserved bit, a binding of a key that is no context key, or a default key with a binding. -/
def KeygenMalformed (h : Word) : Prop :=
  h.extractLsb' 31 33 ≠ 0 ∨ h.extractLsb' 10 8 ≠ 0 ∨ (h.extractLsb' 29 2 ≠ 1 ∧ h.extractLsb' 18 11 ≠ 0) ∨
  (h.getLsbD 18 = true ∧ h.extractLsb' 19 10 ≠ 0)

/-- The 64 bytes of a wrapped key (R366): header, nonce, ciphertext, tag. -/
def wrapped (wrap : BitVec 256) (header nonce : Word) (key : BitVec 256) : List Byte :=
  let iv : BitVec 96 := nonce.setWidth 96
  let ct := Config.gcmCrypt wrap iv (bytesOf 32 key.toNat)
  bytesOf 8 header.toNat ++ bytesOf 8 nonce.toNat ++ padTo 32 ct ++ bytesOf 16 (Config.gcmTag wrap iv (bytesOf 8 header.toNat) ct).toNat

/-- A change of keys, of the seal map or of a cluster window leaves every byte of a data unit that has the same key as before (R368, R369; log 7). -/
def KeepsUnitsOfSameKey (s t : State) : Prop := ∀ a, s.keyAt (sealUnit a).1 = t.keyAt (sealUnit a).1 → t.byte a = s.byte a

/-- Nothing of a die is on its way: no dirty line, no write in a buffer or the station, no request unanswered, no engine card (R339). -/
def Settled (s : State) (die : Nat) : Prop :=
  (s.die die).window = [] ∧ (s.die die).station = [] ∧ (∀ c, c / 8 = die → (s.cluster c).buffer = []) ∧
  ∀ k, k / 128 = die → (∀ l ∈ (s.core k).dcache, l.dirty = 0) ∧ (s.core k).cards = [] ∧
    ∀ x, ((s.core k).ctx x).pend = [] ∧ ∀ i, ((s.core k).ctx x).held = some i → i.req = none

/-- The value of a register of R60 that `csrr` reads: as latched at issue, CYCLE that of the issue, AFLAGS as it stands once the array's work is done (R6,
R131). -/
def userRegister (s : State) (n : Nat) : Word :=
  match n with
  | 0 => s.iss.lat.tileCoord
  | 1 => s.iss.lat.taskId
  | 2 => s.iss.lat.jobId
  | 3 => BitVec.ofNat 64 (s.cur.ctx * 512 + s.cur.core / 128 % 8 * 64 + s.cur.core % 64) ^^^ s.iss.lat.coreX
  | 4 => s.iss.lat.slim
  | 5 => s.iss.lat.bankKey
  | 6 => s.iss.lat.portStatus
  | 7 => (s.drainAll s.cur.core).cx.r.aflags
  | 8 => s.iss.lat.faultInfo
  | _ => s.iss.born + s.iss.lat.cycX

/-- A system register of R313. -/
def systemRegister (s : State) (n : Nat) : Word :=
  match n with
  | 0x100 => s.cx.y.level.setWidth 64
  | 0x101 => s.cx.y.tvec
  | 0x102 => s.cx.y.tscratch
  | 0x103 => s.cx.y.trec
  | 0x104 => s.cx.y.tpol
  | 0x105 => s.cx.y.asid
  | 0x106 => s.cx.y.ptroot
  | 0x107 => s.cx.y.specdisc
  | 0x108 => s.co.evt
  | 0x109 => s.co.evtmask
  | 0x10A => s.cx.y.mepc
  | 0x10B => s.cx.y.mcause
  | _ => s.co.evtarea

/-- What a write leaves in a system register (R313): the reserved bits of TPOL and ASID are dropped, EVT is cleared by ones, the read-only
ones stay. -/
def systemWritten (s : State) (n : Nat) (v : Word) : Word :=
  match n with
  | 0x104 => v &&& 3
  | 0x105 => v &&& 0x1FF
  | 0x108 => s.co.evt &&& ~~~v
  | 0x100 | 0x10B => systemRegister s n
  | _ => v

/-- The new value of a `csrrs` form (R320). -/
def csrrsForm (i : Instr) (s : State) : Option (BitVec 5 × BitVec 12 × (Word → Word)) :=
  match i with
  | .csrrsW d a n => some (d, n, fun _ => s.ra a)
  | .csrrsS d a n => some (d, n, fun o => o ||| s.ra a)
  | .csrrsC d a n => some (d, n, fun o => o &&& ~~~(s.ra a))
  | _ => none

/-- The monitor-level instructions of R323 that a system core alone runs, by destination. -/
def systemCoreForm (i : Instr) : Option (BitVec 5) :=
  match i with
  | .tinv d _ _ | .ctxsave d _ _ | .ctxrest d _ _ | .keyld d _ _ | .asidinv d _ | .scrub d _ | .gsw d _ | .segmap d _ => some d
  | _ => none

/-- A status is written to `d`, and of the context in issue nothing else changes. -/
def StatusIs (s t : State) (d : BitVec 5) (n : Nat) : Prop :=
  t.cx.r.rg d.toNat = gValue d (BitVec.ofNat 64 n) ∧ (∀ m, m ≠ d.toNat → t.cx.r.rg m = s.cx.r.rg m) ∧ t.cx.r.pc = s.cx.r.pc ∧ t.iss = s.iss

/-! ## The L slot (R171 to R188) -/

/-- Scalar loads: signed, size, destination, base, offset (R175). -/
def loadForm (i : Instr) : Option (Bool × Nat × BitVec 5 × BitVec 5 × BitVec 13) :=
  match i with
  | .ldS8 d b o => some (true, 1, d, b, o)
  | .ldS16 d b o => some (true, 2, d, b, o)
  | .ldS32 d b o => some (true, 4, d, b, o)
  | .ldS64 d b o => some (true, 8, d, b, o)
  | .ldZ8 d b o => some (false, 1, d, b, o)
  | .ldZ16 d b o => some (false, 2, d, b, o)
  | .ldZ32 d b o => some (false, 4, d, b, o)
  | _ => none

/-- Scalar stores: size, data register, base, offset (R175). -/
def storeForm (i : Instr) : Option (Nat × BitVec 5 × BitVec 5 × BitVec 13) :=
  match i with
  | .st8 d b o => some (1, d, b, o)
  | .st16 d b o => some (2, d, b, o)
  | .st32 d b o => some (4, d, b, o)
  | .st64 d b o => some (8, d, b, o)
  | _ => none

/-- The effective address of R171. -/
def effective (s : State) (b : BitVec 5) (o : BitVec 13) (size : Int) : Word := s.ra b + BitVec.ofInt 64 (o.toInt * size)

/-- An access goes through the data cache (R172). -/
def Cached (x : Xl) : Prop := x.rc = .ordinary ∨ x.rc = .remote
/-- An access reaches a bank of SRAM (R172). -/
def Direct (x : Xl) : Prop := x.rc = .scratch ∨ x.rc = .cluster

/-- The bytes that an access of n bytes finds: in the data cache, in the buffers behind it, or at their homes (R172, R237). -/
def seen (s : State) (x : Xl) (n : Nat) : List Byte :=
  (List.range n).map (fun i => match x.rc with
    | .ordinary | .remote => s.cachedByte s.cur.core (x.loc + i)
    | _ => s.byte (x.loc + i))

/-- A loaded value, extended to 64 bits (R175). -/
def extended (signed : Bool) (n : Nat) (bs : List Byte) : Word :=
  if signed then (BitVec.ofNat (8 * n) (ofBytes bs)).signExtend 64 else BitVec.ofNat 64 (ofBytes bs)

/-- The byte that a list of stored elements leaves at a location: of the last element that covers it (R178, R179). -/
def lastStored (els : List (Nat × Word × Xl)) (n : Nat) (data : Nat → List Byte) (k : Nat) : Option Byte :=
  (els.reverse.find? (fun e => decide (e.2.2.loc ≤ k ∧ k < e.2.2.loc + n))).map (fun e => (data e.1).getD (k - e.2.2.loc) 0)

/-- The data cache has room for the lines of a bundle (R9), and none of its lines has been acquired under another name (R246): none must leave. -/
def Roomy (s : State) : Prop := s.co.dcache.length + 64 ≤ dcacheLines ∧ ∀ l ∈ s.co.dcache, l.spans = []

/-- Every target of a store to remote windows takes it, and no answer is outstanding (R172, R173 check 5). -/
def TargetsAgree (s : State) (els : List (Nat × Word × Xl)) : Prop :=
  s.iss.resp = none ∧ (els.filter (fun e => isRemote e.2.2.loc)).length ≤ s.iss.acks

/-- What a store of elements leaves: their bytes where they go, at their homes or, where no line must leave it, in the data cache; every other byte
of which no write is on its way, and all that is not memory but the data cache, the TLB and the walker, stands. -/
def Stores (s t : State) (els : List (Nat × Word × Xl)) (n : Nat) (data : Nat → List Byte) : Prop :=
  ((∀ e ∈ els, Direct e.2.2) → ∀ k, t.byte k = (lastStored els n data k).getD (s.byte k)) ∧
  ((∀ e ∈ els, Cached e.2.2 ∧ e.2.2.loc % 64 + n ≤ 64) → Roomy s → (∀ k, t.byte k = s.byte k) ∧
    ∀ k, isRemote k = false ∨ (s.lineAt s.cur.core k).isSome = true ∨ (lastStored els n data k).isSome = true →
      t.cachedByte s.cur.core k = (lastStored els n data k).getD (s.cachedByte s.cur.core k)) ∧
  (∀ k, lastStored els n data k = none → ¬ OnItsWay s s.cur.core k → t.byte k = s.byte k) ∧
  t.cx = s.cx ∧ t.iss = s.iss ∧ t.co.vfile = s.co.vfile ∧ t.co.acc = s.co.acc ∧ t.co.queue = s.co.queue ∧ t.co.cards = s.co.cards

/-- What every load keeps: memory (where a line must leave the data cache, but the bytes of which a write is on its way), the context but for what
`r` holds, and all but the data cache, the TLB and the walker. -/
def Loads (s t : State) : Prop :=
  (∀ k, ¬ OnItsWay s s.cur.core k → t.byte k = s.byte k) ∧
  (Roomy s → (∀ k, t.byte k = s.byte k) ∧ ∀ k, t.cachedByte s.cur.core k = s.cachedByte s.cur.core k) ∧ t.cx = { s.cx with r := t.cx.r } ∧ t.iss = s.iss ∧
  t.co.acc = s.co.acc ∧ t.co.queue = s.co.queue ∧ t.co.cards = s.co.cards ∧ t.net = s.net

/-- Vector loads: view, base, the address of element i (R177, R179). -/
def vectorLoad (i : Instr) (s : State) : Option (BitVec 8 × BitVec 5 × (Nat → Word)) :=
  match i with
  | .vld v b o => some (0#2 ++ v, b, fun i => effective s b o 256 + BitVec.ofNat 64 (4 * i))
  | .vldc v b o => some (1#2 ++ v, b, fun i => effective s b o 256 + BitVec.ofNat 64 (4 * i))
  | .vgath v b ix sc => some (0#2 ++ v, b, fun i =>
      s.ra b + BitVec.ofInt 64 ((laneAt s (0#2 ++ ix) i).toInt * (if sc = 0 then 1 else if sc = 1 then 4 else 256)))
  | _ => none

/-- Vector stores, likewise. -/
def vectorStore (i : Instr) (s : State) : Option (BitVec 8 × BitVec 5 × (Nat → Word)) :=
  match i with
  | .vst v b o => some (0#2 ++ v, b, fun i => effective s b o 256 + BitVec.ofNat 64 (4 * i))
  | .vstc v b o => some (1#2 ++ v, b, fun i => effective s b o 256 + BitVec.ofNat 64 (4 * i))
  | .vscat v b ix sc => some (0#2 ++ v, b, fun i =>
      s.ra b + BitVec.ofInt 64 ((laneAt s (0#2 ++ ix) i).toInt * (if sc = 0 then 1 else if sc = 1 then 4 else 256)))
  | _ => none

/-- The elements of a transfer: enabled, below Lanes(), held by the view, each with its address (R177). -/
def elements (s : State) (view : BitVec 8) (addr : Nat → Word) : List (Nat × Word) :=
  ((List.range 64).filter (fun i => (s.iss.mask s.iss.slot).getLsbD i && decide (i < s.lanes) &&
    (viewKey s.cx.t.vb s.cur.ctx view i).isSome)).map (fun i => (i, addr i))

/-- The memory instructions of the L slot: access, size, whether it is scalar, alignment, base and elements. -/
def memoryForm (i : Instr) (s : State) : Option (Acc × Nat × Bool × Nat × BitVec 5 × List (Nat × Word)) :=
  match loadForm i, storeForm i, vectorLoad i s, vectorStore i s with
  | some (_, n, _, b, o), _, _, _ => some (.rd, n, true, n, b, [(0, effective s b o n)])
  | _, some (n, _, b, o), _, _ => some (.wr, n, true, n, b, [(0, effective s b o n)])
  | _, _, some (v, b, f), _ => some (.rd, 4, false, 4, b, elements s v f)
  | _, _, _, some (v, b, f) => some (.wr, 4, false, 4, b, elements s v f)
  | _, _, _, _ => match i with
    | .hld _ b o => some (.rd, 64, false, 64, b, [(0, effective s b o 64)])
    | .hst _ b o => some (.wr, 64, false, 64, b, [(0, effective s b o 64)])
    | _ => none

/-- The word of a shape, and the lowest bit and the width of the field that a code of `hset` names (R186). -/
def shapeField (f : Nat) : Option (Nat × Nat × Nat) :=
  if f = 0x00 then some (0, 0, 56) else if f = 0x01 then some (0, 56, 1) else if f = 0x02 then some (0, 57, 1) else if f = 0x03 then some (0, 58, 1)
  else if f = 0x04 then some (1, 32, 32) else if f = 0x05 then some (1, 5, 3) else if f = 0x06 then some (1, 0, 5)
  else if 0x08 ≤ f ∧ f ≤ 0x0F then some (2 + (f - 8) / 2, 32 * (f % 2), 32) else if 0x10 ≤ f ∧ f ≤ 0x13 then some (6, 16 * (f - 0x10), 16)
  else if f = 0x14 then some (7, 0, 32) else if 0x18 ≤ f ∧ f ≤ 0x1F then some (f - 0x18, 0, 64) else none

/-- A port that W and an index name: read ports stand at 0 to 7, write ports at 8 to 11. -/
def portNamed (w : Bool) (p : BitVec 3) : Nat := p.toNat + if w then 8 else 0

/-- Only one port of the context in issue may change. -/
def OnlyPort (s t : State) (n : Nat) : Prop :=
  KeepsAllButRegs s t ∧ t.iss = s.iss ∧ t.cx.r = { s.cx.r with ports := t.cx.r.ports } ∧ ∀ m, m ≠ n → t.cx.r.port m = s.cx.r.port m

/-! ## The X slot (R191 to R214) -/

/-- The card forms: kind, source, destination and index shape, fill pattern, counter, completion word, KEN, OUT, ORD (R191, R195 to R197). -/
def cardForm (i : Instr) (s : State) : Option (CardOp × Shape × Shape × Shape × Word × BitVec 5 × BitVec 5 × Bool × Bool × Bool) :=
  let h (n : BitVec 4) : Shape := s.iss.sync.rh n.toNat
  match i with
  | .xcopy a d k g ken out ord => some (.copy, h a, h d, {}, 0, k, g, ken, out, ord)
  | .xgath a d k g ken out ord => some (.gath, h a, h d, h (a + 1), 0, k, g, ken, out, ord)
  | .xscat a d k g ken out ord => some (.scat, h a, h d, h (d + 1), 0, k, g, ken, out, ord)
  | .xfill d k g ken out ord lit => some (.fill, {}, h d, {}, if lit then s.iss.lit.signExtend 64 else 0, k, g, ken, out, ord)
  | _ => none

/-- The card that such a form issues (R193, R198, R335). -/
def cardOf (s : State) (op : CardOp) (src dst idx : Shape) (fill : Word) (k g : BitVec 5) (ken out ord : Bool) : Card :=
  { id := s.co.cardNo, ctx := s.cur.ctx, tid := s.cx.t.trc.tid, job := s.cx.r.jobId.toNat % 1024, asid := s.cx.y.asid.toNat % 512, ptroot := s.cx.y.ptroot,
    splo := s.cx.y.splo, sphi := s.cx.y.sphi, slim := s.cx.r.slim, taskLevel := s.cx.y.level == 0, op := op, src := src, dst := dst, idx := idx,
    fill := fill, ken := ken, out := out, ord := ord, k := k.toNat, cw := if g = 0 then none else some (s.rs g), ticket := s.cx.ticket }

/-- The counter instructions: the counter and its new value (R204). What completions have added in the cycle comes after a written value (R50). -/
def counterForm (i : Instr) (s : State) : Option (BitVec 5 × BitVec 32) :=
  let v (g : BitVec 5) (lit : Bool) : BitVec 32 := if lit then s.iss.lit else (s.rs g).setWidth 32
  match i with
  | .kinc k g lit => some (k, s.cx.r.rk k.toNat + v g lit)
  | .kset k g lit => some (k, v g lit + s.cycleAdds k.toNat)
  | _ => none

/-- The counter waits and `xsync`: whether the condition stands, which a wait for a counter sees at the end of a cycle (R202, R204, R206), and which
jobs it observes (R201). -/
def waitForm (i : Instr) (s : State) : Option (Prop × (Nat → Prop)) :=
  let v (g : BitVec 5) (lit : Bool) : BitVec 32 := if lit then s.iss.lit else (s.rs g).setWidth 32
  let settled : Prop := (s.die (coreDie s.cur.core)).kdirty = false
  match i with
  | .kwaitLt k g lit => some (settled ∧ (s.cx.r.rk k.toNat).toInt < (v g lit).toInt, fun n => n = k.toNat)
  | .kwaitGe k g lit => some (settled ∧ (v g lit).toInt ≤ (s.cx.r.rk k.toNat).toInt, fun n => n = k.toNat)
  | .xsync => some (∀ c ∈ s.co.cards, ¬ (c.ctx = s.cur.ctx ∧ c.tid = s.cx.t.trc.tid ∧ c.job = s.cx.r.jobId.toNat % 1024), fun _ => True)
  | _ => none

/-- Of the context in issue only the counters may change, and of these only `k`; memory stands. -/
def OnlyCounter (s t : State) (k : BitVec 5) : Prop :=
  t.cx = { s.cx with r := { s.cx.r with k := t.cx.r.k } } ∧ (∀ n, n ≠ k.toNat → t.cx.r.rk n = s.cx.r.rk n) ∧ t.iss = s.iss ∧ ∀ a, t.byte a = s.byte a

/-- It is the turn of a table instruction (R214): no table instruction of a higher core or context has taken this cycle, and no record that comes after an
arrival count has entered a sub-queue of its job in it (R28). -/
def InTurn (s : State) : Prop :=
  ∀ p, (s.die (coreDie s.cur.core)).progOf (s.cx.r.jobId.toNat % 1024) = some p → (∀ u, p.touched = some u → u.1 = s.cycle →
    u.2 ≤ s.cur.core % 128 * 2 + s.cur.ctx) ∧ (s.die (coreDie s.cur.core)).overtaken s.cycle (s.cx.r.jobId.toNat % 1024) = false

/-- The clusters in which the tables and the arrival counters of the program of the job in issue stand (R261, R403). -/
def tableClusters (s : State) : List Nat :=
  match (s.die (coreDie s.cur.core)).progOf (s.cx.r.jobId.toNat % 1024) with
  | some p => p.tableCls (coreDie s.cur.core) ++ (p.carr.filter carrV).map (fun w => coreDie s.cur.core * 8 + carrCl w)
  | none => []

/-- A data-cache line lies in the write footprint of a completed job that a wait observes (R201). -/
def InObserved (s : State) (obs : Nat → Prop) (l : Line) : Prop :=
  ∃ a ∈ l.tags, a.1 = s.cx.y.asid.toNat % 512 ∧ ∃ j ∈ s.cx.jobsDone, obs j.1 ∧ a.2 ≤ j.2.2 ∧ j.2.1 < a.2 + 64

/-- The entries of table T of the pipeline program of the job in issue. -/
def entriesOf (s : State) (tab : BitVec 6) : Option (List PEntry) :=
  ((s.die (coreDie s.cur.core)).progOf (s.cx.r.jobId.toNat % 1024)).map (fun g => (SMap.get {} g.tables tab.toNat).entries)
/-- A register of table T, or an arrival counter of the stage of T (R213). -/
def tableRegister (s : State) (tab : BitVec 6) (counter : Bool) (ix : Nat) : Option (BitVec 32) :=
  ((s.die (coreDie s.cur.core)).progOf (s.cx.r.jobId.toNat % 1024)).map (fun g =>
    if counter then SMap.get 0 g.cnt (tab.toNat / 4 * 65536 + ix) else SMap.get 0 (SMap.get {} g.tables tab.toNat).regs ix)

/-- The `mtreg` forms: counter, request, table, TGT, and the new value from the old one, the operand and the compare value (R213). -/
def registerForm (i : Instr) : Option (BitVec 5 × BitVec 5 × BitVec 6 × Bool × Bool × (BitVec 32 → BitVec 32 → BitVec 32 → BitVec 32)) :=
  match i with
  | .mtregAdd k g t c => some (k, g, t, c, c, fun o v _ => o + v)
  | .mtregMax k g t c => some (k, g, t, c, false, fun o v _ => if o.toInt < v.toInt then v else o)
  | .mtregMin k g t c => some (k, g, t, c, false, fun o v _ => if v.toInt < o.toInt then v else o)
  | .mtregCas k g t c => some (k, g, t, c, false, fun o v c => if o = c then v else o)
  | .mtregRead k g t c => some (k, g, t, c, false, fun o _ _ => o)
  | _ => none

/-! ## The Y slot (R215 to R235) -/

/-- The operation of an atomic on unsigned numbers of w bits, signed for `min` and `max` without `.z` (R105, R220). -/
def atomicNew (op : AmoOp) (w : Nat) (signed : Bool) (old v c : Nat) : Nat :=
  let n (x : Nat) : Int := if signed then (BitVec.ofNat w x).toInt else x
  match op with
  | .add => (old + v) % 2 ^ w
  | .min => if n v < n old then v else old
  | .max => if n old < n v then v else old
  | .and => old &&& v
  | .or => old ||| v
  | .xor => old ^^^ v
  | .swap => v
  | .cas => if old = c then v else old

/-- The scalar atomics: operation, address, value and compare register, scope, 64 bits, signed, release, acquire (R220). -/
def atomicForm (i : Instr) : Option (AmoOp × BitVec 5 × BitVec 5 × BitVec 5 × BitVec 3 × Bool × Bool × Bool × Bool) :=
  match i with
  | .amoAdd a v sc dw r q => some (.add, a, v, 0, sc, dw, false, r, q)
  | .amoMin a v sc dw z r q => some (.min, a, v, 0, sc, dw, !z, r, q)
  | .amoMax a v sc dw z r q => some (.max, a, v, 0, sc, dw, !z, r, q)
  | .amoAnd a v sc dw r q => some (.and, a, v, 0, sc, dw, false, r, q)
  | .amoOr a v sc dw r q => some (.or, a, v, 0, sc, dw, false, r, q)
  | .amoXor a v sc dw r q => some (.xor, a, v, 0, sc, dw, false, r, q)
  | .amoSwap a v sc dw r q => some (.swap, a, v, 0, sc, dw, false, r, q)
  | .amoCas a v c sc dw r q => some (.cas, a, v, c, sc, dw, false, r, q)
  | _ => none

/-- The vector atomics: operation, base, row, signed, release, acquire, indexed (R222). -/
def vectorAtomic (i : Instr) : Option (AmoOp × BitVec 5 × BitVec 6 × BitVec 3 × Bool × Bool × Bool × Bool) :=
  match i with
  | .vamoAdd a v sc r q x => some (.add, a, v, sc, false, r, q, x)
  | .vamoMin a v sc z r q x => some (.min, a, v, sc, !z, r, q, x)
  | .vamoMax a v sc z r q x => some (.max, a, v, sc, !z, r, q, x)
  | .vamoAnd a v sc r q x => some (.and, a, v, sc, false, r, q, x)
  | .vamoOr a v sc r q x => some (.or, a, v, sc, false, r, q, x)
  | .vamoXor a v sc r q x => some (.xor, a, v, sc, false, r, q, x)
  | .vamoSwap a v sc r q x => some (.swap, a, v, sc, false, r, q, x)
  | .vamoCas a v sc r q x => some (.cas, a, v, sc, false, r, q, x)
  | _ => none

/-- A read-modify-write of n bytes at a home that no write on its way touches (R220, R248). -/
def NothingInFlight (s : State) (a n : Nat) : Prop :=
  (∀ c, ∀ w ∈ (s.cluster c).buffer, ¬ (a < w.loc + w.bytes.length ∧ w.loc < a + n)) ∧
  ∀ d, ∀ w ∈ (s.die d).station, ¬ (a < w.loc + w.bytes.length ∧ w.loc < a + n)

/-- A write to a remote window is one that a release at a scope awaits (R239, R251): at die scope one whose target is the die itself. -/
def Awaited (s : State) (scope loc : Nat) : Prop := isRemote loc = true ∧ (3 ≤ scope ∨ scope = 2 ∧ (remParts loc).1 = coreDie s.cur.core)

/-- A release at a scope of the lines that `wb` names has nothing to wait for (R243, R251): no remote write of the core that it awaits is dirty in
those lines, buffered or unanswered. -/
def Acked (s : State) (scope : Nat) (wb : Line → Bool) : Prop :=
  (∀ l ∈ s.co.dcache, wb l = true → ∀ i, i < 64 → l.dirty.getLsbD i = true → ¬ Awaited s scope (l.loc + i)) ∧
  (∀ w ∈ (s.cluster (coreCluster s.cur.core)).buffer, w.core = s.cur.core → ¬ Awaited s scope w.loc) ∧
  (∀ w ∈ (s.die (coreDie s.cur.core)).station, w.core = s.cur.core → ¬ Awaited s scope w.loc) ∧
  ∀ r ∈ (s.die (coreDie s.cur.core)).window, r.origin.1 = 2 → r.origin.2.1 = s.cur.core → ¬ (3 ≤ scope ∨ scope = 2 ∧ r.pkt.dst = coreDie s.cur.core)

/-- The data cache of the core in issue has nothing to write back. -/
def Released (s : State) : Prop := ∀ l ∈ s.co.dcache, l.dirty = 0
/-- No write of the core in issue waits in the buffer of its cluster or the station of its die (R237). -/
def Drained (s : State) : Prop :=
  (∀ w ∈ (s.cluster (coreCluster s.cur.core)).buffer, w.core ≠ s.cur.core) ∧ ∀ w ∈ (s.die (coreDie s.cur.core)).station, w.core ≠ s.cur.core

/-- A row as latched for the Y slot, lane by lane (R318). -/
def rowLatched (s : State) (n i : Nat) : Lane := (rowOf s.iss.syncV s.cx.t.vb s.cur.ctx (n % 64)).getD i 0

/-- Packets with a die's arrival numbers from `a` on (R355). -/
def numbered (a : Nat) (ps : List Packet) : List Packet := ((range a ps.length).zip ps).map (fun e => { e.2 with aseq := e.1 })

/-- A die has made a packet (R256, R355, R389): it stands there with the station by which it leaves, a multicast one as its copies, each with the next of the
die's arrival numbers. -/
def Made (s t : State) (die : Nat) (p : Packet) : Prop :=
  let ps := if p.op = 6 then s.stand die 8 (s.aimed p) else [{ p with at_ := die, ing := 8, out := s.onward die 8 p.dst }]
  t.net = s.net ++ numbered (s.die die).aseq ps ∧ (t.die die).aseq = (s.die die).aseq + ps.length

/-- The Drift instructions: kind (0 copy, 1 take, 2 deposit), park, region address, row, status and mode register, scope (R233, R234). -/
def driftForm (i : Instr) : Option (Nat × Bool × BitVec 5 × BitVec 6 × BitVec 5 × BitVec 3) :=
  match i with
  | .tdep a v m sc => some (2, false, a, v, m, sc)
  | .tdepPark a v m sc => some (2, true, a, v, m, sc)
  | .tcopy a v m sc => some (0, false, a, v, m, sc)
  | .tcopyPark a v m sc => some (0, true, a, v, m, sc)
  | .ttake a v m sc => some (1, false, a, v, m, sc)
  | .ttakePark a v m sc => some (1, true, a, v, m, sc)
  | _ => none

/-- The member of a handle of the core in issue, where the handle is good and its mode is one of those named (R51, R229). -/
def MemberOf (s : State) (b : BitVec 6) (modes : List Nat) (f : Phaser) (m : Member) : Prop :=
  let h := SMap.get 0 s.co.handles b.toNat
  h.getLsbD 63 = true ∧ h.toNat / 2 ^ 48 % 1024 = s.cx.r.jobId.toNat % 1024 ∧ h.toNat / 2 ^ 58 % 4 ∈ modes ∧
  s.phaser (h.toNat % 2 ^ 48) = some f ∧ f.members.find? (fun m => m.core == s.cur.core && m.h == b.toNat) = some m

/-- A phase has reached a target: their difference of 16 bits, as a signed number, is not negative (R227). -/
def reached (p t : BitVec 16) : Prop := 0 ≤ (p - t).toInt

/-- A phaser after its members have changed (R227): its phase advances once there is a signalling member and each has signalled it, and every wait whose
target is reached is satisfied. -/
def withMembers (f : Phaser) (ms : List Member) : Phaser :=
  let sig := ms.filter (fun m => m.mode == 0 || m.mode == 2)
  let p := if sig ≠ [] ∧ ∀ m ∈ sig, m.m = f.p + 1 then f.p + 1 else f.p
  { f with members := ms, p := p, waits := f.waits.map (fun w => if 0 ≤ (p - w.target).toInt then { w with met := true } else w) }

/-- A phaser after one of its members signals (R227, R229). -/
def signalled (f : Phaser) (core : Nat) (b : BitVec 6) : Phaser :=
  withMembers f (f.members.map (fun m => if m.core == core && m.h == b.toNat then { m with m := m.m + 1 } else m))

/-- A phaser stands at the die of the core in issue, and no context of another die waits there (R218). -/
def Here (s : State) (f : Phaser) : Prop := objDie f.obj = coreDie s.cur.core ∧ ∀ w ∈ f.waits, w.fseq = none

/-- What an instruction asks the sync engine of a phaser on another die (R218, R227 to R231; log 26): operation, mode, stage, handle, name, target. -/
def farAsks (i : Instr) (s : State) : Option (Nat × Nat × Nat × BitVec 6 × Word × BitVec 16) :=
  let h (b : BitVec 6) : Word := SMap.get 0 s.co.handles b.toNat
  match i with
  | .preg p b m => some (1, m.toNat, 2, b, s.rs p, 0)
  | .pdrop b => some (2, 0, 2, b, h b, 0)
  | .pqueryPhase _ b | .psig b => some (3, 0, 1, b, h b, 0)
  | .pwait g b => some (5, 0, 3, b, h b, (s.rs g).setWidth 16)
  | .psw b => some (match s.iss.target with | none => (3, 0, 1, b, h b, 0) | some t => (5, 0, 3, b, h b, t))
  | _ => none

/-- The name that an instruction gives its phaser is good (R51, R228, R229), and the phaser stands on another die. -/
def FarGood (s : State) (i : Instr) (b : BitVec 6) (nm : Word) : Prop :=
  let mode := nm.toNat / 2 ^ 58 % 4
  objDie (nm.toNat % 2 ^ 48) ≠ coreDie s.cur.core ∧ nm.toNat / 2 ^ 48 % 1024 = s.cx.r.jobId.toNat % 1024 ∧
  match i with
  | .preg _ _ _ => (SMap.get 0 s.co.handles b.toNat).getLsbD 63 = false ∧ nm.getLsbD 63 = false ∧ mode = 0 ∧ nm.toNat / 2 ^ 60 % 8 ≤ 4
  | .psig _ => nm.getLsbD 63 = true ∧ (mode = 0 ∨ mode = 2)
  | .pwait _ _ => nm.getLsbD 63 = true ∧ (mode = 1 ∨ mode = 2)
  | .psw _ => nm.getLsbD 63 = true ∧ mode = 2
  | _ => nm.getLsbD 63 = true ∧ mode ≠ 3

/-- The Y slot has sent a request to the engine of a phaser on another die and waits for its answer; in the last stage it waits attached (R218; log 26). -/
def SentFar (s t : State) (op mode stage : Nat) (b : BitVec 6) (nm : Word) (target : BitVec 16) : Prop :=
  let die := coreDie s.cur.core
  let obj := nm.toNat % 2 ^ 48
  let n := SMap.get 0 (s.die die).seqOut (objDie obj * 8 + 6)
  Made s t die { syncAsk op mode b s.cur.core s.cur.ctx (nm.toNat / 2 ^ 60 % 8) target obj (s.cx.r.jobId.toNat % 1024) s.cx.t.trc.tid with seq := n, src := die } ∧
  t.cx = s.cx ∧ t.co.handles = s.co.handles ∧
  t.iss = { s.iss with sy := stage, req := some (objDie obj, 6, n), resp := none, phase := if stage = 3 then some obj else none, att := stage == 3, wait := true,
                       target := t.iss.target }

/-- The first request of an instruction to a phaser of another die goes while its replay window has room, and is held while it has none (R390). -/
def AsksFar (s : State) (i : Instr) : Prop :=
  ∀ op mode stage b nm target, farAsks i s = some (op, mode, stage, b, nm, target) → FarGood s i b nm → s.iss.resp = none → s.iss.sy = 0 → s.iss.phase = none →
    ((s.die (coreDie s.cur.core)).window.length < 256 → ∃ t, exec i s = .next t ∧ SentFar s t op mode stage b nm target ∧ ∀ a, t.byte a = s.byte a) ∧
    (256 ≤ (s.die (coreDie s.cur.core)).window.length → exec i s = .next { s with iss := { s.iss with wait := true } })

/-- The answer that ends an instruction at a phaser of another die has come: nothing of its requests stays in the latches. -/
def EndsFar (s t : State) : Prop := t.iss = { s.iss with sy := 0, req := none, resp := none, phase := none }

/-- The bundle waits attached at a phaser for a target (R217, R227). -/
def WaitsFor (s t : State) (f : Phaser) (target : BitVec 16) : Prop :=
  t.phaser f.obj = some { f with waits := f.waits ++ [{ core := s.cur.core, ctx := s.cur.ctx, target := target }] } ∧
  t.iss.wait = true ∧ t.iss.att = true ∧ t.iss.phase = some f.obj

/-! ## Events -/

/-- Only one die changes. -/
def OnlyDie (die : Nat) (s t : State) : Prop := t = { s with dies := t.dies } ∧ ∀ d, d ≠ die → t.die d = s.die d
/-- Only one core and one die change. -/
def OnlyCoreAndDie (core die : Nat) (s t : State) : Prop :=
  t = { s with cores := t.cores, dies := t.dies } ∧ (∀ d, d ≠ die → t.die d = s.die d) ∧ ∀ c, c ≠ core → t.core c = s.core c
/-- Only one module's registers change. -/
def OnlyMd (md : Nat) (s t : State) : Prop := t = { s with mds := t.mds } ∧ ∀ d, d ≠ md → t.md d = s.md d

/-- A user queue of a die. -/
def queueOf (s : State) (die q : Nat) : UserQ := SMap.get {} (s.die die).users q
/-- UQ_STATUS with these halts (R29): RUN while the indices differ and nothing halts the queue. -/
def statusWith (halts ridx widx : Word) : Word := if halts = 0 ∧ ridx < widx then 1 else halts
/-- Only this queue of this die changes. -/
def OnlyQueue (die q : Nat) (s t : State) : Prop :=
  OnlyDie die s t ∧ t.die die = { s.die die with users := (t.die die).users } ∧ ∀ n, n ≠ q → queueOf t die n = queueOf s die n

/-- The address of the packet in front of a queue (R29). -/
def frontVa (u : UserQ) : Nat := u.base.toNat + u.ridx.toNat % Max.max 1 u.size.toNat * 64

/-- No write to n bytes waits in the station of a die (R237). -/
def StationClear (s : State) (die a n : Nat) : Prop := ∀ w ∈ (s.die die).station, ¬ (a < w.loc + w.bytes.length ∧ w.loc < a + n)

/-- A user queue whose last halt bit is cleared by a write reads the packet in front of it afresh (R29). -/
def afresh (u : UserQ) : UserQ :=
  { u with got := none, req := none, refused := false, live := u.live.map (fun l => if l.consumed then l else { l with stale := true }) }

/-- The packet processor of a running queue has a well-formed packet of 64 bytes in front of it, read already or in its module's memory, not begun, that waits for nothing (R30, R31). -/
def PacketReady (s : State) (die q : Nat) (ws : List Word) : Prop :=
  let u := queueOf s die q
  u.status &&& 0xE = 0 ∧ u.ridx < u.widx ∧ (s.die die).halted u.job = false ∧ ws.length = 8 ∧
  (∀ l ∈ u.live, l.idx = u.ridx.toNat → l.consumed = true ∨ l.gone = true) ∧
  ((∃ bs, u.got = some bs ∧ ws = wordsOf 8 bs) ∨
    (u.got = none ∧ u.refused = false ∧ u.req = none ∧ ∃ x, s.unitXl (u.xc die) (frontVa u) .rd = some x ∧ x.rc ≠ .remote ∧ ws = wordsOf 8 (s.dieBytes die x.loc 64))) ∧
  packetBad (s.die die) u.job ws = false ∧ ((wd ws 0).getLsbD 8 = true → ∀ l ∈ u.live, l.gone = true ∨ l.idx < u.ridx.toNat → l.tasks ≤ l.done) ∧ (wd ws 0).getLsbD 9 = false

/-- A context has taken a record from the head of a sub-queue (R37 to R39): the record is gone from the queue, the stage's Starve count is zero, the
context is granted, or reserves its core for a 64-register task until the other context ends. Nothing else changes but the die's books. -/
def Granted (s t : State) (p : Place) (part : Nat) (q : SubQ) (r : TaskRec) (rest : List TaskRec) (st : Stage) : Prop :=
  OnlyCoreAndDie p.core (coreDie p.core) s t ∧ t.core p.core = (s.core p.core).setCtx p.ctx (t.ctxAt p) ∧
  ((t.die (coreDie p.core)).subq q.job q.flow q.stg q.cl).recs = rest ∧ ((t.die (coreDie p.core)).stageOf q.job q.flow q.stg).map (·.starve) = some 0 ∧
  t.ctxAt p = { s.ctxAt p with t := (t.ctxAt p).t, held := none, bfaults := [], pend := [],
                               run := if st.vb = true ∧ ((s.core p.core).ctx (1 - p.ctx)).run ≠ .free then .reserving else .granted } ∧
  (t.ctxAt p).t.trc = r ∧ (t.ctxAt p).t.job = q.job ∧ (t.ctxAt p).t.flow = q.flow ∧ (t.ctxAt p).t.stg = q.stg ∧ (t.ctxAt p).t.vb = st.vb ∧ (t.ctxAt p).t.part = part

/-- A record that a grant may take at once, with its stage: no resume record, no supervisor record, nothing of its sub-queue spilled. -/
def Grantable (s : State) (die : Nat) (q : SubQ) (r : TaskRec) (rest : List TaskRec) (st : Stage) : Prop :=
  q.recs = r :: rest ∧ (s.die die).stageOf q.job q.flow q.stg = some st ∧ r.resume = none ∧ r.sup = false ∧ (s.die die).spilled q.job q.flow q.stg q.cl = false

/-- The first record of a list that passes a test, with those before and after it. -/
def FirstOf {α : Type} (f : α → Bool) (l pre : List α) (x : α) (post : List α) : Prop := l = pre ++ x :: post ∧ (∀ y ∈ pre, f y = false) ∧ f x = true

/-! ## Sealed memory -/

/-- What a change of keys, of the seal map or of the windows leaves (R368, R369; log 7): a unit of a granule or a window whose key has changed reads as its
ciphertext under the new key, one that nothing has written too; any other reads as before. -/
def Resealed (s t : State) : Prop :=
  (∀ a, 2 ^ 62 ≤ a → t.byte a = s.byte a) ∧
  ∀ u, u < 2 ^ 62 → (sealUnit u).1 = u →
    let n := (sealUnit u).2.1
    (u ∉ t.rekeyed s → t.bytesAt u n = s.bytesAt u n) ∧
    (u ∈ t.rekeyed s → t.bytesAt u n = recode (s.keyAt u) (t.keyAt u) u (s.bytesAt u n))

/-- The wake bound of a cluster's power state in ns, but for P3 (R402). -/
def wakeBound (c : Cluster) : Nat := match c.power with | .p0 => 0 | .p1 => 100 | .p2 => 1500 + 800 * c.size

/-- LATTOL of a module takes a value (R399): a cluster whose bound exceeds it begins to wake, one whose bound does not stands (R402). -/
def Tolerates (s t : State) (md : Nat) (v : Word) : Prop :=
  t.md md = { s.md md with lattol := v } ∧ (∀ m, m ≠ md → t.md m = s.md m) ∧ t.cores = s.cores ∧ (∀ a, t.byte a = s.byte a) ∧
  ∀ die cl, die / 8 = md → cl < 8 →
    let c := s.cluster (die * 8 + cl)
    (v.toNat < wakeBound c → (t.cluster (die * 8 + cl)).waking = true) ∧
    (wakeBound c + (if (s.die die).p3 then 2000 else 0) ≤ v.toNat → t.cluster (die * 8 + cl) = c)

/-! ## Packets -/

/-- A reply of a die to a request (R383, R391). -/
def replyTo (die : Nat) (p : Packet) (op : Nat) (payload : List Byte) : Packet :=
  { op := op, job := p.job, offs := 0, steer := false, vc := 1, seq := p.seq, dst := p.source, src := die, rkey := 0, payload := payload, rvc := p.vc }
/-- A NACK with its reason (R383). -/
def nackTo (die : Nat) (p : Packet) (reason : Nat) : Packet := replyTo die p 0x12 (padTo 32 (bytesOf 4 (reason + p.seq * 256)))

/-- A packet is well formed, and the next one of its source and channel at a die that is open to its job and takes its packets (R353, R360, R383, R391); no
request of that channel has been passed over (log 89). -/
def Expected (s : State) (die : Nat) (p : Packet) : Prop :=
  (s.die die).closed.contains p.job = false ∧ (s.die die).deaf p.job = false ∧ p.bad = false ∧ s.offChannel p = false ∧
  p.seq = SMap.get 0 (s.die die).seqIn (p.source * 8 + p.vc) ∧ ∀ x ∈ (s.die die).skipped, x.key ≠ p.source * 8 + p.vc

/-- A packet has come to the die that it is for (R256). -/
def Come (die : Nat) (p : Packet) : Prop := p.at_ = die ∧ p.out = 8

/-- The first packet of a source on a channel that has come to a die is `p`; `pre` and `post` are what else the network holds. -/
def FirstIn (s : State) (op src dst vc : Nat) (pre : List Packet) (p : Packet) (post : List Packet) : Prop :=
  FirstOf (fun p => p.source == src && p.dst == dst && p.vc == vc && p.at_ == dst && p.out == 8) s.net pre p post ∧ p.op = op

/-- A die has made two packets, one after the other. -/
def MadeTwo (s t : State) (die : Nat) (p q : Packet) : Prop :=
  ∃ v : State, Made s v die p ∧ (∀ a b c, v.onward a b c = s.onward a b c) ∧ Made v t die q

/-- The next expected sequence number has moved on. -/
def Counted (t : State) (die : Nat) (p : Packet) : Prop :=
  SMap.get 0 (t.die die).seqIn (p.source * 8 + p.vc) = (p.seq + 1) % 4096

/-- No core, cluster or byte of memory changes. -/
def KeepsStore (s t : State) : Prop := t.cores = s.cores ∧ t.clusters = s.clusters ∧ ∀ a, t.byte a = s.byte a

/-- An entry of a die's replay window that a response answers, and no other of the same destination, channel and number (R390). -/
def Answers (s : State) (die : Nat) (p : Packet) (r : Replay) : Prop :=
  (s.die die).window.find? (fun e => e.pkt.dst == p.src && e.pkt.vc == p.rvc && e.pkt.seq == p.seq && e.pkt.job == p.job) = some r

/-- A request is no longer in its window. -/
def Freed (t : State) (die : Nat) (r : Replay) : Prop :=
  ∀ e ∈ (t.die die).window, ¬ (e.pkt.dst = r.pkt.dst ∧ e.pkt.vc = r.pkt.vc ∧ e.pkt.seq = r.pkt.seq ∧ e.pkt.job = r.pkt.job)

/-- A held bundle waits for the answer of a request. -/
def AwaitsOf (i : Iss) (r : Replay) : Prop := i.req = some (r.pkt.dst, r.pkt.vc, r.pkt.seq)

/-- The keys of a collection rise. -/
def Rising {α : Type} (m : SMap α) : Prop := (m.map (·.1)).Pairwise (· < ·)

/-- The trigger of a die whose action comes next (R206): of those that have fired, of jobs that are not stopped, the one that held first and then the one
armed first. -/
def ActsNext (s : State) (die : Nat) (pre : List Trigger) (g : Trigger) (post : List Trigger) : Prop :=
  let due (t : Trigger) : Prop := t.fired.isSome = true ∧ (s.die die).halted t.trc.job = false
  (s.die die).trigs = pre ++ g :: post ∧ due g ∧ (∀ t ∈ pre, due t → g.fired.getD 0 < t.fired.getD 0) ∧ ∀ t ∈ post, due t → g.fired.getD 0 ≤ t.fired.getD 0

/-- A packet stands last in the lane of its flow, where it has not been through any stage (R257). -/
def Entered (s t : State) (die : Nat) (p : Packet) : Prop :=
  let lane := laneOf p.job p.src p.ing p.vc
  ∃ x, (t.die die).laneQ lane = (s.die die).laneQ lane ++ [x] ∧ x.pkt = p ∧ x.pos = 0 ∧ x.phv = []

/-- A Drift reply packet of a slice to a die (R234). -/
def DriftReplyTo (die : Nat) (p : Packet) : Prop := p.op = 8 ∧ driftAsks p = false ∧ p.dst = die

/-- A packet has come to its die, first of its channel, and no other that meets the test has. -/
def OnlyOne (s : State) (die : Nat) (f : Packet → Prop) (pre : List Packet) (p : Packet) (post : List Packet) : Prop :=
  s.net = pre ++ p :: post ∧ Come die p ∧ p.dst = die ∧ p.vc = 6 ∧ f p ∧ (∀ q ∈ pre ++ post, Come die q → ¬ f q) ∧
  ∀ q ∈ pre, ¬ (q.source = p.source ∧ q.dst = p.dst ∧ q.vc = p.vc)

/-- The packet of an Ethernet frame is one that an Ethernet station of the domain holds, one of an egress queue, or one from outside; `u` is the state without
it (R255, R395; log 22). -/
def ComesOffTheWire (s u : State) (w p : Packet) : Prop :=
  let there (q : Packet) : Bool := decide (4 ≤ q.out) && decide (q.out < 8) && q.bytes == w.bytes
  let queued (e : Packet × Nat) : Bool := e.1.bytes == w.bytes
  (∃ pre post, FirstOf there s.net pre p post ∧ u = { s with net := pre ++ post }) ∨
  ((∀ q ∈ s.net, there q = false) ∧ (∀ d ∈ s.dies, ∀ e ∈ d.2.egress, queued e = false) ∧ p = w ∧ u = s) ∨
  ((∀ q ∈ s.net, there q = false) ∧ ∃ k d before after pre sub post, FirstOf (fun d : Nat × Die => d.2.egress.any queued) s.dies before (k, d) after ∧
    d = s.die k ∧ FirstOf queued d.egress pre (p, sub) post ∧ u = s.modDie k (fun d => { d with egress := pre ++ post }))

/-! ## Writes on their way -/

/-- The writes that a line's dirty bytes make: each dirty byte stands in one of them, those next to one another in an aligned unit of eight in the
same, and nothing else does. -/
def WritesOfLine (l : Line) (core : Nat) (ws : List BufW) : Prop :=
  (∀ w ∈ ws, w.core = core ∧ w.job = l.job ∧ w.bytes ≠ [] ∧ w.loc / 8 = (w.loc + w.bytes.length - 1) / 8 ∧ l.loc ≤ w.loc ∧ w.loc < l.loc + 64) ∧
  (∀ i, i < 64 → (ws.filter (fun w => w.covers (l.loc + i))).map (fun w => w.bytes.getD (l.loc + i - w.loc) 0) =
    if l.dirty.getLsbD i then [l.bytes.getD i 0] else []) ∧
  ∀ i, i % 8 ≠ 7 → i < 63 → l.dirty.getLsbD i = true → l.dirty.getLsbD (i + 1) = true → ∃ w ∈ ws, w.covers (l.loc + i) = true ∧ w.covers (l.loc + i + 1) = true

/-- The bytes of a write stand at their homes, and no other byte has changed. -/
def WroteAt (s t : State) (w : BufW) : Prop :=
  t.bytesAt w.loc w.bytes.length = w.bytes ∧ ∀ a, ¬ (w.loc ≤ a ∧ a < w.loc + w.bytes.length) → t.byte a = s.byte a

/-- The location of the line that a request fetches. -/
def remLoc (r : Replay) : Nat := remKey r.pkt.dst r.pkt.rkey r.pkt.offs / 64 * 64

/-- A data cache takes the line that a request fetched (R172, R238 to R240): where it has no line there, and room, a new one; its bytes are those that came, but
where a buffer on the way holds a later write, and its dirty bytes stay. One asked for before an invalidation is not taken (R241, R246). -/
def FilledBy (s t : State) (core : Nat) (r : Replay) (bs : List Byte) : Prop :=
  (r.stale = true → (t.core core).dcache = (s.core core).dcache) ∧
  (r.stale = false → s.lineAt core (remLoc r) = none → (s.core core).dcache.length < 2048 →
    ∃ l, (t.core core).dcache = l :: (s.core core).dcache ∧ l.loc = remLoc r ∧ l.tags = [r.tag] ∧ l.job = r.pkt.job ∧ l.dirty = 0 ∧ l.valid = BitVec.allOnes 64 ∧
      ∀ i, i < 64 → l.bytes.getD i 0 = (s.buffered core (l.loc + i)).getD (bs.getD i 0)) ∧
  (r.stale = false → s.lineAt core (remLoc r) ≠ none → ∃ f : Line → Line, (t.core core).dcache = (s.core core).dcache.map f ∧
    (∀ l, l.loc ≠ remLoc r → f l = l) ∧
    ∀ l, l.loc = remLoc r → l.bytes.length = 64 → (f l).tags = l.tags ∧ (f l).dirty = l.dirty ∧ (f l).valid = l.valid ||| ~~~l.dirty ∧
      ∀ i, i < 64 → (f l).bytes.getD i 0 = if l.dirty.getLsbD i then l.bytes.getD i 0 else (s.buffered core (l.loc + i)).getD (bs.getD i 0))

/-- A GANG packet of a switch that a die has sent to another (R352, R383; log 19). -/
def TokenOf (die dst kind : Nat) (w : Switch) (status : Nat) (p : Packet) : Prop :=
  p.op = 0x21 ∧ p.vc = 7 ∧ p.job = 0 ∧ p.src = die ∧ p.dst = dst ∧ p.at_ = die ∧ p.payload = (tokenPacket kind w.coord w.ctx status die dst w.desc).payload

/-- The packets of a frame leave those that wait at a die for a station, the first of each form (R384, R386); what is left. -/
def takenOff (die out : Nat) (ws net : List Packet) : List Packet × List Packet :=
  ws.foldl (fun (r : List Packet × List Packet) w =>
    let i := r.2.findIdx (fun p => p.at_ == die && p.out == out && p.wire == w.wire)
    match r.2[i]? with
    | some p => (r.1 ++ [p], r.2.eraseIdx i)
    | none => r) ([], net)

/-- The dirty bytes of the data caches of a cluster have gone into its buffer, in the order of its cores and their lines; the caches are empty, no byte at its home
and no poison has changed (R238, R404). -/
def CachesEmptied (s t : State) (die cl : Nat) : Prop :=
  let cores := (List.range 8).map (fun i => die * 128 + cl * 8 + i)
  let lines := cores.flatMap (fun k => (s.core k).dcache.map (fun l => (k, l)))
  (∃ ws : List (List BufW), List.Forall₂ (fun (e : Nat × Line) w => WritesOfLine e.2 e.1 w) lines ws ∧
    (t.cluster (die * 8 + cl)).buffer = (s.cluster (die * 8 + cl)).buffer ++ ws.flatten) ∧
  (∀ k ∈ cores, (t.core k).dcache = [] ∧ (t.core k).c0 = (s.core k).c0 ∧ (t.core k).c1 = (s.core k).c1 ∧ (t.core k).vfile = (s.core k).vfile) ∧
  (∀ k, k ∉ cores → t.core k = s.core k) ∧ (∀ a, t.byte a = s.byte a) ∧ t.poison = s.poison ∧ (∀ d, (t.die d).station = (s.die d).station)

end Sys2Proof.Claims

open Sys2Proof Sys2Proof.Machine Sys2Proof.Claims

/-! ## Registers and arithmetic -/

/-- R126, R127 and R48, R61, R62: an arithmetic form writes its exact result, limited where it is `.sat`, wrapped and extended, sets SAT and NV
as said and no other flag, and changes nothing else; where it would put a value below SLIM in g30 the form traps. -/
def Sys2Proof.Claims.ScalarArithmeticWritesItsResult : Prop :=
  ∀ (s : State) (i : Instr) (d : BitVec 5) (w : BitVec 2) (sg sat : Bool) (r : Int) (nv : Bool),
    scalarExact i s = some (d, w, sg, sat, r, nv) →
    ¬ (d = 30 ∧ written w sg (if sat then limited w r else r) < s.cx.r.slim) →
    ∃ t, exec i s = .next t ∧ t.cx.r.rg d.toNat = gValue d (written w sg (if sat then limited w r else r)) ∧
      t.cx.r.aflags = s.cx.r.aflags ||| scalarFlags w sat r nv ∧ WritesG d s t

/-- R126, R128, R129 and R48, R62: `sel`, the immediate forms, `bext` and `bins` write their result and set no flag. -/
def Sys2Proof.Claims.ImmediateAndFieldFormsWriteTheirResult : Prop :=
  ∀ (s : State) (i : Instr) (d : BitVec 5) (v : Word), i.wf = true → scalarWord i s = some (d, v) → ¬ (d = 30 ∧ v < s.cx.r.slim) →
    ∃ t, exec i s = .next t ∧ t.cx.r.rg d.toNat = gValue d v ∧ t.cx.r.aflags = s.cx.r.aflags ∧ WritesG d s t

/-- R62: a scalar form that would write a value below SLIM to g30 takes a stack-limit fault; g30 and AFLAGS keep their values. -/
def Sys2Proof.Claims.StackPointerBelowItsLimitTraps : Prop :=
  ∀ (s : State) (i : Instr) (v : Word), TrapsHere s →
    ((∃ w sg sat r nv, scalarExact i s = some (30, w, sg, sat, r, nv) ∧ v = written w sg (if sat then limited w r else r)) ∨
      (i.wf = true ∧ scalarWord i s = some (30, v))) →
    v < s.cx.r.slim →
    ∃ t, exec i s = .next t ∧ t.cx.r.rg 30 = s.cx.r.rg 30 ∧ t.cx.r.aflags = s.cx.r.aflags ∧ t.iss.trapped = true ∧
      t.cx.y.level = 1 ∧ t.cx.r.pc = s.cx.y.tvec

/-- R48 and R49: g0 reads zero and p0 reads all ones in every state, whatever has been written; every other g register holds what was last
written to it. -/
def Obligations.HardwiredRegistersReadTheirConstants : Prop :=
  ∀ (s : State) (v : Word), (s.cx.r.setG 0 v).rg 0 = 0 ∧ s.cx.r.rg 0 = 0 ∧ (s.cx.r.setP 0 v).rp 0 = BitVec.allOnes 64 ∧
    s.cx.r.rp 0 = BitVec.allOnes 64 ∧ (∀ n, (s.cx.r.setG 0 v).rg n = s.cx.r.rg n) ∧ ∀ n, (s.cx.r.setP 0 v).rp n = s.cx.r.rp n ∧
    ∀ n, n ≠ 0 → n < 32 → (s.cx.r.setG n v).rg n = v ∧ ∀ m, m ≠ n → (s.cx.r.setG n v).rg m = s.cx.r.rg m

/-! ## Control flow -/

/-- R114, R117: a direct branch that is taken goes to its offset in words from the head of its bundle; one not taken leaves the pc at the
sequential successor, where it stands when the C slot acts. -/
def Sys2Proof.Claims.DirectBranchesGoWhereTheySay : Prop :=
  ∀ (s : State) (i : Instr) (c : Prop) (off : Int), branch i s = some (c, off) →
    ∃ t, exec i s = .next t ∧ (c → t.cx.r.pc = s.iss.baddr + BitVec.ofInt 64 (4 * off) ∧ t.iss.xfer = true) ∧ (¬ c → t = s) ∧ MovesPc s t

/-- R114, R118: `call` puts the address of the next bundle in g31 and goes to its target; `callr`, `jr` and `ret` go to a register's address
that R114 lets them reach, `callr` linking too; a target that R114 refuses takes its fault and links nothing. -/
def Sys2Proof.Claims.CallsLinkAndIndirectTransfersCheckTheirTarget : Prop :=
  (∀ (s : State) (w : BitVec 24), ∃ t, exec (.call w) s = .next t ∧ t.cx.r.rg 31 = nextBundle s ∧
    t.cx.r.pc = s.iss.baddr + BitVec.ofInt 64 (4 * w.toInt) ∧ MovesPcAndLink s t) ∧
  (∀ (s : State) (g : BitVec 5), s.targetBad s.cur (s.rs g) = none → ∃ t, exec (.callr g) s = .next t ∧ t.cx.r.rg 31 = nextBundle s ∧
    t.cx.r.pc = s.rs g ∧ MovesPcAndLink s t) ∧
  (∀ (s : State) (g : BitVec 5), s.targetBad s.cur (s.rs g) = none → ∃ t, exec (.jr g) s = .next t ∧ t.cx.r.pc = s.rs g ∧ MovesPc s t) ∧
  (∀ s : State, s.targetBad s.cur (s.rs 31) = none → ∃ t, exec .ret s = .next t ∧ t.cx.r.pc = s.rs 31 ∧ MovesPc s t) ∧
  (∀ (s : State) (g : BitVec 5) (c : Nat) (i : Instr), TrapsHere s → i ∈ [.callr g, .jr g] → s.targetBad s.cur (s.rs g) = some c → c / 256 ≠ 0x0F →
    ∃ t, exec i s = .next t ∧ t.iss.trapped = true ∧ t.cx.y.level = 1 ∧ t.cx.r.pc = s.cx.y.tvec ∧ t.cx.r.rg 31 = s.cx.r.rg 31)

/-- R109, R119: a loop form on a free counter with a nonzero count sets the counter and makes its frame active; with a count of zero it goes to the
bundle after the loop's last one, which faults if it is fetched outside that bundle's section, and changes no counter; on an active counter it
takes a loop-busy fault and starts no frame. -/
def Sys2Proof.Claims.LoopFormsSetTheirFrame : Prop :=
  ∀ (s : State) (i : Instr) (n : BitVec 2) (count : Nat) (e : Int) (cut : Bool), loopCount i s = some (n, count, e, cut) →
    let last := s.iss.baddr + BitVec.ofInt 64 (4 * e)
    (s.cx.r.looping n.toNat = false → count ≠ 0 → ∃ t, exec i s = .next t ∧ SMap.get 0 t.cx.r.lc n.toNat = count ∧
      t.cx.r.frames = { lc := n.toNat, start := nextBundle s, last := last } :: s.cx.r.frames ∧
      t.cx.r.aflags = s.cx.r.aflags ||| (if cut then 0x10 else 0) ∧ KeepsAllButRegs s t ∧ t.iss = s.iss ∧
      t.cx.r = { s.cx.r with lc := t.cx.r.lc, frames := t.cx.r.frames, aflags := t.cx.r.aflags } ∧
      ∀ m, m ≠ n.toNat → SMap.get 0 t.cx.r.lc m = SMap.get 0 s.cx.r.lc m) ∧
    (s.cx.r.looping n.toNat = false → count = 0 → ∃ t, exec i s = .next t ∧
      PassesBody s t last (successor last (s.headAt s.cur last)) ∧ t.iss = { s.iss with skip := true }) ∧
    (s.cx.r.looping n.toNat = true → TrapsHere s → ∃ t, exec i s = .next t ∧ t.iss.trapped = true ∧ t.cx.y.level = 1 ∧
      t.cx.r.pc = s.cx.y.tvec ∧ t.cx.r.frames = s.cx.r.frames)

/-- R121, R89: `lbrk` of a counter with no active frame changes nothing; else it ends the frame and those within it, clears their counters and
goes to the bundle after the loop. An empty bundle has no effect of its own. -/
def Sys2Proof.Claims.LoopBreakEndsItsFrames : Prop :=
  (∀ (s : State) (n : BitVec 2), s.cx.r.looping n.toNat = false → exec (.lbrk n) s = .next s) ∧
  (∀ (s : State) (n : BitVec 2) (inner rest : List Frame) (f : Frame), s.cx.r.frames = inner ++ f :: rest → f.lc = n.toNat →
    (∀ g ∈ inner, g.lc ≠ n.toNat) →
    ∃ t, exec (.lbrk n) s = .next t ∧ t.cx.r.frames = rest ∧ (∀ g ∈ f :: inner, SMap.get 0 t.cx.r.lc g.lc = 0) ∧
      (∀ m, (∀ g ∈ f :: inner, g.lc ≠ m) → SMap.get 0 t.cx.r.lc m = SMap.get 0 s.cx.r.lc m) ∧
      t.cx.r.pc = successor f.last (s.headAt s.cur f.last) ∧ t.cx.off = s.leaves s.cur f.last t.cx.r.pc ∧ t.iss.xfer = true ∧ KeepsMachine s t ∧ t.co = s.co.setCtx s.cur.ctx t.cx ∧
      t.cx = { s.cx with r := { s.cx.r with pc := t.cx.r.pc, lc := t.cx.r.lc, frames := t.cx.r.frames }, off := t.cx.off }) ∧
  ∀ (s : State) (pad lend stop : Bool), exec (.emptyBundle pad lend stop) s = .next s

/-- R120: at the end of a bundle marked LEND whose address is the last of an active frame the counter falls by one; while it is not zero the
pc returns to the frame's start, else the frame ends and the pc goes to the next bundle. -/
def Sys2Proof.Claims.LoopEndCountsDown : Prop :=
  ∀ (s : State) (inner rest : List Frame) (f : Frame), s.cx.r.frames = inner ++ f :: rest → f.last = s.iss.baddr →
    (∀ g ∈ inner, g.last ≠ s.iss.baddr) → 0 < SMap.get 0 s.cx.r.lc f.lc →
    SMap.get 0 s.loopEnd.cx.r.lc f.lc = SMap.get 0 s.cx.r.lc f.lc - 1 ∧
    (1 < SMap.get 0 s.cx.r.lc f.lc → s.loopEnd.cx.r.pc = f.start ∧ s.loopEnd.cx.r.frames = s.cx.r.frames) ∧
    (SMap.get 0 s.cx.r.lc f.lc = 1 → s.loopEnd.cx.r.pc = nextBundle s ∧ s.loopEnd.cx.r.frames = s.cx.r.frames.filter (fun g => g.lc != f.lc)) ∧
    KeepsMachine s s.loopEnd

/-! ## Vectors and predicates -/

/-- R58, R90, R132, R135 and R139 to R155: a lane-wise form puts its result in the enabled elements of its destination view and in no other lane
of the vector file, or lets a row of them wait for its write port; it ORs the flags of those elements into AFLAGS and changes nothing else.
The model's own choices in it: logs 14, 82. -/
def Obligations.LanewiseFormsWriteTheirEnabledElements : Prop :=
  ∀ (s : State) (i : Instr) (d : BitVec 8) (f : Nat → Lane × Flags), laneForm i s = some (d, f) →
    ∃ t, exec i s = .next t ∧ ViewWritten s t d (Enabled s) (fun i => (f i).1) ∧ t.cx.r.aflags = s.cx.r.aflags ||| laneFlags s f

/-- R49, R132, R143, R154: a comparison or predicate form writes the enabled bits of its predicate, keeps its other bits below Lanes() and clears
those beyond; p0 stays all ones; comparisons set NV as R143 says. -/
def Sys2Proof.Claims.PredicateFormsWriteTheirEnabledBits : Prop :=
  ∀ (s : State) (i : Instr) (d : BitVec 4) (v : Nat → Bool) (fl : Nat → Flags), predForm i s = some (d, v, fl) →
    ∃ t, exec i s = .next t ∧ (∀ k, (t.cx.r.rp d.toNat).getLsbD k = predBit s d v k) ∧ (∀ n, n ≠ d.toNat → t.cx.r.rp n = s.cx.r.rp n) ∧
      t.cx.r.aflags = s.cx.r.aflags ||| laneFlags s (fun i => (0, fl i)) ∧ KeepsAllButPredicates s t

/-- R155, R156: `vunpack.p` writes bit `m` of each element to the predicate of that number in its half, and `pcount` counts the enabled bits of a
predicate below Lanes(). -/
def Sys2Proof.Claims.UnpackAndCountPredicates : Prop :=
  (∀ (s : State) (hi : Bool) (a : BitVec 8), ∃ t, exec (.vunpackP hi a) s = .next t ∧
    (∀ m, m < 8 → ∀ k, (t.cx.r.rp (m + if hi then 8 else 0)).getLsbD k =
      predBit s (BitVec.ofNat 4 (m + if hi then 8 else 0)) (fun i => (laneAt s a i).getLsbD m) k) ∧
    (∀ n, n / 8 ≠ (if hi then 1 else 0) → t.cx.r.rp n = s.cx.r.rp n) ∧ t.cx.r.aflags = s.cx.r.aflags ∧ KeepsAllButPredicates s t) ∧
  ∀ (s : State) (d : BitVec 5) (a : BitVec 4),
    let n := ((List.range s.lanes).filter (fun i => (s.iss.lat.rp a.toNat).getLsbD i && (s.iss.mask s.iss.slot).getLsbD i)).length
    ¬ (d = 30 ∧ BitVec.ofNat 64 n < s.cx.r.slim) →
    ∃ t, exec (.pcount d a) s = .next t ∧ t.cx.r.rg d.toNat = gValue d (BitVec.ofNat 64 n) ∧ t.cx.r.aflags = s.cx.r.aflags ∧ WritesG d s t

/-- R79, R147, R148, R152: a reduction writes element 0 with the result of its tree; a scan writes each enabled element with the running sum of
the elements up to it; `vexpo` writes each enabled element with the scale byte of its block of 32. -/
def Sys2Proof.Claims.ReductionsScansAndExponents : Prop :=
  (∀ (s : State) (i : Instr) (d a : BitVec 8) (u : Lane) (op : Lane → Lane → Lane × Flags), reduction i = some (d, a, u, op) →
    let r := tree op (if s.cx.t.vb then 6 else 5) (entering s a u)
    ∃ t, exec i s = .next t ∧ ViewWritten s t d (· = 0) (fun _ => r.1) ∧ t.cx.r.aflags = s.cx.r.aflags ||| r.2) ∧
  (∀ (s : State) (ty : BitVec 2) (d a : BitVec 8),
    let u : Lane := if ty = 0 then 0x80000000 else 0
    let r := scanGo (redAdd ty) u (entering s a u)
    ∃ t, exec (.vscan ty d a) s = .next t ∧ ViewWritten s t d (Enabled s) (fun i => r.1.getD i 0) ∧ t.cx.r.aflags = s.cx.r.aflags ||| r.2) ∧
  ∀ (s : State) (i : Instr) (k : Int) (d a : BitVec 8), (i = .vexpoNt8 d a ∧ k = 4 ∨ i = .vexpoNt6 d a ∧ k = 2) →
    let blk (b : Nat) := blockScaleByte k (((List.range 32).map (32 * b + ·)).filter (fun i => decide (i < s.lanes) && (s.iss.mask s.iss.slot).getLsbD i)
      |>.map (fun i => fdec .f32 (laneAt s a i).toNat))
    ∃ t, exec i s = .next t ∧ ViewWritten s t d (Enabled s) (fun i => (blk (i / 32)).1) ∧
      t.cx.r.aflags = s.cx.r.aflags ||| laneFlags s (fun i => blk (i / 32))

/-- R146: `vlane` puts lane k of its view in gD where the guard enables element k, zero where k is beyond Lanes(); `vins` writes element k alone
with the low half of gA, under the guard's bit k. k is gB modulo 64. -/
def Sys2Proof.Claims.SingleLaneMoves : Prop :=
  (∀ (s : State) (d : BitVec 5) (a : BitVec 8) (b : BitVec 5),
    let k := (s.ra b).toNat % 64
    let v : Word := if k < s.lanes then (laneAt s a k).setWidth 64 else 0
    ((s.iss.mask s.iss.slot).getLsbD k = true → ¬ (d = 30 ∧ v < s.cx.r.slim) →
      ∃ t, exec (.vlane d a b) s = .next t ∧ t.cx.r.rg d.toNat = gValue d v ∧ t.cx.r.aflags = s.cx.r.aflags ∧ WritesG d s t) ∧
    ((s.iss.mask s.iss.slot).getLsbD k = false → exec (.vlane d a b) s = .next s)) ∧
  ∀ (s : State) (d : BitVec 8) (a b : BitVec 5),
    ∃ t, exec (.vins d a b) s = .next t ∧ ViewWritten s t d (fun i => i = (s.ra b).toNat % 64 ∧ Enabled s i) (fun _ => (s.ra a).setWidth 32) ∧
      t.cx.r.aflags = s.cx.r.aflags

/-! ## The array -/

/-- R161 to R170: an M-slot word whose rows lie in the window of its stage, whose rows of its port can be read and whose formats agree enters the
array queue behind what stands there, with the rows it takes; the registers, the accumulator and all else stand. -/
def Sys2Proof.Claims.ArrayInstructionsEnterTheQueue : Prop :=
  ∀ (s : State) (i : Instr) (win : Option (Nat × Nat)) (port : Option (BitVec 3 × Nat × Nat)) (ok : Bool)
    (op : List (List Byte × List Byte) → ArrOp), arrayForm i s = some (win, port, ok, op) →
    (∀ r, win = some r → InWindow s r) → (∀ p, port = some p → s.mrowsBad (s.iss.lat.port p.1.toNat) p.2.1 p.2.2 = none) → ok = true →
    s.co.queue.length < 4 →
    ∃ t, exec i s = .next t ∧ t.co = { s.co with queue := s.co.queue ++
        [⟨s.cur.ctx, op (match port with | some p => s.mrows p.1 p.2.1 p.2.2 | none => [])⟩] } ∧
      KeepsMachine s t ∧ t.iss = s.iss

/-- R24, R170: such a word that finds four entries in the queue does nothing but wait. -/
def Sys2Proof.Claims.ArrayInstructionsWaitForAFullQueue : Prop :=
  ∀ (s : State) (i : Instr) (win : Option (Nat × Nat)) (port : Option (BitVec 3 × Nat × Nat)) (ok : Bool)
    (op : List (List Byte × List Byte) → ArrOp), arrayForm i s = some (win, port, ok, op) →
    (∀ r, win = some r → InWindow s r) → (∀ p, port = some p → s.mrowsBad (s.iss.lat.port p.1.toNat) p.2.1 p.2.2 = none) → ok = true →
    4 ≤ s.co.queue.length → exec i s = .next { s with iss := { s.iss with wait := true } }

/-- R21, R163: rows outside the window of the stage, or a format that the active latch does not meet, stop the word with its fault: nothing
enters the queue. -/
def Sys2Proof.Claims.ArrayInstructionsCheckWindowAndFormat : Prop :=
  ∀ (s : State) (i : Instr) (win : Option (Nat × Nat)) (port : Option (BitVec 3 × Nat × Nat)) (ok : Bool)
    (op : List (List Byte × List Byte) → ArrOp), arrayForm i s = some (win, port, ok, op) → TrapsHere s →
    ((∃ r, win = some r ∧ ¬ InWindow s r) ∨ (∃ p, port = some p ∧ s.mrowsBad (s.iss.lat.port p.1.toNat) p.2.1 p.2.2 ≠ none) ∨
      (∃ p, port = some p) ∧ ok = false) →
    ∃ t, exec i s = .next t ∧ t.iss.trapped = true ∧ t.cx.y.level = 1 ∧ t.cx.r.pc = s.cx.y.tvec ∧ t.co.queue = s.co.queue

/-- R161, R165 to R169: ARRAY_DEQUEUE performs the head of a core's array queue and takes it out. `wload` fills its latch, `wswap` of a
64-register task exchanges the latches, `mrun` adds a pass for each row to its accumulator row, `accclr` clears rows; other rows, latches,
cores and memory stand. An empty queue does nothing. -/
def Sys2Proof.Claims.ArrayDequeuePerformsTheHead : Prop :=
  ∀ (s : State) (core : Nat),
    ((s.core core).queue = [] → exec (.arrayDequeue core) s = .next s) ∧
    ∀ (j : ArrJob) (rest : List ArrJob), (s.core core).queue = j :: rest →
      ∃ t, exec (.arrayDequeue core) s = .next t ∧ (t.core core).queue = rest ∧ (∀ a, t.byte a = s.byte a) ∧
        t = { s with cores := t.cores } ∧ (∀ k, k ≠ core → t.core k = s.core k) ∧ (t.core core).vfile = (s.core core).vfile ∧
        (∀ x, ((t.core core).ctx x).r = { ((s.core core).ctx x).r with aflags := ((t.core core).ctx x).r.aflags }) ∧
        (∀ l fmt rows, j.op = .wload l fmt rows → (t.core core).acc = (s.core core).acc ∧ (t.core core).active = (s.core core).active ∧
          ((t.core core).latch l).fmt = fmt ∧ ((t.core core).latch l).valid = true ∧ ((t.core core).latch l).cols.take rows.length = rows.take 64 ∧
          ((t.core core).latch l).cols.length = 64) ∧
        (∀ on, j.op = .wswap on → (t.core core).acc = (s.core core).acc ∧ (t.core core).active = (if on then !(s.core core).active else (s.core core).active) ∧
          (t.core core).latch0 = (s.core core).latch0 ∧ (t.core core).latch1 = (s.core core).latch1) ∧
        (∀ base count, j.op = .accclr base count → ∀ r n, n < 64 →
          (t.core core).accAt r n = if base ≤ r ∧ r < base + count then 0 else (s.core core).accAt r n) ∧
        ∀ kind fmt base l rows, j.op = .mrun kind fmt base l rows → ((s.core core).latch l).cols.length = 64 →
          (∀ r n, n < 64 → ¬ (base ≤ r ∧ r < base + rows.length) → (t.core core).accAt r n = (s.core core).accAt r n) ∧
          ∀ q n row col, rows[q]? = some row → ((s.core core).latch l).cols[n]? = some col →
            (t.core core).accAt (base + q) n = (accStep kind ((s.core core).accAt (base + q) n)
              (pass kind (decodeRow fmt row) (decodeRow ((s.core core).latch l).fmt col))).1

/-! ## Tasks -/

/-- R45, R123, R161, R207: `endt` performs the array's queue and frees the context, whose waits on addresses and at phasers go with it, where its counters need no detached set
or one is free; where they need one and none is free its bundle is held. -/
def Sys2Proof.Claims.EndingATaskFreesItsContext : Prop :=
  ∀ s : State,
    ((s.die (coreDie s.cur.core)).namesSet (.task (coreDie s.cur.core) s.cx.t.job s.cx.t.trc.tid) = false ∨ (∃ n, n < 32 ∧ s.setLive (coreDie s.cur.core) n = false) →
      ∃ t, exec .endt s = .next t ∧ t.cx.run = .free ∧ t.cx.held = none ∧ t.cx.pend = [] ∧ t.iss = { s.iss with ended := true } ∧
        t.co.queue = [] ∧ (∀ w ∈ t.watches, ¬ (w.core = s.cur.core ∧ w.ctx = s.cur.ctx)) ∧
        (∀ d, ∀ f ∈ (t.die d).phasers, ∀ w ∈ f.waits, ¬ (w.core = s.cur.core ∧ w.ctx = s.cur.ctx)) ∧
        (s.cx.bfaults = [] → ∀ a, t.byte a = s.byte a) ∧ (∀ k, k / 128 ≠ s.cur.core / 128 → t.core k = s.core k)) ∧
    ((s.die (coreDie s.cur.core)).namesSet (.task (coreDie s.cur.core) s.cx.t.job s.cx.t.trc.tid) = true →
      (∀ n, n < 32 → s.setLive (coreDie s.cur.core) n = true) → exec .endt s = .next { s with iss := { s.iss with wait := true } })

/-- R35, R36, R124: `post` and `endt.post` read the 64-byte block at gA and append its record, with the task's job and flow, the stage named and
origin 2, to the sub-queue of HOME's cluster, where it is its turn in the order of R28 (of a HOME that R36 gives no cluster, on a remote, multicast or
Drift page, that cluster is the model's reading, log 52); the stores that the core made before stand released at die scope, shown where no remote write of it to the die is unanswered; `endt.post` also ends
the task, or is held for a detached set once its record stands. -/
def Sys2Proof.Claims.PostsWriteOneRecord : Prop :=
  ∀ (s : State) (g : BitVec 5) (st : BitVec 3) (x : Xl) (g0 : Stage) (cl : Nat),
    let die := coreDie s.cur.core
    let els : List (Nat × Word × Xl) := [(0, s.rs g, x)]
    let u := s.freshen els
    let ws := wordsOf 8 (u.readAt s.cur.core x 64)
    let released := (((u.settle els).releaseCore s.cur.core 2).publish s.cur.core 2)
    s.iss.postDone = false → s.iss.posting = none → released.unacked s.cur.core 2 = false →
    (s.die die).stageOf s.cx.t.job s.cx.t.flow st.toNat = some g0 → s.access .rd 64 false 64 [(0, s.rs g)] = .ok els → u.missing 64 els = none →
    (wd ws 1) >>> 56 = 0 → (wd ws 2) >>> 56 = 0 → (u.settle els).homeClusterOf (wd ws 2).toNat = .ok cl →
    let r : TaskRec := { coord := wd ws 0, argp := wd ws 1, home := wd ws 2, job := s.cx.t.job, flow := s.cx.t.flow, orig := 2, stg := st.toNat,
                         inl := ws.drop 4, tid := (s.die die).records }
    ((s.die die).subq s.cx.t.job s.cx.t.flow st.toNat cl).full = false → (s.die die).spilled s.cx.t.job s.cx.t.flow st.toNat cl = false →
    (s.die die).entryWaits s.cycle cl r (coreLocal s.cur.core * 2 + s.cur.ctx) = false →
    (∃ t, exec (.post g st) s = .next t ∧
      ((t.die die).subq s.cx.t.job s.cx.t.flow st.toNat cl).recs = ((s.die die).subq s.cx.t.job s.cx.t.flow st.toNat cl).recs ++ [r] ∧
      (t.die die).records = (s.die die).records + 1 ∧ t.cx = s.cx ∧
      t.iss = { s.iss with blocked := none, posting := none, postDone := true } ∧ ReleasedAtDie t s.cur.core ∧ t.co.vfile = s.co.vfile ∧
      t.co.acc = s.co.acc ∧ t.co.queue = s.co.queue ∧ ∀ a, ¬ OnItsWay s s.cur.core a → t.byte a = s.byte a) ∧
    ((s.die die).namesSet (.task die s.cx.t.job s.cx.t.trc.tid) = false ∨ (∃ n, n < 32 ∧ s.setLive die n = false) →
      ∃ t, exec (.endtPost g st) s = .next t ∧ t.cx.run = .free ∧ t.iss.ended = true ∧ ReleasedAtDie t s.cur.core ∧
        ((t.die die).subq s.cx.t.job s.cx.t.flow st.toNat cl).recs = ((s.die die).subq s.cx.t.job s.cx.t.flow st.toNat cl).recs ++ [r]) ∧
    ((s.die die).namesSet (.task die s.cx.t.job s.cx.t.trc.tid) = true → (∀ n, n < 32 → s.setLive die n = true) →
      ∃ t, exec (.endtPost g st) s = .next t ∧ t.iss = { s.iss with blocked := none, posting := none, postDone := true, wait := true } ∧ t.cx = s.cx ∧
        ((t.die die).subq s.cx.t.job s.cx.t.flow st.toNat cl).recs = ((s.die die).subq s.cx.t.job s.cx.t.flow st.toNat cl).recs ++ [r])

/-! ## Exceptions -/

/-- R125, R311, R316: once no register awaits a load, until when they are held, `trap` and `sysc` at task level move the ports of their bundle, then continue
at TVEC at monitor level with every other task register as it stands; above task level on a system core they enter root with MCAUSE and, in MEPC, the next
bundle's address. -/
def Sys2Proof.Claims.SoftwareTrapsEnterTheirHandler : Prop :=
  ∀ (s : State) (i : Instr) (code : BitVec 16) (cause : Nat), (i = .trap code ∧ cause = 0x1000) ∨ (i = .sysc code ∧ cause = 0x1100) →
    (s.cx.pend ≠ [] → exec i s = .next { s with iss := { s.iss with wait := true } }) ∧
    (TrapsHere s → s.cx.pend = [] → ∃ t, exec i s = .next t ∧ t.cx.y = { s.cx.y with level := 1, splo := t.cx.y.splo, sphi := t.cx.y.sphi } ∧
      t.cx.r = { s.cx.r with pc := s.cx.y.tvec, ports := s.advancePorts.cx.r.ports } ∧ t.iss.trapped = true ∧ t.cx.run = s.cx.run ∧
      t.co.vfile = s.co.vfile ∧ t.co.acc = s.co.acc) ∧
    (isSystem s.cur.core = true → s.cx.y.level ≠ 0 → s.cx.pend = [] → ¬ (cause = 0x1000 ∧ s.cx.y.level = 1 ∧ 0x100 ≤ code.toNat ∧ code.toNat ≤ 0x1FF) →
      ∃ t, exec i s = .next t ∧ t.cx.y = { s.cx.y with level := 2, mcause := BitVec.ofNat 64 cause, mepc := s.succ } ∧
        t.cx.r = { s.cx.r with pc := Config.rootVector (coreDie s.cur.core), ports := s.advancePorts.cx.r.ports } ∧ t.iss.trapped = true)

/-- R366, R367: at monitor level of a system core `trap` with a code from 0x0100 to 0x01FF calls root. An undefined service puts −1 in g1; KEYGEN puts
−2 there for a malformed header and writes no byte, and else 0, with a wrapped key of that header at the address in g2, shown for one in the core's
scratchpad. -/
def Sys2Proof.Claims.RootServicesAnswerInG1 : Prop :=
  ∀ (s : State) (code : BitVec 16), isSystem s.cur.core = true → s.cx.y.level = 1 → s.cx.pend = [] → 0x100 ≤ code.toNat → code.toNat ≤ 0x1FF →
    ∃ t, exec (.trap code) s = .next t ∧ t.cx.y = { s.cx.y with mcause := 0x1000, mepc := s.succ } ∧ t.iss.trapped = s.iss.trapped ∧
      (∀ n, n ≠ 1 → t.cx.r.rg n = s.cx.r.rg n) ∧
      (code ≠ 0x100 → t.cx.r.rg 1 = BitVec.allOnes 64 ∧ ∀ a, t.byte a = s.byte a) ∧
      (code = 0x100 → KeygenMalformed (s.cx.r.rg 1) → t.cx.r.rg 1 = BitVec.ofInt 64 (-2) ∧ ∀ a, t.byte a = s.byte a) ∧
      (code = 0x100 → ¬ KeygenMalformed (s.cx.r.rg 1) → t.cx.r.rg 1 = 0 ∧ ∀ off, off % 64 = 0 → off + 64 ≤ 2 ^ 21 → s.cx.y.splo * 4096 ≤ off →
        off + 64 ≤ s.cx.y.sphi * 4096 → s.cx.r.rg 2 = BitVec.ofNat 64 (winScratch + off) → ∃ (key : BitVec 256) (nonce : Word),
        t.bytesAt (homeScratch s.cur.core off) 64 = wrapped (s.die (coreDie s.cur.core)).wrapKey (s.cx.r.rg 1) nonce key)

/-- R316, R317, R318: a fault of a slot writes the record at TREC. Shown on an indirect jump whose target R114 refuses, with TREC in the
context's scratchpad: the bundle's address, V with the context, the completed and the present slots, the slot and the cause, the fault
address, zero in AUX, the lanes applied, PORT_STATUS, the guard, the C slot's operand, and an 80-byte entry for each port.
The model's own choices in it: logs 8, 23, 29, 60. -/
def Obligations.FaultsWriteTheirRecord : Prop :=
  ∀ (s : State) (g : BitVec 5) (cause off : Nat), TrapsHere s → s.iss.push = [] → s.targetBad s.cur (s.rs g) = some cause → off % 64 = 0 →
    off + 2048 ≤ 2 ^ 21 → s.cx.y.splo * 4096 ≤ off → off + 2048 ≤ s.cx.y.sphi * 4096 → s.cx.y.trec = BitVec.ofNat 64 (winScratch + off) →
    cause < 0xF00 → s.cur.ctx ≤ 1 → s.iss.slot = 0 → s.iss.head.getLsbD 0 = true → s.iss.cmask.getLsbD 0 = false → (s.iss.word 0) = 0x11#32 ||| (g.setWidth 32 <<< 8) →
    ∃ t, exec (.jr g) s = .next t ∧
      let word (n : Nat) : Word := wordOf (t.bytesAt (homeScratch s.cur.core (off + n)) 8)
      word 0 = s.iss.baddr &&& 0xFFFFFFFFFFFFFF ∧
      (word 8).getLsbD 63 = true ∧ (word 8).extractLsb' 61 2 = 0 ∧ (word 8).getLsbD 60 = decide (s.cur.ctx = 1) ∧
      (word 8).extractLsb' 48 8 = s.iss.cmask ∧ (word 8).extractLsb' 40 8 = s.iss.head.extractLsb' 0 8 ∧ (word 8).extractLsb' 32 3 = 0 ∧
      (word 8).extractLsb' 0 16 = BitVec.ofNat 16 cause ∧ word 0x10 = s.rs g ∧ word 0x18 = 0 ∧ word 0x20 = s.iss.lmask ∧
      word 0x28 = s.iss.lat.portStatus ∧ word 0x40 = s.iss.guard ∧ word 0x48 = s.rs g ∧
      ∀ n, n < 12 → t.bytesAt (homeScratch s.cur.core (off + 0x400 + 80 * n)) 80 = (s.iss.lat.port n).entry

/-- R321: `tret` resumes from a good record at TREC: LEVEL falls to task, the ports come from the record, FAULT_INFO reports where RPT asks for
it; a bundle that had completed is passed, its ports moved on (the model's reading, log 25), one whose fetch faulted is fetched again (log 60), any
other is issued again from the record. A bad record traps as a machine check. -/
def Sys2Proof.Claims.TrapReturnResumesFromTheRecord : Prop :=
  ∀ (s : State) (b : List Byte), s.getVa s.xc (vaOf s.cx.y.trec) 2048 = .ok b →
    let w1 := wordOf (slice b 8 8)
    let cmask := w1.extractLsb' 48 8
    let whole := cmask = w1.extractLsb' 40 8
    let unfetched := cmask = 0 ∧ ((w1.extractLsb' 8 8) = 1 ∨ (w1.extractLsb' 8 8) = 2)
    (recordBad b = false → ∃ t, exec .tret s = .next t ∧ t.cx.y.level = 0 ∧ t.iss.xfer = true ∧
      t.cx.r.faultInfo = (if w1.getLsbD 59 then (0x80000 : Word) ||| ((w1.extractLsb' 32 3).setWidth 64 <<< 16) ||| (w1.extractLsb' 0 16).setWidth 64
                          else s.cx.r.faultInfo) ∧
      t.cx.r = { s.cx.r with pc := t.cx.r.pc, ports := t.cx.r.ports, faultInfo := t.cx.r.faultInfo } ∧
      (whole → t.cx.held = none ∧ t.cx.r.pc = successor (wordOf (slice b 0 8)) (t.headAt s.cur (wordOf (slice b 0 8))) ∧
        t.cx.r.ports = advanced { t.issAt s.cur (wordOf (slice b 0 8)) with guard := wordOf (slice b 0x40 8) }.moves (recordPorts b)) ∧
      (¬ whole → t.cx.r.pc = wordOf (slice b 0 8) ∧ t.cx.r.ports = recordPorts b ∧ (unfetched → t.cx.held = none) ∧
        (¬ unfetched → ∃ i, t.cx.held = some i ∧ i.baddr = wordOf (slice b 0 8) ∧ i.rcd = b))) ∧
    (recordBad b = true → TrapsHere s → ∃ t, exec .tret s = .next t ∧ t.iss.trapped = true) ∧
    (recordBad b = true → s.cx.y.level = 1 → isSystem s.cur.core = false → ∃ t, exec .tret s = .next t ∧ t.cx.run = .stopped ∧ t.iss.trapped = true)

/-- R312, R323: `mret` at root level goes to MEPC at monitor level and changes no other register of the context; at any other level, and on a
compute core, it is a privilege fault, which enters root at monitor level of a system core. -/
def Sys2Proof.Claims.RootReturnEntersTheMonitor : Prop :=
  (∀ s : State, isSystem s.cur.core = true → s.cx.y.level = 2 →
    ∃ t, exec .mret s = .next t ∧ t.cx.r = { s.cx.r with pc := s.cx.y.mepc } ∧ t.iss.xfer = true ∧
      t.cx.y = { s.cx.y with level := 1, splo := t.cx.y.splo, sphi := t.cx.y.sphi } ∧ (∀ a, t.byte a = s.byte a) ∧
      (∀ k, k ≠ s.cur.core → t.core k = s.core k) ∧ t.co.vfile = s.co.vfile) ∧
  (∀ s : State, isSystem s.cur.core = true → s.cx.y.level ≠ 2 → s.cx.y.level ≠ 0 →
    ∃ t, exec .mret s = .next t ∧ t.cx.y.level = 2 ∧ t.cx.y.mcause = 0x1201 ∧ t.cx.y.mepc = s.iss.baddr) ∧
  ∀ s : State, TrapsHere s → ∃ t, exec .mret s = .next t ∧ t.iss.trapped = true ∧ t.cx.y.level = 1 ∧ t.cx.r.pc = s.cx.y.tvec

/-! ## Control registers -/

/-- R60, R61, R130, R131: `csrr` puts a register in gD, AFLAGS once the array's flags have reached it; `csrw` clears the bits written as one in
PORT_STATUS, and in AFLAGS once the array's flags have reached it, and writes FAULT_INFO without its reserved bits. -/
def Sys2Proof.Claims.TaskControlRegistersReadAndWrite : Prop :=
  (∀ (s : State) (d : BitVec 5) (n : BitVec 12), n.toNat ≤ 9 → Fits s d (userRegister s n.toNat) →
    ∃ t, exec (.csrr d n) s = .next t ∧ t.cx.r.rg d.toNat = gValue d (userRegister s n.toNat) ∧ (∀ a, t.byte a = s.byte a) ∧
      (∀ m, m ≠ d.toNat → t.cx.r.rg m = s.cx.r.rg m) ∧ (n ≠ 7 → WritesG d s t ∧ t.cx.r.aflags = s.cx.r.aflags) ∧ (n = 7 → t.co.queue = [])) ∧
  (∀ (s : State) (a : BitVec 5), ∃ t, exec (.csrw a 7) s = .next t ∧ t.cx.r = { s.cx.r with aflags := userRegister s 7 &&& ~~~(s.ra a) } ∧
    t.co.queue = [] ∧ t.iss = s.iss ∧ (∀ b, t.byte b = s.byte b) ∧ (s.co.queue = [] → KeepsAllButRegs s t)) ∧
  (∀ (s : State) (a : BitVec 5), ∃ t, exec (.csrw a 8) s = .next t ∧ t.cx.r = { s.cx.r with faultInfo := s.ra a &&& 0xFFFFF } ∧
    KeepsAllButRegs s t ∧ t.iss = s.iss) ∧
  ∀ (s : State) (a : BitVec 5), ∃ t, exec (.csrw a 6) s = .next t ∧ t.cx.r = { s.cx.r with ports := t.cx.r.ports } ∧
    (∀ n, n < 12 → t.cx.r.port n = { s.cx.r.port n with exh := (s.cx.r.port n).exh && !(s.ra a).getLsbD n }) ∧ KeepsAllButRegs s t ∧ t.iss = s.iss

/-- R313, R320: a `csrrs` form gives gD the old value and the register the new one; a reserved bit is not kept, EVT clears by ones. EVTAREA on a
compute core, and LEVEL, MEPC and MCAUSE below root level, are a privilege fault (that a read by `csrrs` counts as a write is the model's
reading, log 34). -/
def Sys2Proof.Claims.SystemControlRegistersReadAndWrite : Prop :=
  ∀ (s : State) (i : Instr) (d : BitVec 5) (n : BitVec 12) (f : Word → Word), csrrsForm i s = some (d, n, f) → 0x100 ≤ n.toNat → n.toNat ≤ 0x10C →
    let denied := (n = 0x10C ∧ isSystem s.cur.core = false) ∨ ((n = 0x100 ∨ n = 0x10A ∨ n = 0x10B) ∧ s.cx.y.level ≠ 2)
    (¬ denied → Fits s d (systemRegister s n.toNat) → ∃ t, exec i s = .next t ∧ t.cx.r.rg d.toNat = gValue d (systemRegister s n.toNat) ∧
      systemRegister t n.toNat = systemWritten s n.toNat (f (systemRegister s n.toNat)) ∧
      (∀ m, 0x100 ≤ m → m ≤ 0x10C → m ≠ n.toNat → systemRegister t m = systemRegister s m) ∧
      t.cx.r = { s.cx.r with g := t.cx.r.g } ∧ (∀ m, m ≠ d.toNat → t.cx.r.rg m = s.cx.r.rg m) ∧ KeepsMachine s t ∧ t.iss = s.iss) ∧
    (denied → TrapsHere s → ∃ t, exec i s = .next t ∧ t.iss.trapped = true ∧ t.cx.r.pc = s.cx.y.tvec)

/-- R313: at monitor level `csrrs` writes every register of R60: TILE_COORD, TASK_ID, JOB_ID, SLIM and BANK_KEY take the new value, and gD the old
one. -/
def Sys2Proof.Claims.MonitorWritesTaskRegisters : Prop :=
  ∀ (s : State) (i : Instr) (d : BitVec 5) (n : BitVec 12) (f : Word → Word), csrrsForm i s = some (d, n, f) → n.toNat ≤ 5 → n ≠ 3 →
    let v := f (userRegister s n.toNat)
    let r : Regs := if n = 0 then { s.cx.r with tileCoord := v } else if n = 1 then { s.cx.r with taskId := v }
      else if n = 2 then { s.cx.r with jobId := v &&& 0x3FF } else if n = 4 then { s.cx.r with slim := v } else { s.cx.r with bankKey := v }
    Fits s d (userRegister s n.toNat) →
    ∃ t, exec i s = .next t ∧ t.cx.r = { r with g := t.cx.r.g } ∧ t.cx.r.rg d.toNat = gValue d (userRegister s n.toNat) ∧
      (∀ m, m ≠ d.toNat → t.cx.r.rg m = s.cx.r.rg m) ∧ KeepsAllButRegs s t ∧ t.iss = s.iss

/-! ## Instructions of the monitor -/

/-- R312, R313: the instructions of R323 that act on the die trap with a privilege fault on a compute core. -/
def Sys2Proof.Claims.SystemInstructionsTrapOnComputeCores : Prop :=
  ∀ (s : State) (i : Instr) (d : BitVec 5), systemCoreForm i = some d → isSystem s.cur.core = false →
    (TrapsHere s → ∃ t, exec i s = .next t ∧ t.iss.trapped = true ∧ t.cx.y.level = 1 ∧ t.cx.r.pc = s.cx.y.tvec) ∧
    (s.cx.y.level ≠ 0 → ∃ t, exec i s = .next t ∧ t.iss.trapped = true ∧ t.cx.run = .stopped)

/-- R323, R339, R340: `tinv` and `asidinv` write status 0 once no core of the die has an access of the slot on its way (so, where nothing of the die is),
and leave no translation of it in any TLB of the die, and no line or fetched block of it (of a page: within 1 GiB of it, log 56); the other g
registers, the cores of other dies and the homes of bytes of which no write is on its way stand. -/
def Sys2Proof.Claims.InvalidationsLeaveNoTranslation : Prop :=
  ∀ (s : State) (i : Instr) (d : BitVec 5) (slot : Nat) (page : Option Nat), isSystem s.cur.core = true →
    ((∃ a b, i = .tinv d a b ∧ slot = (s.ra b).toNat % 512 ∧ page = some ((s.ra a).toNat % 2 ^ 56)) ∨
      ∃ a, i = .asidinv d a ∧ slot = (s.ra a).toNat % 512 ∧ page = none) →
    Fits s d 0 → (Settled s (coreDie s.cur.core) → (s.shootdown (coreDie s.cur.core) slot page).1 = true) ∧
    ((s.shootdown (coreDie s.cur.core) slot page).1 = true ∨ Settled s (coreDie s.cur.core) → ∃ t, exec i s = .next t ∧ StatusIs s t d 0 ∧
      (∀ k ∈ s.coresOf (coreDie s.cur.core), (∀ e ∈ (t.core k).tlb, e.asid = slot → ∃ va, page = some va ∧ e.page ≠ va / 2 ^ e.bits) ∧
        (∀ b ∈ (t.core k).icache, b.asid = slot → ∃ va, page = some va ∧ b.va / 2 ^ 30 ≠ va / 2 ^ 30) ∧
        ∀ l ∈ (t.core k).dcache, ∀ g ∈ l.tags, g.1 = slot → ∃ va, page = some va ∧ g.2 / 2 ^ 30 ≠ va / 2 ^ 30) ∧
      (∀ a, (∀ k, ¬ OnItsWay s k a) → t.byte a = s.byte a) ∧
      (∀ k, k / 128 ≠ coreDie s.cur.core → t.core k = s.core k))

/-- R323, R348: `scrub` of a core of this die with both contexts free zeroes its scratchpad, accumulator, vector file, registers g, p, k, h and lc,
handles and weight latches, discards its data cache without write-back, frees it for another job's tasks, and writes status 0; a core whose cluster sleeps is
waited for and its cluster called (R403); a core of another die gives status 2 and a busy one status 1, and nothing else changes. -/
def Sys2Proof.Claims.ScrubClearsACore : Prop :=
  ∀ (s : State) (d a : BitVec 5), isSystem s.cur.core = true → Fits s d 0 → Fits s d 1 → Fits s d 2 →
    let die := coreDie s.cur.core
    let k := die * 128 + (s.ra a).toNat % 64
    let here := (s.ra a).toNat / 64 % 8 = die % 8
    let free := (s.core k).c0.run = .free ∧ (s.core k).c1.run = .free
    let awake := s.awakeCl (coreCluster k)
    (here → free → awake = false → exec (.scrub d a) s = .next (s.callCl (coreCluster k)).hold) ∧
    (here → free → awake = true → ∃ t, exec (.scrub d a) s = .next t ∧ StatusIs s t d 0 ∧
      (∀ off, off < 2 ^ 21 → t.byte (homeScratch k off) = 0) ∧ (∀ b, (∀ off, off < 2 ^ 21 → b ≠ homeScratch k off) → t.byte b = s.byte b) ∧
      (t.core k).vfile = [] ∧ (t.core k).acc = [] ∧ (t.core k).dcache = [] ∧ (t.core k).handles = [] ∧ (t.core k).tenant = none ∧ (t.core k).latch0 = {} ∧ (t.core k).latch1 = {} ∧
      (∀ x n, ((t.core k).ctx x).r.rg n = 0 ∧ ((t.core k).ctx x).r.rk n = 0 ∧ ((t.core k).ctx x).r.rh n = {} ∧
        SMap.get 0 ((t.core k).ctx x).r.lc n = 0 ∧ (n ≠ 0 → ((t.core k).ctx x).r.rp n = 0)) ∧
      ∀ j, j ≠ k → j ≠ s.cur.core → t.core j = s.core j) ∧
    (here → ¬ free → ∃ t, exec (.scrub d a) s = .next t ∧ StatusIs s t d 1 ∧ KeepsAllButRegs s t) ∧
    (¬ here → ∃ t, exec (.scrub d a) s = .next t ∧ StatusIs s t d 2 ∧ KeepsAllButRegs s t)

/-- R323, R374, R375: `ctxsave` and `ctxrest` answer 2 for a target on another die and 1 for one that is not stopped, or not free, with no other
effect. A save of a stopped context with a key leaves its image at gA under the key slot's next counter; a restore loads the image that
passes its checks into the context, at monitor level and at TVEC, where the core is clean for its job, else answers 1 (log 88). Both wait for the target's
cluster where it sleeps, and call it (R403). The model's own choices in it: logs 7, 54, 70, 88. -/
def Obligations.ContextImagesSaveAndRestore : Prop :=
  (∀ (s : State) (d a b : BitVec 5), isSystem s.cur.core = true → Fits s d 0 → Fits s d 1 → Fits s d 2 →
    let die := coreDie s.cur.core
    let p : Place := ⟨die * 128 + (s.ra b).toNat % 64, (s.ra b).toNat / 512 % 2⟩
    let here := (s.ra b).toNat / 64 % 8 = die % 8
    (¬ here → ∀ i ∈ [Instr.ctxsave d a b, .ctxrest d a b], ∃ t, exec i s = .next t ∧ StatusIs s t d 2 ∧ KeepsAllButRegs s t) ∧
    (here → (s.ctxAt p).run ≠ .stopped → ∃ t, exec (.ctxsave d a b) s = .next t ∧ StatusIs s t d 1 ∧ KeepsAllButRegs s t) ∧
    (here → ((s.core p.core).c0.run ≠ .free ∨ (s.core p.core).c1.run ≠ .free) →
      ∃ t, exec (.ctxrest d a b) s = .next t ∧ StatusIs s t d 1 ∧ KeepsAllButRegs s t) ∧
    (here → s.awakeCl (coreCluster p.core) = false →
      ((s.ctxAt p).run = .stopped → exec (.ctxsave d a b) s = .next (s.callCl (coreCluster p.core)).hold) ∧
      ((s.core p.core).c0.run = .free → (s.core p.core).c1.run = .free → exec (.ctxrest d a b) s = .next (s.callCl (coreCluster p.core)).hold))) ∧
  (∀ (s u : State) (d a b : BitVec 5) (p : Place) (key : Nat × KeySlot), isSystem s.cur.core = true → Fits s d 0 →
    s.targetOf (s.ra b) ((s.ra b).toNat / 512 % 2) = some p → (s.ctxAt p).run = .stopped → s.awakeCl (coreCluster p.core) = true →
    (s.die (coreDie p.core)).ctxKey ((s.ctxAt p).r.jobId.toNat % 1024) (coreId p.core p.ctx) = some key →
    s.eaBad (s.ra a) (imgLen (s.ctxAt p).t.vb (s.ctxAt p).t.acn ((s.ctxAt p).splen p.ctx)) .wr = none → s.quiet p = (true, u) →
    ∃ t v img, exec (.ctxsave d a b) s = .next t ∧ u.saveImage p (u.recordOf p) = some (v, img) ∧
      t = (v.putVa v.xc (vaOf (s.ra a)) img (img.length + 1)).wg d 0 ∧ t.cx.r.rg d.toNat = gValue d 0 ∧
      SMap.get {} (t.die (coreDie p.core)).keys key.1 = { key.2 with ctr := key.2.ctr + 1, bind := if key.2.dflt then key.2.bind else 1024 }) ∧
  ∀ (s : State) (d a b : BitVec 5) (p : Place) (len k : Nat) (plain : List Byte), isSystem s.cur.core = true → Fits s d 0 →
    s.targetOf (s.ra b) ((s.ra b).toNat / 512 % 2) = some p → (s.core p.core).c0.run = .free → (s.core p.core).c1.run = .free →
    s.awakeCl (coreCluster p.core) = true → s.eaBad (s.ra a) 256 .rd = none → imgLenOf (s.span (vaOf (s.ra a)) 256) = some len → s.eaBad (s.ra a) len .rd = none →
    s.openImage (coreDie p.core) p.ctx (s.span (vaOf (s.ra a)) len) = .ok (k, plain) →
    let clean := (s.core p.core).cleanFor (imageTask (wordOf (slice (s.span (vaOf (s.ra a)) 256) 16 8)) plain).job
    (clean = false → Fits s d 1 → ∃ t, exec (.ctxrest d a b) s = .next t ∧ StatusIs s t d 1 ∧ KeepsAllButRegs s t) ∧
    (clean = true → ∃ t, exec (.ctxrest d a b) s = .next t ∧ t.cx.r.rg d.toNat = gValue d 0 ∧ (t.ctxAt p).run = .running ∧ (t.ctxAt p).y.level = 1 ∧
      (t.ctxAt p).r.pc = (s.ctxAt p).y.tvec ∧ (∀ n, (t.ctxAt p).r.rg n = (imageRegs plain).rg n))

/-- R366, R368: `keyld` refuses slot 0, slots from 1,024 and reserved bits with status 5; with gA = 0 it destroys the slot's key unless a job uses it
(status 1); else it unwraps the blob at gA into the slot, with status 1 for a slot in use, 3 for a tag that does not match and 5 for a key that
the store refuses, and no effect in these cases. Memory sealed under a key that stays reads as before. -/
def Sys2Proof.Claims.KeyLoadFillsOrDestroysASlot : Prop :=
  ∀ (s : State) (d a b : BitVec 5), isSystem s.cur.core = true → (∀ n, n ≤ 5 → Fits s d (BitVec.ofNat 64 n)) →
    let die := coreDie s.cur.core
    let keys := (s.die die).keys
    let sl := (s.ra b).toNat
    ((1024 ≤ sl ∨ sl = 0) → ∃ t, exec (.keyld d a b) s = .next t ∧ StatusIs s t d 5 ∧ KeepsAllButRegs s t) ∧
    (0 < sl → sl < 1024 → s.ra a = 0 →
      (s.keyInUse die (SMap.get {} keys sl) = true → ∃ t, exec (.keyld d a b) s = .next t ∧ StatusIs s t d 1 ∧ KeepsAllButRegs s t) ∧
      (s.keyInUse die (SMap.get {} keys sl) = false → ∃ t, exec (.keyld d a b) s = .next t ∧ StatusIs s t d 0 ∧
        SMap.get {} (t.die die).keys sl = {} ∧ (∀ n, n ≠ sl → SMap.get {} (t.die die).keys n = SMap.get {} keys n) ∧ KeepsUnitsOfSameKey s t)) ∧
    (0 < sl → sl < 1024 → s.ra a ≠ 0 → (s.ra a).toNat % 64 = 0 → s.eaBad (s.ra a) 64 .rd = none →
      let blob := s.span (vaOf (s.ra a)) 64
      let iv : BitVec 96 := (wordOf (slice blob 8 8)).setWidth 96
      let tagged := Config.gcmTag (s.die die).wrapKey iv (slice blob 0 8) (slice blob 16 32) = BitVec.ofNat 128 (ofBytes (slice blob 48 16))
      let key := (s.die die).blobKey (wordOf (slice blob 0 8)) (BitVec.ofNat 256 (ofBytes (Config.gcmCrypt (s.die die).wrapKey iv (slice blob 16 32))))
      let status := if (SMap.get {} keys sl).v then 1 else if tagged then (if key.2 then 5 else 0) else 3
      ∃ t, exec (.keyld d a b) s = .next t ∧ StatusIs s t d status ∧ KeepsUnitsOfSameKey s t ∧
        (status ≠ 0 → t.die die = s.die die ∧ ∀ k, t.byte k = s.byte k) ∧ (status = 0 → SMap.get {} (t.die die).keys sl = key.1) ∧
        ∀ n, n ≠ sl → SMap.get {} (t.die die).keys n = SMap.get {} keys n)

/-- R324: `wfe` gives gD the pending events once EVT and EVTMASK share a bit, and holds its bundle until then. -/
def Sys2Proof.Claims.WaitForEventEndsOnAnUnmaskedEvent : Prop :=
  ∀ (s : State) (d : BitVec 5),
    (s.co.evt &&& s.co.evtmask ≠ 0 → Fits s d s.co.evt → ∃ t, exec (.wfe d) s = .next t ∧ t.cx.r.rg d.toNat = gValue d s.co.evt ∧
      t.cx.r.aflags = s.cx.r.aflags ∧ WritesG d s t) ∧
    (s.co.evt &&& s.co.evtmask = 0 → exec (.wfe d) s = .next { s with iss := { s.iss with wait := true } })

/-- R350, R352, R364, R371: `gsw` turns a malformed descriptor away with status 5. Any other is noted with this die's answer and put to every other die of its
set; an answer that is not 0 ends the switch with 5 or 1 and each die that had reserved its jobs hears of it, answers of 0 let the first token go; a switch out
of which one in follows turns to it; once the switch is over `gsw` gives its status. `segmap` turns a bad header away with
the signature report, and gives gD the report of the other checks, or zero for a mapped segment. -/
def Sys2Proof.Claims.SwitchAndSegmentInstructionsReport : Prop :=
  (∀ (s : State) (d a : BitVec 5), isSystem s.cur.core = true → s.iss.att = false → (s.ra a).toNat % 64 = 0 → s.eaBad (s.ra a) 64 .rd = none →
    let die := coreDie s.cur.core
    let ws := wordsOf 8 (s.span (vaOf (s.ra a)) 64)
    let ds := tokenOrder die (dieSet (ws.drop 4))
    (gswBad die ws = true → Fits s d 5 → ∃ t, exec (.gsw d a) s = .next t ∧ StatusIs s t d 5 ∧ KeepsAllButRegs s t) ∧
    (gswBad die ws = false → (s.die die).window.length + ds.length ≤ 256 →
      ∃ t w, exec (.gsw d a) s = .next t ∧ t.iss = { s.iss with wait := true, att := true } ∧ (∀ b, t.byte b = s.byte b) ∧ t.cores = s.cores ∧
        (t.die die).sw = (s.die die).sw ++ [w] ∧ w.coord = die ∧ w.ctx = s.cur.ctx ∧ w.desc = ws ∧ w.dies = ds ∧ w.phase = .gather ∧
        w.job = (if swOut ws then swJout ws else swJin ws) ∧ w.answers = [(die, s.switchCheck die ws)] ∧
        ∀ k ∈ ds, k ≠ die → ∃ p ∈ t.net, TokenOf die k 0 w 0 p)) ∧
  (∀ (s : State) (d a : BitVec 5), isSystem s.cur.core = true → s.iss.att = true → Fits s d 0 →
    (∀ w ∈ (s.die (coreDie s.cur.core)).sw, w.isOf (coreDie s.cur.core) s.cur.ctx = false) → ∃ t, exec (.gsw d a) s = .next t ∧ StatusIs s t d 0) ∧
  (∀ (s : State) (d a : BitVec 5) (w : Switch), isSystem s.cur.core = true → s.iss.att = true →
    let die := coreDie s.cur.core
    let mine (v : Switch) : Bool := v.isOf die s.cur.ctx
    let bad := w.answers.filter (fun e => e.2 != 0)
    let why := if (∃ e ∈ w.answers, e.2 = 5) then 5 else 1
    (s.die die).sw.find? mine = some w → (s.die die).window.length + w.answers.length < 256 →
    (w.phase = .gather → w.dies.length ≤ w.answers.length → bad ≠ [] → Fits s d (BitVec.ofNat 64 why) →
      ∃ t, exec (.gsw d a) s = .next t ∧ StatusIs s t d why ∧ (∀ v ∈ (t.die die).sw, mine v = false) ∧
        ∀ e ∈ w.answers, e.2 = 0 → e.1 ≠ die → ∃ p ∈ t.net, TokenOf die e.1 6 w 0 p) ∧
    (w.phase = .gather → w.dies.length ≤ w.answers.length → bad = [] → ∀ k rest, w.dies = k :: rest →
      ∃ t, exec (.gsw d a) s = .next t ∧ t.iss = { s.iss with wait := true, att := true } ∧ (∀ v ∈ (t.die die).sw, mine v = true → v.phase = .idle) ∧
        if k = die then ∀ v ∈ (t.die die).sw, mine v = true → v.tok = .quiesce ∧ v.status = 0 else ∃ p ∈ t.net, TokenOf die k 2 w 0 p) ∧
    (w.phase = .closed → (w.out = false ∨ swIn w.desc = false) → Fits s d (BitVec.ofNat 64 w.status) →
      ∃ t, exec (.gsw d a) s = .next t ∧ StatusIs s t d w.status ∧ ∀ v ∈ (t.die die).sw, mine v = false) ∧
    (w.phase = .closed → w.out = true → swIn w.desc = true → tokenOrder die (dieSet (w.desc.drop 4)) ≠ [] →
      ∃ t, exec (.gsw d a) s = .next t ∧ t.iss = { s.iss with wait := true, att := true } ∧
        ∀ v ∈ (t.die die).sw, mine v = true → v.job = swJin w.desc ∧ v.out = false ∧ v.phase = .idle)) ∧
  ∀ (s : State) (d a : BitVec 5), isSystem s.cur.core = true → s.eaBad (s.ra a) 0x2000 .rd = none →
    let hdr := s.span (vaOf (s.ra a)) 0x2000
    let n := 512 * (wordOf (slice hdr 0 8)).toNat % 2 ^ 41
    let m := s.mapSegment (vaOf (s.ra a)) hdr (s.span (vaOf (s.ra a) + 0x2000) n)
    (headerBad hdr = true → Fits s d (report 0x10 0xFF 0) → ∃ t, exec (.segmap d a) s = .next t ∧ KeepsAllButRegs s t ∧
      t.cx.r.rg d.toNat = gValue d (report 0x10 0xFF 0) ∧
      ∀ m, m ≠ d.toNat → t.cx.r.rg m = s.cx.r.rg m) ∧
    (headerBad hdr = false → s.spanBad (vaOf (s.ra a) + 0x2000) n .rd = none → s.asleep s.areaCls = false → Fits s d m.1 →
      ∃ t, exec (.segmap d a) s = .next t ∧ t.cx.r.rg d.toNat = gValue d m.1 ∧ (∀ k, t.byte k = s.byte k) ∧
        (t.dies = s.dies ∨ m.1 = 0 ∧ ∃ g, (t.die (coreDie s.cur.core)).segs = g :: (s.die (coreDie s.cur.core)).segs ∧ g.va = vaOf (s.ra a) ∧
          g.job = s.cx.r.jobId.toNat % 1024 ∧ g.mapno = (s.die (coreDie s.cur.core)).mapno + 1))

/-! ## Loads and stores -/

/-- R171, R172, R175: a scalar load that passes its checks, with the bytes of a remote line at hand, writes gD with the bytes at EA, extended, once a line
acquired under that VA since it was made (R246) is out of its way; g0 discards them. An MMIO load of a device register gives a value that nothing constrains (log 10).
The model's own choices in it: logs 10, 11, 17, 85. -/
def Obligations.ScalarLoadsWriteTheirRegister : Prop :=
  ∀ (s : State) (i : Instr) (sg : Bool) (n : Nat) (d b : BitVec 5) (o : BitVec 13) (x : Xl), loadForm i = some (sg, n, d, b, o) →
    let els := [(0, effective s b o n, x)]
    let u := s.freshen els
    s.checked b .rd n true n [(0, effective s b o n)] = .ok els → u.missing n els = none →
    (x.rc ≠ .mmio ∨ isHostMem x.loc = true → Fits s d (extended sg n (seen u x n)) →
      ∃ t, exec i s = .next t ∧ t.cx.r.rg d.toNat = gValue d (extended sg n (seen u x n)) ∧ (∀ m, m ≠ d.toNat → t.cx.r.rg m = s.cx.r.rg m) ∧
        t.cx.r = { s.cx.r with g := t.cx.r.g } ∧ Loads s t) ∧
    (x.rc = .mmio → isHostMem x.loc = false → ∀ v, v = extended sg n (bytesOf n (Config.mmioRead x.loc s.fresh).toNat) → Fits s d v →
      ∃ t, exec i s = .next t ∧ t.cx.r.rg d.toNat = gValue d v ∧ (∀ m, m ≠ d.toNat → t.cx.r.rg m = s.cx.r.rg m) ∧
        t.cx.r = { s.cx.r with g := t.cx.r.g } ∧ t.fresh = s.fresh + 1 ∧ Loads s t)

/-- R171, R172, R175: a scalar store that passes its checks, those of a remote target too, leaves the low n bytes of gD at EA: in a bank, or in the data
cache of its core; an MMIO store goes to its home or is recorded for its device. No register changes, and no other byte but those of lines that
must leave the data cache. The model's own choices in it: logs 10, 11, 17, 85. -/
def Obligations.ScalarStoresWriteTheirBytes : Prop :=
  ∀ (s : State) (i : Instr) (n : Nat) (d b : BitVec 5) (o : BitVec 13) (x : Xl), storeForm i = some (n, d, b, o) →
    let els := [(0, effective s b o n, x)]
    s.checked b .wr n true n [(0, effective s b o n)] = .ok els → TargetsAgree s els →
    ∃ t, exec i s = .next t ∧
      (x.rc ≠ .mmio → Stores s t els n (fun _ => (List.range n).map (fun k => (s.ra d).extractLsb' (8 * k) 8)) ∧ t.mmio = s.mmio) ∧
      (x.rc = .mmio → t.cx = s.cx ∧ t.iss = s.iss ∧ (∀ k, ¬ (x.loc ≤ k ∧ k < x.loc + n) → t.byte k = s.byte k) ∧
        (isHostMem x.loc = true → ∀ k, k < n → t.byte (x.loc + k) = (s.ra d).extractLsb' (8 * k) 8) ∧
        (isHostMem x.loc = false → t.mmio = s.mmio ++ [(x.loc, n, BitVec.ofNat 64 ((s.ra d).toNat % 2 ^ (8 * n)))]))

/-- R177 to R179: a vector load or gather puts the word at each enabled element's address in that element of its view and in no other lane; a vector
store or scatter leaves each enabled element's lane at its address, the highest-numbered element of a shared address last.
The model's own choices in it: logs 11, 17, 82, 85, 96. -/
def Obligations.VectorTransfersMoveTheirElements : Prop :=
  (∀ (s : State) (i : Instr) (view : BitVec 8) (b : BitVec 5) (addr : Nat → Word) (els : List (Nat × Word × Xl)), vectorLoad i s = some (view, b, addr) →
    s.checked b .rd 4 false 4 (elements s view addr) = .ok els → (s.freshen els).missing 4 els = none →
    ∃ t, exec i s = .next t ∧ t.cx.r = s.cx.r ∧ Loads s t ∧
      (∀ e ∈ els, ∀ k, viewKey s.cx.t.vb s.cur.ctx view e.1 = some k → SMap.get 0 t.co.vfile k = BitVec.ofNat 32 (ofBytes (seen (s.freshen els) e.2.2 4))) ∧
      ∀ k, (∀ e ∈ els, viewKey s.cx.t.vb s.cur.ctx view e.1 ≠ some k) → SMap.get 0 t.co.vfile k = SMap.get 0 s.co.vfile k) ∧
  ∀ (s : State) (i : Instr) (view : BitVec 8) (b : BitVec 5) (addr : Nat → Word) (els : List (Nat × Word × Xl)), vectorStore i s = some (view, b, addr) →
    s.checked b .wr 4 false 4 (elements s view addr) = .ok els → TargetsAgree s els →
    ∃ t, exec i s = .next t ∧ Stores s t els 4 (fun e => (List.range 4).map (fun k => (laneAt s view e).extractLsb' (8 * k) 8))

/-- R173: a memory instruction of the L slot that fails a check takes that fault; no register and no lane is written. A base of g30 below SLIM comes
first, then alignment. The model's own choices in it: logs 29, 96. -/
def Obligations.FailedAccessesTrap : Prop :=
  ∀ (s : State) (i : Instr) (acc : Acc) (n align : Nat) (scalar : Bool) (b : BitVec 5) (els : List (Nat × Word)),
    memoryForm i s = some (acc, n, scalar, align, b, els) →
    (∀ (c : Nat) (v : Word), s.checked b acc n scalar align els = .error (c, v) → TrapsHere s → c / 256 ≠ 0x0F →
      ∃ t, exec i s = .next t ∧ t.iss.trapped = true ∧ t.cx.y.level = 1 ∧ t.cx.r = { s.cx.r with pc := s.cx.y.tvec } ∧ t.co.vfile = s.co.vfile) ∧
    (∀ e, els = [e] → b = 30 → e.2 < s.cx.r.slim → s.checked b acc n scalar align els = .error (0x0702, e.2)) ∧
    (∀ e, b ≠ 30 → els.find? (fun e => decide (e.2.toNat % align ≠ 0)) = some e → s.checked b acc n scalar align els = .error (0x0801, e.2)) ∧
    (els = [] → s.checked b acc n scalar align els = .ok [])

/-- R55, R171, R185, R186: `hld` and `hst` move the 64 bytes of a shape register; `hset` replaces one field of it with the low bits of gB and keeps
the rest. -/
def Sys2Proof.Claims.ShapeRegistersMoveAndTakeFields : Prop :=
  (∀ (s : State) (h : BitVec 4) (b : BitVec 5) (o : BitVec 13) (x : Xl),
    let els := [(0, effective s b o 64, x)]
    s.checked b .rd 64 false 64 [(0, effective s b o 64)] = .ok els → (s.freshen els).missing 64 els = none →
    ∃ t, exec (.hld h b o) s = .next t ∧ (t.cx.r.rh h.toNat).words = (List.range 8).map (fun k => BitVec.ofNat 64 (ofBytes (((seen (s.freshen els) x 64).drop (8 * k)).take 8))) ∧
      (∀ n, n ≠ h.toNat → t.cx.r.rh n = s.cx.r.rh n) ∧ t.cx.r = { s.cx.r with h := t.cx.r.h } ∧ Loads s t) ∧
  (∀ (s : State) (h : BitVec 4) (b : BitVec 5) (o : BitVec 13) (x : Xl),
    let els := [(0, effective s b o 64, x)]
    s.checked b .wr 64 false 64 [(0, effective s b o 64)] = .ok els → TargetsAgree s els →
    ∃ t, exec (.hst h b o) s = .next t ∧
      Stores s t els 64 (fun _ => (List.range 64).map (fun k => ((s.iss.lat.rh h.toNat).words.getD (k / 8) 0).extractLsb' (8 * (k % 8)) 8))) ∧
  ∀ (s : State) (h : BitVec 4) (g : BitVec 5) (f : BitVec 6) (w lo width : Nat), shapeField f.toNat = some (w, lo, width) →
    let m : Word := BitVec.allOnes 64 >>> (64 - width)
    ∃ t, exec (.hset h g f) s = .next t ∧
      (∀ k, k < 8 → (t.cx.r.rh h.toNat).words.getD k 0 =
        let old := (s.iss.lat.rh h.toNat).words.getD k 0
        if k = w then (old &&& ~~~(m <<< lo)) ||| ((s.ra g &&& m) <<< lo) else old) ∧
      (∀ n, n ≠ h.toNat → t.cx.r.rh n = s.cx.r.rh n) ∧ KeepsAllButRegs s t ∧ t.iss = s.iss ∧ t.cx.r = { s.cx.r with h := t.cx.r.h }

/-- R180, R161: `accrd` puts the columns of an accumulator row in the lanes of its row once the array's queue is performed; `accwr` writes them. A row
outside the accumulator or the stage's window is a footprint fault. -/
def Sys2Proof.Claims.AccumulatorRowsMoveByTheirHalf : Prop :=
  ∀ (s : State) (v : BitVec 6) (b : BitVec 5) (o : BitVec 12) (hi : Bool),
    let r : Int := (s.ra b).toNat + o.toInt
    let inside := 0 ≤ r ∧ r < 1024 ∧ InWindow s (r.toNat, 1)
    let col (i : Nat) : Nat := if hi then (i + 32) % 64 else i
    let u := s.drainAll s.cur.core
    (inside → ∃ t, exec (.accrd v b o hi) s = .next t ∧ LanesHold s t (0#2 ++ v) (· < s.lanes) (fun i => u.co.accAt r.toNat (col i)) ∧
      t.co.acc = u.co.acc ∧ t.cx = u.cx ∧ t.co.queue = [] ∧ (∀ k, t.byte k = s.byte k) ∧ t.iss = s.iss) ∧
    (inside → ∃ t, exec (.accwr v b o hi) s = .next t ∧ (∀ i, i < s.lanes → t.co.accAt r.toNat (col i) = laneAt s (0#2 ++ v) i) ∧
      (∀ q n, (∀ i, i < s.lanes → q * 64 + n ≠ r.toNat * 64 + col i) → t.co.accAt q n = u.co.accAt q n) ∧
      t.co.vfile = s.co.vfile ∧ t.cx = u.cx ∧ t.co.queue = [] ∧ (∀ k, t.byte k = s.byte k) ∧ t.iss = s.iss) ∧
    (¬ inside → TrapsHere s → ∀ i ∈ [Instr.accrd v b o hi, .accwr v b o hi], ∃ t, exec i s = .next t ∧ t.iss.trapped = true ∧
      t.cx.r.pc = s.cx.y.tvec ∧ t.co.acc = s.co.acc ∧ t.co.vfile = s.co.vfile)

/-- R61, R181 to R183: `pcfg` binds a port to a shape at its first row; `prst` restarts a bound port and `prst.u` unbinds it; `padv` moves a bound port
on, to the end of its walk and with its exhausted bit set where that passes the last row. An unbound port is left as it is. -/
def Sys2Proof.Claims.PortInstructionsMoveTheirPort : Prop :=
  (∀ (s : State) (w : Bool) (p : BitVec 3) (h : BitVec 4), (w = true → p.toNat ≤ 3) → (s.iss.lat.rh h.toNat).malformed = false →
    (s.iss.lat.rh h.toNat).w0.getLsbD 57 = false →
    ∃ t, exec (.pcfg w p h) s = .next t ∧ t.cx.r.port (portNamed w p) = { shape := s.iss.lat.rh h.toNat, bound := true, exh := false, pos := 0 } ∧
      OnlyPort s t (portNamed w p)) ∧
  (∀ (s : State) (w : Bool) (p : BitVec 3) (h : BitVec 4), TrapsHere s →
    ((s.iss.lat.rh h.toNat).malformed = true ∨ (s.iss.lat.rh h.toNat).w0.getLsbD 57 = true) →
    ∃ t, exec (.pcfg w p h) s = .next t ∧ t.iss.trapped = true ∧ t.cx.r = { s.cx.r with pc := s.cx.y.tvec }) ∧
  ∀ (s : State) (w : Bool) (p : BitVec 3), (w = true → p.toNat ≤ 3) →
    let q := s.cx.r.port (portNamed w p)
    (q.bound = false → ∀ g n, ∀ i ∈ [Instr.prst w p, .prstU w p, .padv w p g n], exec i s = .next s) ∧
    (q.bound = true → ∃ t, exec (.prst w p) s = .next t ∧ t.cx.r.port (portNamed w p) = { q with pos := 0, exh := false } ∧ OnlyPort s t (portNamed w p)) ∧
    (q.bound = true → ∃ t, exec (.prstU w p) s = .next t ∧ t.cx.r.port (portNamed w p) = {} ∧ OnlyPort s t (portNamed w p)) ∧
    (q.bound = true → ∀ (g : BitVec 5) (n : BitVec 13),
      let k := (s.ra g).toNat + n.toNat
      ∃ t, exec (.padv w p g n) s = .next t ∧ OnlyPort s t (portNamed w p) ∧
        t.cx.r.port (portNamed w p) = if k = 0 then q else if q.pos + k ≤ q.shape.count then { q with pos := q.pos + k }
                                      else { q with pos := q.shape.count, exh := true })

/-- R187, R188: `lea` puts EA in gD and touches nothing else; `pref` changes no register and, where no line must leave the data cache for it, no
byte that any core reads; it leaves the line of a readable ordinary page in the data cache, and of a remote one asks for it. -/
def Sys2Proof.Claims.AddressFormsTouchNoMemory : Prop :=
  (∀ (s : State) (d b : BitVec 5) (o : BitVec 13), Fits s d (effective s b o 1) →
    ∃ t, exec (.lea d b o) s = .next t ∧ t.cx.r.rg d.toNat = gValue d (effective s b o 1) ∧ t.cx.r.aflags = s.cx.r.aflags ∧ WritesG d s t) ∧
  ∀ (s : State) (b : BitVec 5) (o : BitVec 13),
    let page := s.xlateEa s.xc (effective s b o 64 &&& ~~~(63 : Word)) .rd
    ∃ t, exec (.pref b o) s = .next t ∧ t.cx = s.cx ∧ t.iss = s.iss ∧ (∀ k, ¬ OnItsWay s s.cur.core k → t.byte k = s.byte k) ∧
      (Roomy s → (∀ x, page = .ok x → x.rc ≠ .remote) → (∀ k, t.byte k = s.byte k) ∧ ∀ c k, t.cachedByte c k = s.cachedByte c k) ∧
      (∀ x, page = .ok x → x.rc = .remote → t.co.dcache = s.co.dcache) ∧
      ∀ x, page = .ok x → x.rc = .ordinary → s.poisoned (x.loc / 64 * 64) 64 = false → (t.lineAt s.cur.core x.loc).isSome = true

/-! ## Engines, counters and tables -/

/-- R191 to R199: a card form that passes the checks of R194 puts its card behind the core's others with the task's next ticket and, for an
outstanding count, raises its counter; it waits where 512 are outstanding and traps where a check fails.
The model's own choices in it: logs 13, 28, 29. -/
def Obligations.CardFormsIssueTheirCard : Prop :=
  ∀ (s : State) (i : Instr) (op : CardOp) (src dst idx : Shape) (fill : Word) (k g : BitVec 5) (ken out ord : Bool),
    cardForm i s = some (op, src, dst, idx, fill, k, g, ken, out, ord) →
    let card := cardOf s op src dst idx fill k g ken out ord
    (s.cardBad s.xc card = none → s.co.cards.length < 512 →
      ∃ t, exec i s = .next t ∧ t.co.cards = s.co.cards ++ [card] ∧ t.co.cardNo = s.co.cardNo + 1 ∧ t.cx.ticket = s.cx.ticket + 1 ∧
        t.cx.r.rk k.toNat = (if ken && out then s.cx.r.rk k.toNat + 1 else s.cx.r.rk k.toNat) ∧
        (∀ n, n ≠ k.toNat → t.cx.r.rk n = s.cx.r.rk n) ∧ t.cx = { s.cx with ticket := t.cx.ticket, r := { s.cx.r with k := t.cx.r.k } } ∧ t.iss = s.iss ∧
        (∀ a, t.byte a = s.byte a) ∧ t.co.vfile = s.co.vfile ∧ t.co.dcache = s.co.dcache) ∧
    (s.cardBad s.xc card = none → 512 ≤ s.co.cards.length → exec i s = .next { s with iss := { s.iss with wait := true } }) ∧
    (s.cardBad s.xc card ≠ none → TrapsHere s → ∃ t, exec i s = .next t ∧ t.iss.trapped = true ∧ t.co.cards = s.co.cards ∧ t.cx.ticket = s.cx.ticket)

/-- R50, R204, R206: `kinc` and `kset` write their counter with wrapping, what completions of the same cycle add coming after a value that `kset` writes, and have the predicates of the die evaluated at the end of the cycle. -/
def Sys2Proof.Claims.CounterInstructionsWriteTheirCounter : Prop :=
  ∀ (s : State) (i : Instr) (k : BitVec 5) (v : BitVec 32), counterForm i s = some (k, v) →
    ∃ t, exec i s = .next t ∧ t.cx.r.rk k.toNat = v ∧ OnlyCounter s t k ∧
      t.die (coreDie s.cur.core) = { s.die (coreDie s.cur.core) with kdirty := true } ∧ ∀ d, d ≠ coreDie s.cur.core → t.die d = s.die d

/-- R201, R202, R204: a counter wait or `xsync` whose condition stands acquires: the lines in the write footprints of the completed jobs that it observes
leave the core's data cache, dirty ones being written back first, the others stay, each with the note of those footprints, for a later access may reach it
by an address in one of them (R246); one whose condition does not stand holds its bundle. -/
def Sys2Proof.Claims.CounterWaitsAcquire : Prop :=
  ∀ (s : State) (i : Instr) (c : Prop) (obs : Nat → Prop), waitForm i s = some (c, obs) →
    (c → ∃ t, exec i s = .next t ∧ (∀ l ∈ t.co.dcache, ¬ InObserved s obs l) ∧
      (∀ l ∈ s.co.dcache, l.dirty = 0 → ¬ InObserved s obs l → ∃ m ∈ t.co.dcache, m = { l with spans := m.spans } ∧ ∀ e, e ∈ m.spans ↔
        e ∈ l.spans ∨ ∃ j ∈ s.cx.jobsDone, obs j.1 ∧ e = (s.cx.y.asid.toNat % 512, j.2.1, j.2.2)) ∧ t.cx = s.cx ∧
      t.iss = s.iss ∧ t.co.vfile = s.co.vfile ∧ t.co.cards = s.co.cards ∧ ∀ a, ¬ OnItsWay s s.cur.core a → t.byte a = s.byte a) ∧
    (¬ c → exec i s = .next { s with iss := { s.iss with wait := true } })

/-- R205, R206, R209, R210: `xtrig` arms a trigger from its record, with the task record to launch, and has it evaluated at the end of the cycle, where a
trigger whose predicate holds on the counters it names is disarmed and its action due, and no other; a task has at most 64 armed. `xabort g0`
disarms those of its task and no other. -/
def Sys2Proof.Claims.TriggersArmAndDisarm : Prop :=
  (∀ (s : State) (g : BitVec 5) (bs : List Byte) (p : Pred), s.entryBytes (s.rs g) 128 = .ok bs → Pred.parse ((wordsOf 16 bs).take 8) [1, 2] = some p →
    let ws := wordsOf 16 bs
    let die := coreDie s.cur.core
    let job := s.cx.r.jobId.toNat % 1024
    let owner := (job, s.cx.t.trc.tid)
    (p.act = 1 → ((s.die die).stageOf job ((wd ws 11).toNat / 256 % 256) ((wd ws 11).toNat % 8)).isSome = true) →
    ((s.die die).trigs.filter (fun t => t.owner == owner && t.fired.isNone)).length < 64 →
    ∃ t q, exec (.xtrig g) s = .next t ∧ q ∈ (t.die die).trigs ∧ (t.die die).trigs.length = (s.die die).trigs.length + 1 ∧
      q.ks = .task die job s.cx.t.trc.tid ∧ q.owner = owner ∧ q.pred = p ∧ q.trc.coord = wd ws 8 ∧ q.trc.argp = wd ws 9 &&& 0xFFFFFFFFFFFFFF ∧
      q.trc.home = wd ws 10 &&& 0xFFFFFFFFFFFFFF ∧ q.trc.flow = (wd ws 11).toNat / 256 % 256 ∧ q.trc.stg = (wd ws 11).toNat % 8 ∧ q.trc.inl = ws.drop 12 ∧
      q.fired = none ∧ (t.die die).kdirty = true ∧ t.cx = s.cx ∧ t.iss = s.iss ∧ ∀ a, t.byte a = s.byte a) ∧
  (∀ (s : State) (g : BitVec 5) (bs : List Byte), TrapsHere s → s.entryBytes (s.rs g) 128 = .ok bs → Pred.parse ((wordsOf 16 bs).take 8) [1, 2] = none →
    ∃ t, exec (.xtrig g) s = .next t ∧ t.iss.trapped = true ∧ t.cx.r.pc = s.cx.y.tvec ∧ (t.die (coreDie s.cur.core)).trigs = (s.die (coreDie s.cur.core)).trigs) ∧
  (∀ s : State, ∃ t, exec (.xabort 0) s = .next t ∧ t.cx = s.cx ∧ t.iss = s.iss ∧ (∀ a, t.byte a = s.byte a) ∧ t.cores = s.cores ∧
    ∀ q, q ∈ (t.die (coreDie s.cur.core)).trigs ↔ q ∈ (s.die (coreDie s.cur.core)).trigs ∧
      (q.owner ≠ (s.cx.r.jobId.toNat % 1024, s.cx.t.trc.tid) ∨ q.fired.isSome = true)) ∧
  ∀ (s : State) (d : Nat), (s.dies.map (·.1)).Pairwise (· < ·) → (s.die d).kdirty = true →
    ((s.endCycle).die d).kdirty = false ∧ (s.endCycle).cores = s.cores ∧ (s.endCycle).mem = s.mem ∧
    ((s.endCycle).die d).trigs = (s.die d).trigs.map (fun q =>
      if q.fired = none ∧ (∃ m, s.kset q.ks = some m ∧ q.pred.holds m = true) then { q with fired := some s.fresh } else q)

/-- R208, R291, R292, R293: `xcoll` with a well-formed entry, handle and shapes and a destination window of its communicator posts the entry at the
end of its queue pair, with the pair's next number and, where it is matched, its next SEQ; an outstanding count raises its counter. R210, R299:
`xabort` with a handle aborts every entry of the pair that is not complete.
The model's own choices in it: logs 21, 58, 80. -/
def Obligations.CollectiveInstructionsPostAndAbort : Prop :=
  (∀ (s : State) (sh d : BitVec 4) (k g : BitVec 5) (ken out : Bool) (bs : List Byte) (pr : Pred),
    let ws := wordsOf 16 bs
    let h := wd ws 8
    let job := s.cx.r.jobId.toNat % 1024
    let die := coreDie s.cur.core
    let src := s.iss.sync.rh sh.toNat
    let dst := s.iss.sync.rh d.toNat
    let key := job * 256 + h.toNat / 2 ^ 32 % 256
    let c := s.comm die key
    let q := SMap.get {} c.qps (h.toNat % 16)
    let w9 := wd ws 9
    s.entryBytes (s.rs g) 128 = .ok bs → h.toNat / 2 ^ 48 % 1024 = job → src.cardBad = false → dst.cardBad = false → ¬ (src.rmt = true ∧ dst.rmt = true) →
    collShapesBad ws src dst c.n = false → dst.wr = true →
    Pred.parse (ws.take 8) [0, 1, 2] = some pr → pr.act = 0 → s.qphBad h job = false → workBad ws c.n = false →
    (∀ n, n < src.count → ∀ a ∈ [src.elemAddr n, src.elemAddr n + fmtBytes src.fmt - 1], 0 ≤ a → a < 2 ^ 56 → ∀ x, s.xlate s.xc a.toNat .rd = .ok x →
      x.rc = .scratch ∨ x.rc = .cluster ∨ x.rc = .ordinary) →
    (∀ lo hi, dst.footprint = some (lo, hi) → 0 ≤ lo ∧ hi < 2 ^ 56 ∧ ∀ a, lo ≤ a → a ≤ hi → ∃ x, s.xlate s.xc a.toNat .wr = .ok x ∧ x.rc = .mcast ∧
      x.aux = h.toNat / 2 ^ 32 % 256 ∧ x.loc + (min hi (a - a % 4096 + 4095) - a).toNat < c.size) →
    q.entries.length < 64 →
    ∃ t e, exec (.xcoll sh d k g ken out) s = .next t ∧ (SMap.get {} (t.comm die key).qps (h.toNat % 16)).entries.getLast? = some e ∧
      (SMap.get {} (t.comm die key).qps (h.toNat % 16)).entries.length = q.entries.length + 1 ∧
      (SMap.get {} (t.comm die key).qps (h.toNat % 16)).next = q.next + 1 ∧ e.no = q.next ∧ e.src = src ∧ e.dst = dst ∧ e.pred = pr ∧
      e.op = w9.toNat % 4 ∧ e.dest = w9.toNat / 4 % 4 ∧ e.phase = .queued ∧ e.ks = .task die job s.cx.t.trc.tid ∧
      e.seq = (if w9.toNat % 4 = 2 ∨ w9.getLsbD 4 then some q.seq else none) ∧
      t.cx.r.rk k.toNat = (if ken && out then s.cx.r.rk k.toNat + 1 else s.cx.r.rk k.toNat) ∧ OnlyCounter s t k) ∧
  ∀ (s : State) (g : BitVec 5), g ≠ 0 →
    let h := s.rs g
    let job := s.cx.r.jobId.toNat % 1024
    let key := job * 256 + h.toNat / 2 ^ 32 % 256
    s.qphBad h job = false → h.toNat / 2 ^ 48 % 1024 = job →
    ∃ t, exec (.xabort g) s = .next t ∧ t.cx = s.cx ∧ t.iss = s.iss ∧ (∀ a, t.byte a = s.byte a) ∧ t.cores = s.cores ∧
      ∀ e ∈ (SMap.get {} (t.comm (coreDie s.cur.core) key).qps (h.toNat % 16)).entries, e.phase = .aborted ∨ e.phase = .failed

/-- R211, R212, R214, R262: in its turn in the cycle, and with the clusters of its job's tables awake, which it else calls (R403), `mtins` replaces the entry of the same key, mask and priority (1), adds a new one (0), or finds the table full (−1); `mtdel`
removes the entry (0) or finds none (−2); `mtrd` writes the stored entry over its image (0) or finds none (−2). The status goes to the counter. -/
def Sys2Proof.Claims.TableInstructionsKeepTheirEntries : Prop :=
  ∀ (s : State) (k g : BitVec 5) (tn : BitVec 6) (loc : Nat) (tab : PTable) (e : PEntry), s.tableImage g tn = .ok (loc, tab, e) →
    let asleep := s.asleep (tableClusters s)
    (∀ i ∈ [Instr.mtins k g tn, .mtdel k g tn, .mtrd k g tn], asleep = true → exec i s = .next (s.callAll (tableClusters s)).hold) ∧
    (¬ InTurn s → asleep = false → ∀ i ∈ [Instr.mtins k g tn, .mtdel k g tn, .mtrd k g tn], exec i s = .next { s with iss := { s.iss with wait := true } }) ∧
    (InTurn s → asleep = false →
    let present : Prop := ∃ o ∈ tab.entries, e.same o = true
    (∃ t, exec (.mtins k g tn) s = .next t ∧ OnlyCounter s t k ∧
      (present → t.cx.r.rk k.toNat = 1 ∧ entriesOf t tn = some (tab.entries.map (fun o => if e.same o then e else o))) ∧
      (¬ present → tab.entries.length < tab.cap → t.cx.r.rk k.toNat = 0 ∧ entriesOf t tn = some (tab.entries ++ [e])) ∧
      (¬ present → tab.cap ≤ tab.entries.length → t.cx.r.rk k.toNat = BitVec.allOnes 32 ∧ entriesOf t tn = some tab.entries)) ∧
    (∃ t, exec (.mtdel k g tn) s = .next t ∧ OnlyCounter s t k ∧
      (present → t.cx.r.rk k.toNat = 0 ∧ entriesOf t tn = some (tab.entries.filter (fun o => !e.same o))) ∧
      (¬ present → t.cx.r.rk k.toNat = BitVec.ofInt 32 (-2) ∧ entriesOf t tn = some tab.entries)) ∧
    ∃ t, exec (.mtrd k g tn) s = .next t ∧ entriesOf t tn = some tab.entries ∧ t.cx = { s.cx with r := { s.cx.r with k := t.cx.r.k } } ∧
      (∀ n, n ≠ k.toNat → t.cx.r.rk n = s.cx.r.rk n) ∧ t.iss = s.iss ∧
      (∀ o, tab.entries.find? e.same = some o → t.cx.r.rk k.toNat = 0 ∧ (∀ n, n < o.image.length → t.byte (loc + n) = o.image.getD n 0) ∧
        ∀ a, ¬ (loc ≤ a ∧ a < loc + o.image.length) → t.byte a = s.byte a) ∧
      (¬ present → t.cx.r.rk k.toNat = BitVec.ofInt 32 (-2) ∧ ∀ a, t.byte a = s.byte a))

/-- R213, R250, R269, R270: an `mtreg` form changes one register of a table, or one arrival counter, by its operation, writes the old value to the
request's last doubleword and 0 to its counter; a request with a reserved bit or an index out of range traps. An add to a counter that a slot
set covers subtracts the threshold again where it is met and AUTO is set. -/
def Sys2Proof.Claims.TableRegistersChangeByTheirOperation : Prop :=
  ∀ (s : State) (i : Instr) (k g : BitVec 5) (tn : BitVec 6) (tgt addc : Bool) (f : BitVec 32 → BitVec 32 → BitVec 32 → BitVec 32) (loc : Nat) (tab : PTable)
    (p : Program), registerForm i = some (k, g, tn, tgt, addc, f) →
    s.tableReq g tn 32 32 = .ok (loc, tab, p) → InTurn s → s.asleep (tableClusters s) = false →
    let w (n : Nat) : Word := wordOf (s.bytesAt (loc + 8 * n) 8)
    let ix := (w 0).toNat
    let size := if tgt then (if carrV (p.arr (tn.toNat / 4)) then carrN (p.arr (tn.toNat / 4)) else 0) else tab.nreg
    let old : BitVec 32 := if tgt then SMap.get 0 p.cnt (tn.toNat / 4 * 65536 + ix) else SMap.get 0 tab.regs ix
    let new := f old ((w 1).setWidth 32) ((w 2).setWidth 32)
    let reserved : Prop := 2 ^ 32 ≤ (w 0).toNat ∨ 2 ^ 32 ≤ (w 1).toNat ∨ 2 ^ 32 ≤ (w 2).toNat
    (¬ reserved → ix < size → ∃ t, exec i s = .next t ∧ t.bytesAt (loc + 24) 8 = bytesOf 8 old.toNat ∧ t.cx.r.rk k.toNat = 0 ∧
      t.cx = { s.cx with r := { s.cx.r with k := t.cx.r.k } } ∧ (∀ n, n ≠ k.toNat → t.cx.r.rk n = s.cx.r.rk n) ∧ t.iss = s.iss ∧
      (addc = false → tableRegister t tn tgt ix = some new ∧ (∀ n, n ≠ ix → tableRegister t tn tgt n = tableRegister s tn tgt n)) ∧
      (addc = true → tableRegister t tn true ix = some (match p.setFor (tn.toNat / 4) ix with
        | some z => if old.toInt < ssThr z ∧ (ssThr z : Int) ≤ new.toInt ∧ ssAuto z = true then new - BitVec.ofNat 32 (ssThr z) else new
        | none => new)) ∧
      (tgt = false → ∀ a, ¬ (loc + 24 ≤ a ∧ a < loc + 32) → t.byte a = s.byte a)) ∧
    (reserved ∨ size ≤ ix → TrapsHere s → ∃ t, exec i s = .next t ∧ t.iss.trapped = true ∧ t.cx.r.pc = s.cx.y.tvec ∧ tableRegister t tn tgt ix = tableRegister s tn tgt ix)

/-! ## Atomics, phasers and Drift -/

/-- R220, R221, R248: an atomic on a bank, or on an ordinary page of which its core holds no dirty line, with no buffered write to its bytes, replaces
them by its operation and puts the old value, extended as its form says, in gV; an acquire makes its fence then, which empties the data cache, and the bundle
keeps the old value while that waits. A form ordered at a scope makes its release first: here one with nothing to write back, nothing of its core buffered and
no request unanswered. A remote atomic takes the old value that its answer brought. -/
def Sys2Proof.Claims.AtomicsReplaceTheirWord : Prop :=
  ∀ (s : State) (i : Instr) (op : AmoOp) (a v c : BitVec 5) (sc : BitVec 3) (dw sg rel acq : Bool) (x : Xl),
    atomicForm i = some (op, a, v, c, sc, dw, sg, rel, acq) →
    let n := if dw then 8 else 4
    let old := ofBytes (s.bytesAt x.loc n)
    let ext (o : Nat) : Word := if sg then (BitVec.ofNat (8 * n) o).signExtend 64 else BitVec.ofNat 64 o
    let res := ext old
    (∀ o, s.iss.amoOld = some o → acq = true → Fits s v (ext o) →
      (Acked s sc.toNat (fun _ => false) → ∃ t, exec i s = .next t ∧ t.cx.r.rg v.toNat = gValue v (ext o) ∧ (∀ m, m ≠ v.toNat → t.cx.r.rg m = s.cx.r.rg m) ∧
        t.cx.r = { s.cx.r with g := t.cx.r.g } ∧ t.iss = { s.iss with amoOld := none } ∧ t.co.dcache = [] ∧ t.co.vfile = s.co.vfile ∧
        ∀ k, ¬ OnItsWay s s.cur.core k → t.byte k = s.byte k)) ∧ (s.iss.amoOld = none →
    let new := atomicNew op (8 * n) sg old ((s.rs v).toNat % 2 ^ (8 * n)) ((s.rs c).toNat % 2 ^ (8 * n))
    (a = 30 → ¬ s.rs a < s.cx.r.slim) → (s.rs a).toNat % n = 0 → s.amoTarget (s.rs a) n = .ok x → (rel = true → Released s) →
    ((rel = true ∨ acq = true) → Drained s ∧ s.unacked s.cur.core sc.toNat = false) →
    (x.rc ≠ .remote → NothingInFlight s x.loc n → (∀ l ∈ s.co.dcache, l.loc / 64 = x.loc / 64 ∨ (l.loc < x.loc + n ∧ x.loc < l.loc + 64) → l.dirty = 0) → Fits s v res →
    ∃ t, exec i s = .next t ∧ t.bytesAt x.loc n = bytesOf n new ∧ (∀ k, ¬ (x.loc ≤ k ∧ k < x.loc + n) → ¬ OnItsWay s s.cur.core k → t.byte k = s.byte k) ∧
      t.cx.r.rg v.toNat = gValue v res ∧ (∀ m, m ≠ v.toNat → t.cx.r.rg m = s.cx.r.rg m) ∧ t.cx.r = { s.cx.r with g := t.cx.r.g } ∧ t.iss = s.iss ∧
      t.co.vfile = s.co.vfile ∧ (acq = true → t.co.dcache = [])) ∧
    ∀ bs, x.rc = .remote → rel = false → acq = false → s.iss.resp = some (.data bs) →
      let got : Word := if sg then (BitVec.ofNat (8 * n) (ofBytes (bs.take n))).signExtend 64 else BitVec.ofNat 64 (ofBytes (bs.take n))
      Fits s v got → ∃ t, exec i s = .next t ∧ t.cx.r.rg v.toNat = gValue v got ∧ (∀ m, m ≠ v.toNat → t.cx.r.rg m = s.cx.r.rg m) ∧
        t.cx.r = { s.cx.r with g := t.cx.r.g } ∧ t.iss = { s.iss with resp := none, req := none } ∧ ∀ k, t.byte k = s.byte k)

/-- R62, R172, R173, R220: an atomic with base g30 below SLIM, a misaligned address, or an address that does not lead to SRAM, an ordinary page or
a remote window traps before any byte or register is written. -/
def Sys2Proof.Claims.AtomicsCheckTheirAddress : Prop :=
  ∀ (s : State) (i : Instr) (op : AmoOp) (a v c : BitVec 5) (sc : BitVec 3) (dw sg rel acq : Bool), atomicForm i = some (op, a, v, c, sc, dw, sg, rel, acq) →
    rel = false → s.iss.amoOld = none → TrapsHere s →
    ((a = 30 ∧ s.rs a < s.cx.r.slim) ∨ (s.rs a).toNat % (if dw then 8 else 4) ≠ 0 ∨ ∃ b, s.amoTarget (s.rs a) (if dw then 8 else 4) = .error b ∧ b.1 / 256 ≠ 0x0F) →
    ∃ t, exec i s = .next t ∧ t.iss.trapped = true ∧ t.cx.y.level = 1 ∧ t.cx.r = { s.cx.r with pc := s.cx.y.tvec } ∧ t.co.vfile = s.co.vfile

/-- R222, R223: a vector atomic whose lanes go to separate words of a bank replaces the word of every enabled lane that LMASK does not say is
applied already, in that word's lane puts the old value, and marks the lane applied; other words and lanes stand. With no lane enabled nothing
happens. -/
def Sys2Proof.Claims.VectorAtomicsApplyTheirLanes : Prop :=
  ∀ (s : State) (i : Instr) (op : AmoOp) (a : BitVec 5) (v : BitVec 6) (sc : BitVec 3) (sg rel acq ix : Bool),
    vectorAtomic i = some (op, a, v, sc, sg, rel, acq, ix) →
    let ea (l : Nat) : Word := if ix then s.rs a + BitVec.ofInt 64 (4 * (rowLatched s (v.toNat + 1) l).toInt) else s.rs a + BitVec.ofNat 64 (4 * l)
    let todo (l : Nat) : Prop := Enabled s l ∧ s.iss.lmask.getLsbD l = false
    let cmp (l : Nat) : Nat := (rowLatched s (v.toNat + if ix then 2 else 1) l).toNat
    ((∀ l, ¬ Enabled s l) → exec i s = .next s) ∧
    (∀ X : Nat → Xl, (∃ l, Enabled s l) → rel = false → acq = false → a ≠ 30 → (s.rs a).toNat % 4 = 0 →
      (∀ l, todo l → s.amoTarget (ea l) 4 = .ok (X l) ∧ Direct (X l) ∧ NothingInFlight s (X l).loc 4) →
      (∀ l m, todo l → todo m → l ≠ m → (X l).loc + 4 ≤ (X m).loc ∨ (X m).loc + 4 ≤ (X l).loc) →
      let old (l : Nat) : Nat := ofBytes (s.bytesAt (X l).loc 4)
      ∃ t, exec i s = .next t ∧ t.cx = s.cx ∧ t.iss = { s.iss with lmask := t.iss.lmask } ∧
        (∀ n, n < 64 → (t.iss.lmask.getLsbD n = true ↔ s.iss.lmask.getLsbD n = true ∨ todo n)) ∧
        (∀ l, todo l → t.bytesAt (X l).loc 4 = bytesOf 4 (atomicNew op 32 sg (old l) (rowLatched s v.toNat l).toNat (cmp l))) ∧
        (∀ k, (∀ l, todo l → ¬ ((X l).loc ≤ k ∧ k < (X l).loc + 4)) → t.byte k = s.byte k) ∧
        (∀ l k, todo l → vkey s.cx.t.vb s.cur.ctx v.toNat l = some k → SMap.get 0 t.co.vfile k = BitVec.ofNat 32 (old l)) ∧
        ∀ k, (∀ l, todo l → vkey s.cx.t.vb s.cur.ctx v.toNat l ≠ some k) → SMap.get 0 t.co.vfile k = SMap.get 0 s.co.vfile k) ∧
    ((∃ l, Enabled s l) → a ≠ 30 → (s.rs a).toNat % 4 ≠ 0 → TrapsHere s → ∃ t, exec i s = .next t ∧ t.iss.trapped = true ∧ t.cx.r = { s.cx.r with pc := s.cx.y.tvec } ∧
      t.co.vfile = s.co.vfile)

/-- R224, R239, R243, R251: a fence with nothing to wait for completes at once: it writes the data cache back where it says so and empties it where it
says so; no register changes; from die scope on no write of the core stays in its cluster's buffer, from module scope on none in its die's
station. A fence that awaits a remote write not yet acknowledged holds its bundle. -/
def Sys2Proof.Claims.FencesOrderTheirScope : Prop :=
  ∀ (s : State) (sc : BitVec 3) (wb inv : Bool),
    (Acked s sc.toNat (fun _ => wb) → ∃ t, exec (.fence sc wb inv) s = .next t ∧ t.cx = s.cx ∧ t.iss = s.iss ∧ t.co.vfile = s.co.vfile ∧
      (inv = true → t.co.dcache = []) ∧ (wb = true → ∀ l ∈ t.co.dcache, l.dirty = 0) ∧ (wb = false → inv = false → t.co.dcache = s.co.dcache) ∧
      (∀ a, ¬ OnItsWay s s.cur.core a → t.byte a = s.byte a) ∧
      (wb = true ∨ inv = false → 2 ≤ sc.toNat → isSystem s.cur.core = false → ∀ w ∈ (t.cluster (coreCluster s.cur.core)).buffer, w.core ≠ s.cur.core) ∧
      (wb = true ∨ inv = false → 3 ≤ sc.toNat → ∀ w ∈ (t.die (coreDie s.cur.core)).station, w.core ≠ s.cur.core)) ∧
    ((∃ r ∈ (s.die (coreDie s.cur.core)).window, r.origin.1 = 2 ∧ r.origin.2.1 = s.cur.core ∧ (3 ≤ sc.toNat ∨ sc.toNat = 2 ∧ r.pkt.dst = coreDie s.cur.core)) →
      ∃ t, exec (.fence sc wb inv) s = .next t ∧ t.iss = { s.iss with wait := true } ∧ t.cx = s.cx)

/-- R225, R226: `bind` adds a region with its handle to the table, unless the same entry stands there; a misaligned base or length, a bad handle, a
region of another handle that overlaps, and a full table trap. `unbind` removes the entries of a base. -/
def Obligations.BindingTableHoldsItsRegions : Prop :=
  decodeSlot .Y 0x00000413 = .ok (.unbind 4) ∧
  (∀ (s : State) (a l : BitVec 5) (b : BitVec 6),
    let base := s.rs a
    let len := s.rs l
    let shaped : Prop := base.toNat % 64 = 0 ∧ len.toNat % 64 = 0 ∧ len ≠ 0 ∧ len.toNat ≤ 2 ^ 40
    let apart : Prop := ∀ t ∈ s.cx.r.binds, t.h ≠ b.toNat → ¬ (base.toNat < t.base.toNat + t.len.toNat ∧ t.base.toNat < base.toNat + len.toNat)
    (shaped → s.handleBad b = false → apart → s.cx.r.binds.length < 16 ∨ ⟨base, len, b.toNat⟩ ∈ s.cx.r.binds →
      ∃ t, exec (.bind a l b) s = .next t ∧ KeepsAllButRegs s t ∧ t.iss = s.iss ∧
        t.cx.r = { s.cx.r with binds := if (⟨base, len, b.toNat⟩ : Bind) ∈ s.cx.r.binds then s.cx.r.binds else s.cx.r.binds ++ [⟨base, len, b.toNat⟩] }) ∧
    (TrapsHere s → ¬ shaped ∨ s.handleBad b = true ∨ ¬ apart ∨ (16 ≤ s.cx.r.binds.length ∧ ⟨base, len, b.toNat⟩ ∉ s.cx.r.binds) →
      ∃ t, exec (.bind a l b) s = .next t ∧ t.iss.trapped = true ∧ t.cx.r = { s.cx.r with pc := s.cx.y.tvec })) ∧
  ∀ (s : State) (a : BitVec 5), ∃ t, exec (.unbind a) s = .next t ∧ KeepsAllButRegs s t ∧ t.iss = s.iss ∧
    t.cx.r = { s.cx.r with binds := s.cx.r.binds.filter (fun e => e.base != s.rs a) }

/-- R51, R218, R227, R228: `preg` with a name of the job whose scope holds the core adds a member at the phaser's phase and puts the name with V and
the mode in its handle; `pdrop` removes the member, lets the phaser advance, and clears the handle. Other handles and members stand. For a
phaser of another die both ask its sync engine in a SYNC packet and end when it has answered (that packet is the model's choice, log 26). -/
def Sys2Proof.Claims.PhaserMembershipFollowsItsHandle : Prop :=
  (∀ (s : State) (p : BitVec 5) (b : BitVec 6) (m : BitVec 2) (f : Phaser),
    let nm := s.rs p
    (SMap.get 0 s.co.handles b.toNat).getLsbD 63 = false → nm.getLsbD 63 = false → nm.toNat / 2 ^ 58 % 4 = 0 → nm.toNat / 2 ^ 60 % 8 ≤ 4 →
    nm.toNat / 2 ^ 48 % 1024 = s.cx.r.jobId.toNat % 1024 → s.phaser (nm.toNat % 2 ^ 48) = some f → f.job = s.cx.r.jobId.toNat % 1024 →
    f.scope = nm.toNat / 2 ^ 60 % 8 → inScope f.scope s.cur.core f.obj = true → f.members.length < 65535 → Here s f →
    ∃ t, exec (.preg p b m) s = .next t ∧ t.cx = s.cx ∧ t.iss = s.iss ∧ (∀ a, t.byte a = s.byte a) ∧
      SMap.get 0 t.co.handles b.toNat = nm ||| (1#64 <<< 63) ||| (m.setWidth 64 <<< 58) ∧
      (∀ n, n ≠ b.toNat → SMap.get 0 t.co.handles n = SMap.get 0 s.co.handles n) ∧
      t.phaser f.obj = some (withMembers f (f.members ++ [{ core := s.cur.core, h := b.toNat, mode := m.toNat, m := f.p }]))) ∧
  (∀ (s : State) (p : BitVec 5) (b : BitVec 6) (m : BitVec 2), TrapsHere s → (SMap.get 0 s.co.handles b.toNat).getLsbD 63 = true →
    ∃ t, exec (.preg p b m) s = .next t ∧ t.iss.trapped = true ∧ t.cx.r.pc = s.cx.y.tvec ∧ t.co.handles = s.co.handles) ∧
  (∀ (s : State) (p : BitVec 5) (b : BitVec 6) (m : BitVec 2), AsksFar s (.preg p b m) ∧ AsksFar s (.pdrop b)) ∧
  (∀ (s : State) (p : BitVec 5) (b : BitVec 6) (m : BitVec 2) (st : Nat) (v : Word), s.iss.resp = some (.sync st v) →
    (FarGood s (.preg p b m) b (s.rs p) → st = 0 → ∃ t, exec (.preg p b m) s = .next t ∧ t.cx = s.cx ∧ EndsFar s t ∧ (∀ a, t.byte a = s.byte a) ∧
      SMap.get 0 t.co.handles b.toNat = s.rs p ||| (1#64 <<< 63) ||| (m.setWidth 64 <<< 58) ∧
      ∀ n, n ≠ b.toNat → SMap.get 0 t.co.handles n = SMap.get 0 s.co.handles n) ∧
    (FarGood s (.preg p b m) b (s.rs p) → st ≠ 0 → TrapsHere s → ∃ t, exec (.preg p b m) s = .next t ∧ t.iss.trapped = true ∧ t.co.handles = s.co.handles) ∧
    (FarGood s (.pdrop b) b (SMap.get 0 s.co.handles b.toNat) → ∃ t, exec (.pdrop b) s = .next t ∧ t.cx = s.cx ∧ EndsFar s t ∧ (∀ a, t.byte a = s.byte a) ∧
      SMap.get 0 t.co.handles b.toNat = 0 ∧ ∀ n, n ≠ b.toNat → SMap.get 0 t.co.handles n = SMap.get 0 s.co.handles n)) ∧
  ∀ (s : State) (b : BitVec 6) (f : Phaser) (m : Member), MemberOf s b [0, 1, 2] f m → Here s f →
    ∃ t, exec (.pdrop b) s = .next t ∧ t.cx = s.cx ∧ t.iss = s.iss ∧ (∀ a, t.byte a = s.byte a) ∧ SMap.get 0 t.co.handles b.toNat = 0 ∧
      (∀ n, n ≠ b.toNat → SMap.get 0 t.co.handles n = SMap.get 0 s.co.handles n) ∧
      t.phaser f.obj = some (withMembers f (f.members.filter (fun m => !(m.core == s.cur.core && m.h == b.toNat))))

/-- R217, R227, R229, R230: `psig` of a member that stands at its phaser's phase signals once its release, here one with no remote write to await, is
made, and else waits for that phase; `pwait` whose target is reached acquires the lines bound to its handle, and else waits attached; `psw`
signals and then waits for the next phase, once only where its member has signalled for it before a save. A bundle that waits goes on when its wait has been
satisfied, whatever the phaser does since. At a phaser of another die the same goes in SYNC packets (the model's choice, log 26). -/
def Sys2Proof.Claims.PhaserSignalsAndWaits : Prop :=
  (∀ (s : State) (b : BitVec 6) (f : Phaser) (m : Member), MemberOf s b [0, 2] f m → s.iss.phase = none → Here s f →
    (m.m = f.p → Acked s ((SMap.get 0 s.co.handles b.toNat).toNat / 2 ^ 60 % 8) (s.bound b) →
      ∃ t, exec (.psig b) s = .next t ∧ t.phaser f.obj = some (signalled f s.cur.core b) ∧ t.cx = s.cx ∧ t.iss = s.iss ∧ t.co.handles = s.co.handles ∧
        (∀ l ∈ t.co.dcache, s.bound b l = true → l.dirty = 0) ∧ ∀ a, ¬ OnItsWay s s.cur.core a → t.byte a = s.byte a) ∧
    (¬ reached f.p m.m → ∃ t, exec (.psig b) s = .next t ∧ WaitsFor s t f m.m ∧ t.cx = s.cx)) ∧
  (∀ (s : State) (g : BitVec 5) (b : BitVec 6) (f : Phaser) (m : Member), MemberOf s b [1, 2] f m → s.iss.phase = none → Here s f →
    (reached f.p ((s.rs g).setWidth 16) → ∃ t, exec (.pwait g b) s = .next t ∧ t.cx = s.cx ∧ t.iss = s.iss ∧ t.phaser f.obj = some f ∧
      ∀ l ∈ t.co.dcache, s.bound b l = false) ∧
    (¬ reached f.p ((s.rs g).setWidth 16) → ∃ t, exec (.pwait g b) s = .next t ∧ WaitsFor s t f ((s.rs g).setWidth 16) ∧ t.cx = s.cx)) ∧
  (∀ (s : State) (b : BitVec 6) (f : Phaser) (m : Member), MemberOf s b [2] f m → s.iss.phase = none → s.iss.target = none → Here s f →
    (∀ o, m.owed = some (s.cx.t.trc.tid, o) → ¬ reached f.p o → ∃ t, exec (.psw b) s = .next t ∧ t.cx = s.cx ∧ t.iss.target = some o ∧ t.iss.wait = true ∧
      t.iss.att = true ∧ t.iss.phase = some f.obj ∧ t.phaser f.obj = some { f with
        members := f.members.map (fun m => if m.core == s.cur.core && m.h == b.toNat then { m with owed := none } else m),
        waits := f.waits ++ [{ core := s.cur.core, ctx := s.cur.ctx, target := o }] }) ∧
    (m.owed = none → m.m = f.p → Acked s ((SMap.get 0 s.co.handles b.toNat).toNat / 2 ^ 60 % 8) (s.bound b) →
    let f' := signalled f s.cur.core b
    ∃ t, exec (.psw b) s = .next t ∧ t.cx = s.cx ∧ t.iss.target = some (m.m + 1) ∧
      (reached f'.p (m.m + 1) → t.phaser f.obj = some f' ∧ t.iss.wait = s.iss.wait ∧ ∀ l ∈ t.co.dcache, s.bound b l = false) ∧
      (¬ reached f'.p (m.m + 1) → WaitsFor s t f' (m.m + 1)))) ∧
  (∀ (s : State) (b : BitVec 6) (g : BitVec 5), ∀ i ∈ [Instr.psig b, .pwait g b, .psw b], AsksFar s i) ∧
  (∀ (s : State) (b : BitVec 6) (g : BitVec 5) (st : Nat) (v : Word), s.iss.resp = some (.sync st v) →
    let h := SMap.get 0 s.co.handles b.toNat
    let room := (s.die (coreDie s.cur.core)).window.length < 256
    let same := v.extractLsb' 16 16 = v.extractLsb' 0 16
    (FarGood s (.psig b) b h → s.iss.phase = none → s.iss.sy = 2 → ∃ t, exec (.psig b) s = .next t ∧ t.cx = s.cx ∧ EndsFar s t) ∧
    (FarGood s (.psw b) b h → s.iss.phase = none → s.iss.sy = 2 → room → ∃ t, exec (.psw b) s = .next t ∧ SentFar s t 5 0 3 b h (s.iss.target.getD 0)) ∧
    (st = 0 → s.iss.phase = none → s.iss.sy = 1 → room → ∀ i ∈ [Instr.psig b, .psw b], FarGood s i b h →
      (same → (∀ l ∈ s.co.dcache, s.bound b l = true → l.dirty = 0) → Drained s → s.unacked s.cur.core (h.toNat / 2 ^ 60 % 8) = false →
        ∃ t, exec i s = .next t ∧ SentFar s t 4 0 2 b h 0 ∧ t.iss.target = (if i = .psig b then none else some (v.extractLsb' 16 16 + 1)) ∧
          ∀ a, t.byte a = s.byte a) ∧
      (¬ same → ∃ t, exec i s = .next t ∧ SentFar s t 5 0 3 b h (v.extractLsb' 16 16) ∧ ∀ a, t.byte a = s.byte a)) ∧
    (st ≠ 1 → s.iss.phase ≠ none → ∀ i ∈ [Instr.pwait g b, .psw b], FarGood s i b h →
      ∃ t, exec i s = .next t ∧ t.cx = s.cx ∧ EndsFar s t ∧ (∀ l ∈ t.co.dcache, s.bound b l = false) ∧ ∀ a, ¬ OnItsWay s s.cur.core a → t.byte a = s.byte a)) ∧
  (∀ (s : State) (b : BitVec 6) (g : BitVec 5) (obj : Nat) (f : Phaser), s.iss.phase = some obj → s.phaser obj = some f →
    objDie ((SMap.get 0 s.co.handles b.toNat).toNat % 2 ^ 48) = coreDie s.cur.core →
    ((∃ w ∈ f.waits, w.core = s.cur.core ∧ w.ctx = s.cur.ctx ∧ w.met = true) → ∀ i ∈ [Instr.pwait g b, .psw b],
      ∃ t, exec i s = .next t ∧ t.cx = s.cx ∧ t.iss = { s.iss with phase := none } ∧ ∀ l ∈ t.co.dcache, s.bound b l = false) ∧
    (¬ (∃ w ∈ f.waits, w.core = s.cur.core ∧ w.ctx = s.cur.ctx ∧ w.met = true) → ∀ i ∈ [Instr.psig b, .pwait g b, .psw b],
      exec i s = .next { s with iss := { s.iss with wait := true, att := true } })) ∧
  ∀ (s : State) (b : BitVec 6) (g : BitVec 5), TrapsHere s → s.iss.phase = none → (SMap.get 0 s.co.handles b.toNat).getLsbD 63 = false →
    ∀ i ∈ [Instr.psig b, .pwait g b, .psw b, .pdrop b], ∃ t, exec i s = .next t ∧ t.iss.trapped = true ∧ t.cx.r.pc = s.cx.y.tvec ∧ t.co.handles = s.co.handles

/-- R231: `pquery` reads a handle; `pquery.phase` reads the phase, the member's phase and the number of signalling members, those of a phaser of another die in
SYNC packets (the model's choice, log 26). A handle that R51 refuses is a footprint fault of the `.phase` form only.
The model's own choices in it: log 26. -/
def Obligations.PhaserQueriesReadTheirState : Prop :=
  decodeSlot .Y 0x0400661D = .ok (.pqueryPhase 6 3) ∧
  (∀ (s : State) (d : BitVec 5) (b : BitVec 6), Fits s d (SMap.get 0 s.co.handles b.toNat) →
    ∃ t, exec (.pquery d b) s = .next t ∧ t.cx.r.rg d.toNat = gValue d (SMap.get 0 s.co.handles b.toNat) ∧ t.cx.r.aflags = s.cx.r.aflags ∧ WritesG d s t) ∧
  (∀ (s : State) (d : BitVec 5) (b : BitVec 6) (f : Phaser) (m : Member), MemberOf s b [0, 1, 2] f m → Here s f →
    let v : Word := f.p.setWidth 64 ||| (m.m.setWidth 64 <<< 16) |||
      ((BitVec.ofNat 16 (f.members.filter (fun m => m.mode == 0 || m.mode == 2)).length).setWidth 64 <<< 32)
    Fits s d v → ∃ t, exec (.pqueryPhase d b) s = .next t ∧ t.cx.r.rg d.toNat = gValue d v ∧ t.cx.r.aflags = s.cx.r.aflags ∧
      (∀ n, n ≠ d.toNat → t.cx.r.rg n = s.cx.r.rg n) ∧ (∀ a, t.byte a = s.byte a) ∧ t.phaser f.obj = some f ∧
      WritesG d s t) ∧
  (∀ (s : State) (d : BitVec 5) (b : BitVec 6), AsksFar s (.pqueryPhase d b)) ∧
  (∀ (s : State) (d : BitVec 5) (b : BitVec 6) (st : Nat) (v : Word), s.iss.resp = some (.sync st v) → st ≠ 1 →
    FarGood s (.pqueryPhase d b) b (SMap.get 0 s.co.handles b.toNat) → Fits s d (v &&& 0xFFFFFFFFFFFF) →
    ∃ t, exec (.pqueryPhase d b) s = .next t ∧ t.cx.r.rg d.toNat = gValue d (v &&& 0xFFFFFFFFFFFF) ∧ (∀ n, n ≠ d.toNat → t.cx.r.rg n = s.cx.r.rg n) ∧
      (∀ a, t.byte a = s.byte a) ∧ EndsFar s t ∧ t.cx.r = { s.cx.r with g := t.cx.r.g }) ∧
  ∀ (s : State) (d : BitVec 5) (b : BitVec 6), TrapsHere s →
    let h := SMap.get 0 s.co.handles b.toNat
    (h.getLsbD 63 = false ∨ h.toNat / 2 ^ 48 % 1024 ≠ s.cx.r.jobId.toNat % 1024 ∨ h.toNat / 2 ^ 58 % 4 = 3) →
    ∃ t, exec (.pqueryPhase d b) s = .next t ∧ t.iss.trapped = true ∧ t.cx.y.level = 1 ∧ t.cx.r = { s.cx.r with pc := s.cx.y.tvec }

/-- R232: `waita` on an aligned readable word that differs already from gV gives status 0 and acquires; one that does not waits, watched, or gives
status 1 where its cluster has 64 waits; once the word has changed it completes with status 0. -/
def Sys2Proof.Claims.WaitOnAddressEndsOnAChange : Prop :=
  (∀ (s : State) (a v d : BitVec 5) (x : Xl),
    let ea := s.rs a
    let word := wordOf (s.bytesAt x.loc 8)
    let here := s.watches.filter (fun w => w.cluster == coreCluster s.cur.core)
    (∀ w ∈ s.watches, ¬ (w.core = s.cur.core ∧ w.ctx = s.cur.ctx)) → (a = 30 → ¬ ea < s.cx.r.slim) → ea.toNat % 8 = 0 → s.xlElem .rd 8 ea = .ok x →
    (x.rc = .scratch ∨ x.rc = .cluster ∨ x.rc = .ordinary) → s.poisoned x.loc 8 = false → Fits s d 0 → Fits s d 1 →
    (word ≠ s.rs v → ∃ t, exec (.waita a v d) s = .next t ∧ t.cx.r.rg d.toNat = gValue d 0 ∧ (∀ m, m ≠ d.toNat → t.cx.r.rg m = s.cx.r.rg m) ∧
      t.iss = s.iss ∧ t.co.dcache = []) ∧
    (word = s.rs v → 64 ≤ here.length → ∃ t, exec (.waita a v d) s = .next t ∧ t.cx.r.rg d.toNat = gValue d 1 ∧ t.watches = s.watches) ∧
    (word = s.rs v → here.length < 64 → ∃ t, exec (.waita a v d) s = .next t ∧ t.cx = s.cx ∧ t.iss = { s.iss with wait := true } ∧
      t.watches = s.watches ++ [{ cluster := coreCluster s.cur.core, core := s.cur.core, ctx := s.cur.ctx, addr := x.loc, val := s.rs v }])) ∧
  ∀ (s : State) (a v d : BitVec 5) (w : Watch), s.watches.find? (fun w => w.core == s.cur.core && w.ctx == s.cur.ctx) = some w → Fits s d 0 →
    (w.fired = true → ∃ t, exec (.waita a v d) s = .next t ∧ t.cx.r.rg d.toNat = gValue d 0 ∧
      ∀ u ∈ t.watches, ¬ (u.core = s.cur.core ∧ u.ctx = s.cur.ctx)) ∧
    (w.fired = false → exec (.waita a v d) s = .next { s with iss := { s.iss with wait := true } })

/-- R218, R233, R234, R332: a Drift instruction on a Drift page that its kind may access sends its tuple or key, its mode and its scope to the die of its
region, once, and waits; the reply brings its status to gM and, for a copy or take that succeeds, the tuple to lanes 0 to 15 of its row, with an
acquire; a fault reply is the fault of group 0x0B. A deposit makes its release first: here one with nothing to write back and nothing buffered.
The model's own choices in it: logs 13, 76. -/
def Obligations.DriftInstructionsSendAndTakeTheirReply : Prop :=
  (∀ (s : State) (i : Instr) (kind : Nat) (park : Bool) (a : BitVec 5) (v : BitVec 6) (m : BitVec 5) (sc : BitVec 3) (x : Xl),
    driftForm i = some (kind, park, a, v, m, sc) → s.iss.resp = none → s.iss.sent = false → (a = 30 → ¬ s.rs a < s.cx.r.slim) →
    s.xlateEa s.xc (s.rs a) (if kind = 0 then .rd else if kind = 1 then .at else .wr) = .ok x → x.rc = .drift → (kind ≠ 2 → (s.rs m).toNat % 4 = 1) →
    (kind = 2 → Released s ∧ Drained s ∧ s.unacked s.cur.core sc.toNat = false) → (s.die (coreDie s.cur.core)).window.length < 256 →
    let key := (List.range 8).map (fun w => (rowLatched s v.toNat (2 * w)).setWidth 64 ||| ((rowLatched s v.toNat (2 * w + 1)).setWidth 64 <<< 32))
    let r : DReq := { kind := kind, park := park, rgn := x.rkey, job := s.cx.r.jobId.toNat % 1024, tuple := key,
                      mode := if kind = 2 then 0 else (s.rs m).toNat % 2 ^ 16, core := s.cur.core, ctx := s.cur.ctx, scope := sc.toNat }
    let n := SMap.get 0 (s.die (coreDie s.cur.core)).seqOut (x.aux * 8 + 6)
    ∃ t, exec i s = .next t ∧ Made s t (coreDie s.cur.core) { r.packet x.aux with seq := n, src := coreDie s.cur.core } ∧ t.cx = s.cx ∧
      t.iss = { s.iss with sent := true, wait := true, att := s.iss.att || park, req := some (x.aux, 6, n) } ∧ t.co.vfile = s.co.vfile ∧
      ∀ a, ¬ OnItsWay s s.cur.core a → t.byte a = s.byte a) ∧
  (∀ (s : State) (i : Instr) (kind : Nat) (park : Bool) (a : BitVec 5) (v : BitVec 6) (m : BitVec 5) (sc : BitVec 3) (st : Nat) (tuple : List Word),
    driftForm i = some (kind, park, a, v, m, sc) → s.iss.resp = some (.drift st tuple) →
    (kind ≠ 2 → st = 0 → Acked s sc.toNat (fun _ => false)) → Fits s m (BitVec.ofNat 64 st) →
    ∃ t, exec i s = .next t ∧ t.cx.r.rg m.toNat = gValue m (BitVec.ofNat 64 st) ∧ (∀ n, n ≠ m.toNat → t.cx.r.rg n = s.cx.r.rg n) ∧
      t.iss = { s.iss with sent := false, resp := none, att := false, req := none } ∧ (kind ≠ 2 → st = 0 → t.co.dcache = []) ∧
      (kind ≠ 2 → st = 0 → ∀ w k, w < 16 → vkey s.cx.t.vb s.cur.ctx v.toNat w = some k → SMap.get 0 t.co.vfile k = (wd tuple (w / 2)).extractLsb' (32 * (w % 2)) 32) ∧
      (kind = 2 ∨ st ≠ 0 → t.co.vfile = s.co.vfile ∧ ∀ a, t.byte a = s.byte a)) ∧
  (∀ (s : State) (i : Instr) (kind : Nat) (park : Bool) (a : BitVec 5) (v : BitVec 6) (m : BitVec 5) (sc : BitVec 3),
    driftForm i = some (kind, park, a, v, m, sc) → s.iss.resp = none → s.iss.sent = true →
    exec i s = .next { s with iss := { s.iss with wait := true } }) ∧
  ∀ (s : State) (i : Instr) (kind : Nat) (park : Bool) (a : BitVec 5) (v : BitVec 6) (m : BitVec 5) (sc : BitVec 3) (k : Nat),
    driftForm i = some (kind, park, a, v, m, sc) → s.iss.resp = some (.driftFault k) → k < 256 → TrapsHere s →
    ∃ t, exec i s = .next t ∧ t.iss.trapped = true ∧ t.cx.y.level = 1 ∧ t.cx.r = { s.cx.r with pc := s.cx.y.tvec } ∧ t.co.vfile = s.co.vfile

/-! ## The dispatcher -/

/-- R29 to R32: a greater write index is taken, one past the ring halts the queue; a cleared halt lets it run again, reading its packet afresh, and a write that
clears none does nothing. A packet in front of a queue
writes one record for each coordinate and is consumed: its TYPE becomes zero and UQ_RIDX moves on; a fence-only one writes no record. Once all
its tasks have ended its completion value is stored (here in its module's memory), or the event says that it could not be.
The model's own choices in it: logs 61, 62, 92. -/
def Obligations.UserQueuesTakeTheirPackets : Prop :=
  (∀ (s : State) (die q : Nat) (v : Word), (s.die die).users.has q = true →
    let u := queueOf s die q
    (v ≤ u.widx → exec (.uqWidxWrite die q v) s = .next s) ∧
    (u.widx < v → v.toNat ≤ u.ridx.toNat + u.size.toNat → ∃ t, exec (.uqWidxWrite die q v) s = .next t ∧ OnlyQueue die q s t ∧
      queueOf t die q = { u with widx := v, status := statusWith (u.status &&& 0xE) u.ridx v }) ∧
    (u.widx < v → u.ridx.toNat + u.size.toNat < v.toNat → ∃ t, exec (.uqWidxWrite die q v) s = .next t ∧
      queueOf t die q = { u with widx := v, status := (u.status &&& 0xE) ||| 4 })) ∧
  (∀ (s : State) (die q : Nat) (mask : Word), (s.die die).users.has q = true →
    let u := queueOf s die q
    let halts := u.status &&& 0xE &&& ~~~mask
    (u.status &&& mask &&& 0xE = 0 → exec (.uqHaltClear die q mask) s = .next s) ∧ (u.status &&& mask &&& 0xE ≠ 0 →
    (halts ≠ 0 → ∃ t, exec (.uqHaltClear die q mask) s = .next t ∧ OnlyQueue die q s t ∧ queueOf t die q = { u with status := halts }) ∧
    (halts = 0 → u.widx.toNat ≤ u.ridx.toNat + u.size.toNat → ∃ t, exec (.uqHaltClear die q mask) s = .next t ∧ OnlyQueue die q s t ∧
      queueOf t die q = { afresh u with status := statusWith 0 u.ridx u.widx }) ∧
    (halts = 0 → u.ridx.toNat + u.size.toNat < u.widx.toNat → ∃ t, exec (.uqHaltClear die q mask) s = .next t ∧ queueOf t die q = { afresh u with status := 4 }))) ∧
  (∀ (s : State) (die q cl : Nat) (x : Xl) (ws : List Word), PacketReady s die q ws →
    let u := queueOf s die q
    let launch := bits (wd ws 0) 7 0 = 1
    let sub (d : Die) : SubQ := d.subq u.job (bits (wd ws 0) 23 16) (bits (wd ws 0) 26 24) cl
    s.unitXl (u.xc die) (frontVa u) .wr = some x → x.rc ≠ .remote → StationClear s die x.loc 1 →
    (launch → (s.die die).clOf u.job = [cl] ∧ (s.die die).actionsDue = false ∧ (sub (s.die die)).recs.length + pktTotal ws ≤ (sub (s.die die)).size ∧
      (s.die die).spilled u.job (bits (wd ws 0) 23 16) (bits (wd ws 0) 26 24) cl = false) →
    ∃ t, exec (if launch then .launch die q else .fenceOnly die q) s = .next t ∧ t.dieByte die x.loc = 0 ∧
      (∀ a, a ≠ x.loc → t.byte a = s.byte a ∧ t.dieByte die a = s.dieByte die a) ∧ (queueOf t die q).ridx = u.ridx + 1 ∧ (queueOf t die q).widx = u.widx ∧ t.cores = s.cores ∧ t.clusters = s.clusters ∧
      (∃ l ∈ (queueOf t die q).live, l.idx = u.ridx.toNat ∧ l.consumed = true ∧ l.tasks = (if launch then pktTotal ws else 0) ∧ l.done = 0) ∧
      (¬ launch → (t.die die).subqs = (s.die die).subqs) ∧
      (launch → ∃ new, (sub (t.die die)).recs = (sub (s.die die)).recs ++ new ∧ new.length = pktTotal ws ∧
        ∀ n r, new[n]? = some r → r.coord = pktCoord ws n ∧ r.argp = wd ws 3 ∧ r.inl = [wd ws 6, wd ws 7, 0, 0] ∧ r.tid = (s.die die).records + n ∧
          r.pkt = some (q, u.ridx.toNat) ∧ r.orig = 0)) ∧
  ∀ (s : State) (die q idx : Nat) (l : LivePkt),
    let u := queueOf s die q
    let a := bits (wd l.pkt 4) 55 0
    u.live.find? (fun l => l.idx == idx && l.consumed && l.tasks ≤ l.done) = some l → (wd l.pkt 0).getLsbD 10 = false →
    ((s.die die).halted u.job = true → exec (.packetCompletion die q idx) s = .next s) ∧ ((s.die die).halted u.job = false →
    (∀ x, a ≠ 0 → s.unitXl (u.xc die) a .wr = some x → x.rc ≠ .remote) →
    ∃ t, exec (.packetCompletion die q idx) s = .next t ∧ (queueOf t die q).live = u.live.filter (fun m => m.idx != idx || m.gone) ∧ (queueOf t die q).ridx = u.ridx ∧
      (a = 0 → ∀ b, t.byte b = s.byte b) ∧
      (∀ x, a ≠ 0 → s.unitXl (u.xc die) a .wr = some x → x.rc ≠ .remote → StationClear s die x.loc 8 →
        t.dieBytes die x.loc 8 = bytesOf 8 (wd l.pkt 5).toNat ∧ ∀ b, ¬ (x.loc ≤ b ∧ b < x.loc + 8) → t.byte b = s.byte b ∧ t.dieByte die b = s.dieByte die b) ∧
      (a ≠ 0 → s.unitXl (u.xc die) a .wr = none → (t.core (die * 128 + 64)).evt = (s.core (die * 128 + 64)).evt ||| 8))

/-- R37 to R39, R343, R344: a free context of a core, with none that stands before it by core and context left to serve, takes the record at the head of the sub-queue of its cluster with the largest score, or of the stage
whose Starve count forces it; a core idle for 3,600 cycles takes one from the first other cluster that has one. A core that ran tasks of another job
since its last scrub is granted nothing (R348). A context of a sleeping cluster calls its cluster instead, where a record waits for it (R403).
The model's own choices in it: logs 5, 6, 63, 64, 86. -/
def Obligations.GrantsTakeTheHeadOfASubQueue : Prop :=
  (∀ (s : State) (core ctx part job : Nat) (q : SubQ) (r : TaskRec) (rest : List TaskRec) (st : Stage),
    s.grantable ⟨core, ctx⟩ = some (part, job) → Grantable s (coreDie core) q r rest st →
    (s.forced core ctx job = some q ∨ (s.forced core ctx job = none ∧ s.candidate core ctx job (coreCluster core % 8) = some q)) →
    (s.servedLater ⟨core, ctx⟩ = true → exec (.dispatchGrant core ctx) s = .next s) ∧ (s.servedLater ⟨core, ctx⟩ = false →
    ∃ t, exec (.dispatchGrant core ctx) s = .next t ∧ Granted s t ⟨core, ctx⟩ part q r rest st)) ∧
  (∀ (s : State) (core ctx job cl : Nat) (q : SubQ), s.candidate core ctx job cl = some q →
    ∃ st f n, (f, n, st) ∈ s.takeable core ctx job ∧ q = (s.die (coreDie core)).subq job f n cl ∧ q.recs ≠ [] ∧
      ∀ f' n' st', (f', n', st') ∈ s.takeable core ctx job → ((s.die (coreDie core)).subq job f' n' cl).offers ctx = true →
        let o := (s.die (coreDie core)).subq job f' n' cl
        o.recs.length * 4096 / Max.max 1 o.size * (st'.sprio + 1) ≤ q.recs.length * 4096 / Max.max 1 q.size * (st.sprio + 1)) ∧
  (∀ (s : State) (core ctx part job i : Nat) (q : SubQ) (r : TaskRec) (rest : List TaskRec) (st : Stage),
    let cl := coreCluster core % 8
    s.grantable ⟨core, ctx⟩ = some (part, job) → Grantable s (coreDie core) q r rest st → (s.core core).c0.run = .free → (s.core core).c1.run = .free →
    s.forced core ctx job = none → s.candidate core ctx job cl = none → 1 ≤ i → i ≤ 7 → (∀ j, 1 ≤ j → j < i → s.candidate core ctx job ((cl + j) % 8) = none) →
    s.candidate core ctx job ((cl + i) % 8) = some q →
    (3600 ≤ (s.cycle - (s.core core).idleSince).toNat → s.servedLater ⟨core, ctx⟩ = false → ∃ t, exec (.idleSteal core ctx) s = .next t ∧ Granted s t ⟨core, ctx⟩ part q r rest st) ∧
    ((s.cycle - (s.core core).idleSince).toNat < 3600 → exec (.idleSteal core ctx) s = .next s)) ∧
  (∀ (s : State) (core ctx part job j : Nat), s.grantable ⟨core, ctx⟩ = some (part, job) → (s.core core).tenant = some j → j = job) ∧
  (∀ (s : State) (core ctx : Nat), s.freeFor ⟨core, ctx⟩ = none →
    exec (.dispatchGrant core ctx) s = .next s ∧ exec (.idleSteal core ctx) s = .next s) ∧
  ∀ (s : State) (core ctx part job : Nat), s.freeFor ⟨core, ctx⟩ = some (part, job) → s.awakeCl (coreCluster core) = false →
    let called := s.modCluster (coreCluster core) (fun c => { c with due := true })
    exec (.dispatchGrant core ctx) s = .next (if s.pickFor ⟨core, ctx⟩ job = none then s else called) ∧
    exec (.idleSteal core ctx) s = .next (if s.stealFor ⟨core, ctx⟩ job = none then s else called)

/-- R17 to R21, R39, R349: the launch sequencer gives a granted context its entry state: the entry point, the record's coordinate, argument and number, the
bank key of its core, drawn afresh but for the half that the job has in that cluster where the core was not keyed for the job yet, the stack pointer, every other register zero, the INL words on its stack, its rows and a zeroed accumulator window clear.
The model's own choices in it: logs 2, 63, 79. -/
def Obligations.LaunchSequencesSetTheEntryState : Prop :=
  ∀ (s : State) (core ctx : Nat) (st : Stage), ctx ≤ 1 →
    let p : Place := ⟨core, ctx⟩
    let k := (s.ctxAt p).t
    let top := if ctx = 0 then 0x200000 else 0x1C0000
    let sp : Word := BitVec.ofNat 64 (0xFF000000000000 + top - 32)
    let d := s.die (coreDie core)
    let half := d.clusterKey (coreDie core) k.job (coreCluster core % 8)
    let bank : Word := if (s.core core).keyed = some k.job then (s.ctxAt p).r.bankKey
      else half.1 ++ Config.bankKeys (coreDie core) (BitVec.ofNat 32 half.2.drawn)
    let ready := (s.ctxAt p).run = .granted ∨ ((s.ctxAt p).run = .reserving ∧ ((s.core core).ctx (1 - ctx)).run = .free)
    (s.die (coreDie core)).halted k.job = false → k.trc.resume = none → (s.die (coreDie core)).stageOf k.job k.flow k.stg = some st → k.trc.inl.length = 4 →
    (ready → ∃ t, exec (.launchSequence core ctx) s = .next t ∧ (t.ctxAt p).run = .running ∧ (t.ctxAt p).y.level = 0 ∧ (t.ctxAt p).held = none ∧ (t.core core).tenant = some k.job ∧
      (t.ctxAt p).r = { g := (t.ctxAt p).r.g, pc := st.entry, tileCoord := k.trc.coord, taskId := BitVec.ofNat 64 k.trc.tid, jobId := BitVec.ofNat 64 k.job,
                        slim := BitVec.ofNat 64 (0xFF000000000000 + top - st.stk * 4096), bankKey := bank } ∧
      (t.core core).keyed = some k.job ∧ (t.ctxAt p).r.rg 1 = (if k.trc.argp = 0 then sp else k.trc.argp) ∧ (t.ctxAt p).r.rg 30 = sp ∧
      (∀ n, n ≠ 1 → n ≠ 30 → (t.ctxAt p).r.rg n = 0) ∧
      t.bytesAt (homeScratch core (top - 32)) 32 = k.trc.inl.flatMap (fun w => bytesOf 8 w.toNat) ∧
      (∀ row lane n, vkey k.vb ctx row lane = some n → row < (if k.vb then 64 else 32) → lane < 64 → SMap.get 0 (t.core core).vfile n = 0) ∧
      (st.acz = true → ∀ n, st.acb * 4096 ≤ n → n < (st.acb + st.acn) * 4096 → SMap.get 0 (t.core core).acc n = 0) ∧
      (k.hostLaunch = true → ∀ a, ¬ (homeScratch core (top - 32) ≤ a ∧ a < homeScratch core top) → t.byte a = s.byte a)) ∧
    (¬ ready → exec (.launchSequence core ctx) s = .next s)

/-- R40 to R44, R342, R344, R407: a flow whose running tasks are all blocked posting grows a full sub-queue by a chunk of its job's pool, or raises flow
overflow; pre-emption saves its victim into the lowest free slot and puts a resume record at the head of its sub-queue, and the context takes a record of the flow
for which it was (the model's reading, log 87); a core is added to and taken from a partition.
The model's own choices in it: logs 65, 66, 67, 87, 93. -/
def Obligations.QueuesGrowAndTasksArePreempted : Prop :=
  (∀ (s : State) (die : Nat) (f : Flow) (q : SubQ), (s.die die).flows = [f] → (s.die die).halted f.job = false → s.growPick die f.job f.flow = some q →
    (0 < (s.die die).pool q.job → ∃ t, exec (.queueGrowth die) s = .next t ∧ OnlyDie die s t ∧
      (t.die die).subq q.job q.flow q.stg q.cl = { q with grown := q.grown + 1 } ∧ (t.die die).pool q.job = (s.die die).pool q.job - 1) ∧
    ((s.die die).pool q.job = 0 → ∃ t, exec (.queueGrowth die) s = .next t ∧ (t.die die).subqs = (s.die die).subqs ∧
      (q.job, q.flow, q.stg, q.cl) ∈ (t.die die).failed ∧ (t.core (die * 128 + 64)).evt = (s.core (die * 128 + 64)).evt ||| 4)) ∧
  (∀ (s s₁ s₂ s₃ : State) (die i prio slot : Nat) (part : Part) (p : Place) (img : List Byte),
    let job := bits part.w0 57 48
    let k := (s₃.ctxAt p).t
    let h := homePa (die / 8) (part.slotPa slot)
    (s.die die).parts = [(i, part)] → part.w0.getLsbD 63 = true → part.save.getLsbD 63 = true → (s.die die).halted job = false →
    s.waitingPrio die part job = some prio → s.victim die part job prio = some p → s.savable p = true →
    slot < 128 → slot ∉ part.used → (∀ n, n < slot → n ∈ part.used) → ((s.die die).ctxKey (s.ctxAt p).t.job (coreId p.core p.ctx)).isSome = true →
    (s.pushHeld p).quiet p = (true, s₁) → (s₁.ctxAt p).bfaults = [] → s₁.detach p true false = some s₂ →
    (s₂.withdrawAll p).saveImage p ((s₂.withdrawAll p).saveRecord p false) = some (s₃, img) → (s₃.ctxAt p).bfaults = [] →
    ∃ t : State, exec (.preempt die) s = .next (t.grantWaiting die i p job prio) ∧ (t.ctxAt p).run = .free ∧ t.bytesAt h img.length = img ∧
      (∀ a, ¬ (h ≤ a ∧ a < h + img.length) → t.byte a = s₃.byte a) ∧
      (SMap.get {} (t.die die).parts i).used = part.used ++ [slot] ∧
      ((t.die die).subq k.job k.flow k.stg (coreCluster p.core % 8)).recs =
        { k.trc with resume := some (i, slot, p.ctx), sup := false } :: ((s₃.die die).subq k.job k.flow k.stg (coreCluster p.core % 8)).recs) ∧
  (∀ (s : State) (die i job prio : Nat) (p : Place), s.grantWaiting die i p job prio = s ∨
    ∃ q f, s.grantWaiting die i p job prio = s.grant p i q ∧ q.job = job ∧ (s.die die).flowOf job q.flow = some f ∧ f.fprio = prio ∧
      q.offers p.ctx = true ∧ q = (s.die die).subq job q.flow q.stg q.cl) ∧
  (∀ (s : State) (die part core : Nat), core < 64 →
    let p := SMap.get {} (s.die die).parts part
    let p' := { p with w1 := p.w1 ||| (1#64 <<< core) }
    let fits := p'.clusters.length = p.clusters.length ∨ (s.die die).queueFits p (bits p.w0 57 48) p'.clusters.length [] = true
    (fits → ∃ t, exec (.coresBitSet die part core) s = .next t ∧ OnlyCoreAndDie (die * 128 + core) die s t ∧
      t.die die = { s.die die with parts := SMap.put (s.die die).parts part p' } ∧
      t.core (die * 128 + core) = { s.core (die * 128 + core) with idleSince := s.cycle }) ∧
    (¬ fits → exec (.coresBitSet die part core) s = .next s)) ∧
  ∀ (s : State) (die part core : Nat), core < 64 →
    let p := SMap.get {} (s.die die).parts part
    ∃ t, exec (.coresBitClear die part core) s = .next t ∧ OnlyDie die s t ∧
      t.die die = { s.die die with parts := SMap.put (s.die die).parts part { p with w1 := p.w1 &&& ~~~(1#64 <<< core) } }

/-! ## Engines, triggers and collectives -/

/-- The entries of a queue pair. -/
def Sys2Proof.Claims.entriesAt (s : State) (die key qp : Nat) : List CEntry := (SMap.get {} (s.comm die key).qps qp).entries

/-- R195 to R198, R200, R201, R240: a card that no earlier one of its task holds back does one unit of its work: an element goes from its source, or from
the fill word, to its destination, here one that shares no aligned 4-byte word with a later element and meets no poison. A card with nothing left to do completes: it
goes, its completion word says its ticket and status, its counter changes, its task's waits will observe it, and a failed one leaves an engine fault
due on its task. The model's own choices in it: logs 20, 28, 29, 53. -/
def Obligations.EnginesRunTheirCards : Prop :=
  (∀ (s : State) (core card : Nat) (c c' : Card) (ts : List Xl) (bs : List Byte), (s.core core).cards.find? (fun c => c.id == card) = some c →
    (s.core core).cardBlocked c = false → (s.die (coreDie core)).halted c.job = false → c.failed = none → c.waiting = none → c.pos < c.total → c.words = [] →
    s.cardIndex core { c with started := true } = .ok c' → (c.indexed = true → c.recLen ≠ 0) → (c.op ≠ .fill → c.src.rmt = false) → c.dst.rmt = false →
    s.cardSource core c' c.pos = .ok bs → s.engBytes core c' .wr false (c'.dstAddr c.pos) c.size = .ok ts → bs.length = c.size → (ts.map (·.loc)).Nodup →
    (∀ x ∈ ts, isRemote x.loc = false ∧ s.poisoned x.loc 1 = false) →
    (∀ i, i < c.size → ({ c' with pos := c.pos + 1 } : Card).later (((c'.dstAddr c.pos).toNat + i) / 4) = false) →
    ∃ t, exec (.engineJobStart core card 1) s = .next t ∧
      (t.core core).cards = (s.core core).cards.map (fun d =>
        if d.id = card then { c' with pos := c.pos + 1, data := c'.data.drop c.size, words := [], stuck := false } else d) ∧
      ((∀ x ∈ ts, 2 ^ 61 ≤ x.loc) → (∀ i x, ts[i]? = some x → t.byte x.loc = bs.getD i 0) ∧ ∀ a, (∀ x ∈ ts, x.loc ≠ a) → t.byte a = s.byte a) ∧
      ((∀ x ∈ ts, x.loc < 2 ^ 61) → isSystem core = false → (∀ a, t.byte a = s.byte a) ∧ (∀ i x, ts[i]? = some x → t.outer core x.loc = bs.getD i 0) ∧
        ∀ a, (∀ x ∈ ts, x.loc ≠ a) → t.outer core a = s.outer core a)) ∧
  (∀ (s : State) (core card burst : Nat) (c : Card), (s.core core).cards.find? (fun c => c.id == card) = some c →
    (s.core core).cardBlocked c = true ∨ (s.die (coreDie core)).halted c.job = true → exec (.engineJobStart core card burst) s = .next s) ∧
  ∀ (s : State) (core card : Nat) (c : Card) (p : Place),
    let x := s.ctxAt p
    let status := match c.failed with | some (k, _) => k | none => 0
    Rising s.cores → (s.core core).cards.find? (fun c => c.id == card) = some c → (∀ d ∈ (s.core core).cards, d.id = card → d = c) →
    (s.core core).cardBlocked c = false → (s.die (coreDie core)).halted c.job = false → c.waiting = none → c.words = [] →
    (c.failed ≠ none ∨ c.total ≤ c.pos) → s.cardOutstanding core c = false → (∀ w ∈ (s.cluster (coreCluster core)).buffer, w.core ≠ core) →
    (∀ w ∈ (s.die (coreDie core)).station, w.core ≠ core) → s.whereIs (coreDie core) c.job c.tid = some p →
    ∃ t, exec (.engineJobCompletion core card) s = .next t ∧ (t.core core).cards = (s.core core).cards.filter (fun d => d.id != card) ∧
      (c.ken = true → (t.ctxAt p).r = x.r.setK c.k (x.r.rk c.k + (if c.out then 0 - 1 else 1))) ∧ (c.ken = false → (t.ctxAt p).r = x.r) ∧
      (∀ lo hi, c.writes = some (lo, hi) → 
        let e := (if c.ken then c.k else 32, lo.toNat, hi.toNat)
        (t.ctxAt p).jobsDone = if e ∈ x.jobsDone then x.jobsDone else x.jobsDone ++ [e]) ∧
      (t.ctxAt p).bfaults = x.bfaults ++
        (match c.failed with | some (k, va) => [{ cause := 0x0A01, addr := va, aux := BitVec.ofNat 64 (c.ticket.toNat * 2 ^ 32 + k) }] | none => []) ∧
      (∀ a y, c.cw = some a → s.xlSpan (c.xc core) .wr 8 a = .ok y → 2 ^ 61 ≤ y.loc →
        t.bytesAt y.loc 8 = bytesOf 8 (c.ticket.toNat * 2 ^ 32 + status * 2 ^ 8 + 1) ∧ ∀ b, ¬ (y.loc ≤ b ∧ b < y.loc + 8) → t.byte b = s.byte b) ∧
      (c.cw = none → ∀ b, t.byte b = s.byte b)

/-- R34, R206, R209: the trigger of a die whose action comes next acts once and is gone: its counter add reaches the counters of the task that armed it,
where it stands or in its detached set, or its launch record enters its sub-queue. -/
def Sys2Proof.Claims.FiredTriggersActOnce : Prop :=
  (∀ (s : State) (die d job tid : Nat) (p : Place) (g : Trigger) (pre post : List Trigger), ActsNext s die pre g post → g.pred.act = 2 →
    g.ks = .task d job tid → s.whereIs d job tid = some p →
    ∃ t, exec (.triggerFire die) s = .next t ∧ (t.die die).trigs = pre ++ post ∧ (t.die d).kdirty = true ∧
      (t.ctxAt p).r = (s.ctxAt p).r.setK g.pred.kt ((s.ctxAt p).r.rk g.pred.kt + g.pred.add) ∧ (∀ a, t.byte a = s.byte a) ∧
      ∀ c, c ≠ p.core → t.core c = s.core c) ∧
  (∀ (s : State) (die d i : Nat) (g : Trigger) (pre post : List Trigger), ActsNext s die pre g post → g.pred.act = 2 → g.ks = .detached d i →
    let k (s : State) := (SMap.get {} (s.die d).sets i).k
    ∃ t, exec (.triggerFire die) s = .next t ∧ (t.die die).trigs = pre ++ post ∧ (t.die d).kdirty = true ∧ t.cores = s.cores ∧ (∀ a, t.byte a = s.byte a) ∧
      SMap.get 0 (k t) g.pred.kt = SMap.get 0 (k s) g.pred.kt + g.pred.add ∧ ∀ n, n ≠ g.pred.kt → SMap.get 0 (k t) n = SMap.get 0 (k s) n) ∧
  (∀ (s : State) (die : Nat) (g : Trigger) (pre post : List Trigger), ActsNext s die pre g post → g.pred.act = 1 →
    let sub (d : Die) : SubQ := d.subq g.trc.job g.trc.flow g.trc.stg g.pred.cl
    (sub (s.die die)).full = false → (s.die die).spilled g.trc.job g.trc.flow g.trc.stg g.pred.cl = false →
    ∃ t, exec (.triggerFire die) s = .next t ∧ (t.die die).trigs = pre ++ post ∧
      (sub (t.die die)).recs = (sub (s.die die)).recs ++ [{ g.trc with tid := (s.die die).records }] ∧ t.cores = s.cores ∧ ∀ a, t.byte a = s.byte a) ∧
  ∀ (s : State) (die : Nat), (∀ t ∈ (s.die die).trigs, t.fired = none ∨ (s.die die).halted t.trc.job = true) → exec (.triggerFire die) s = .next s

/-- R293, R294, R297: the first entry of a pair that has not started starts once its predicate has held and the cluster of its task's windows is awake, which
it else calls (R403); the header of a matched one reaches every member; one of another version of the communicator fails with status 8.
The model's own choices in it: log 21. -/
def Obligations.CollectiveEntriesStart : Prop :=
  (∀ (s : State) (die key qp : Nat) (e : CEntry),
    let c := s.comm die key
    let heads (d : Nat) (s : State) := (s.comm d key).heads
    (entriesAt s die key qp).find? (fun e => e.phase == .queued) = some e → (entriesAt s die key qp).find? (fun x => x.no == e.no) = some e →
    e.held = true → c.draining = none → (s.die die).halted e.job = false → s.asleep e.cls = false →
    c.valid = true → e.ver = c.ver → c.n ≠ 1 → c.parked = [] → e.op = 1 → (∀ d ∈ c.dead, d.1 = qp → e.seq ≠ some d.2.1) → c.members.Nodup →
    (∀ h ∈ c.heads, h.1 = qp → h.2.1 = e.tag → h.2.2.2.1 = e.header) →
    ∃ t, exec (.collectiveEntryStart die key qp) s = .next t ∧
      entriesAt t die key qp = (entriesAt s die key qp).map (fun x => if x.no = e.no then { x with phase := .started, began := true, ebs := [], stuck := false } else x) ∧
      (∀ a, t.byte a = s.byte a) ∧ (∀ k, t.core k = s.core k) ∧ t.net = s.net ∧
      (∀ d ∈ c.members, heads d t = heads d s ++ (if e.seq = none then [] else [(qp, e.tag, c.rank, e.header, e.no)])) ∧
      (∀ d, d ≠ die → entriesAt t d key qp = entriesAt s d key qp)) ∧
  (∀ (s : State) (die key qp : Nat) (e : CEntry),
    (entriesAt s die key qp).find? (fun e => e.phase == .queued) = some e → e.held = true → (s.comm die key).draining = none → (s.die die).halted e.job = false →
    (s.asleep e.cls = true → exec (.collectiveEntryStart die key qp) s = .next (s.callAll e.cls)) ∧
    (s.asleep e.cls = false → (s.comm die key).valid = false ∨ e.ver ≠ (s.comm die key).ver →
    ∃ t, exec (.collectiveEntryStart die key qp) s = .next t ∧ OnlyDie die s t ∧
      entriesAt t die key qp = (entriesAt s die key qp).map (fun x => if x.no = e.no then { x with phase := .failed, status := 8 } else x))) ∧
  ∀ (s : State) (die key qp : Nat) (e : CEntry), (entriesAt s die key qp).find? (fun e => e.phase == .queued) = some e →
    e.held = false ∨ (s.comm die key).draining ≠ none → exec (.collectiveEntryStart die key qp) s = .next s

/-- R82, R296, R298, R301, R302: a chunk goes as packets to the targets of its entry while there is room: here the one packet left of an entry of the one
pair of a die, and the one packet of a chunk that begins; those of a `wrr` carry at most twenty blocks of 200 bytes. The earliest locally complete
entry of a pair goes, and the counter of its task changes. Both call a sleeping cluster of the entry's windows (R403).
The model's own choices in it: log 21. -/
def Obligations.CollectiveEntriesSendAndComplete : Prop :=
  (∀ (s : State) (die key qp d off va : Nat) (c : Comm) (q : QPair) (e e' : CEntry) (bs : List Byte),
    (s.die die).comms = [(key, c)] → c.qps = [(qp, q)] → q.entries.find? (s.chunkReady die key qp) = some e →
    (∀ x ∈ q.entries, x.no = e.no → x = e) → (s.die die).halted e.job = false → c.draining = none →
    (e.queue ≠ [] ∧ e' = e ∨ e.queue = [] ∧ s.beginChunk die key qp e = .ok e') → e'.queue = [(d, off, va, bs)] → d ≠ die → s.roomFor die key d 1 = true →
    let pkt : Packet := { op := if e.op = 1 then 6 else 7, job := e.job, offs := off, steer := false, vc := 2 + c.pclass,
                          seq := SMap.get 0 (s.die die).seqOut (d * 8 + (2 + c.pclass)), dst := d, src := die, rkey := e.rkey key qp, payload := bs }
    ∃ t, exec (.chunkSend die) s = .next t ∧ Made s t die pkt ∧ t.cores = s.cores ∧ (∀ a, t.byte a = s.byte a) ∧
      entriesAt t die key qp = q.entries.map (fun x => if x.no = e.no then { e' with queue := [] } else x) ∧
      (t.die die).window.length = (s.die die).window.length + 1) ∧
  (∀ (s : State) (die key qp : Nat) (e e' : CEntry), e.op = 2 → s.beginChunk die key qp e = .ok e' →
    e'.pos = e.pos + e.chunkLen ∧ ∀ p ∈ e'.queue, p.2.2.2.length % 200 = 0 ∧ p.2.2.2.length ≤ 4000) ∧
  ∀ (s : State) (die key qp : Nat) (e : CEntry) (p : Place), (entriesAt s die key qp).find? (s.locally die key qp) = some e →
    (s.comm die key).parked = [] → (∀ x ∈ entriesAt s die key qp, x.stuck = true → x.op ≠ 2) → s.whereIs die e.job e.tid = some p →
    (s.asleep e.cls = true → exec (.entryLocalCompletion die key qp) s = .next (s.callAll e.cls)) ∧ (s.asleep e.cls = false →
    ∃ t, exec (.entryLocalCompletion die key qp) s = .next t ∧ entriesAt t die key qp = (entriesAt s die key qp).filter (fun x => x.no != e.no) ∧
      (t.ctxAt p).r = (if e.ken then (s.ctxAt p).r.setK e.k ((s.ctxAt p).r.rk e.k + (if e.out then 0 - 1 else 1)) else (s.ctxAt p).r) ∧
      (∀ c, c ≠ p.core → t.core c = s.core c) ∧ (e.reca.toNat % 2 ^ 56 = 0 → ∀ a, t.byte a = s.byte a))

/-- R300, R303: the lowest-ranked member that remains sends a proposal to every other old and new member, stops its communicator and aborts its started
entries; while acknowledgements are owed it may send it again to those members of whom no proposal is under way; once every acknowledgement is here and the
communicator's packets are sent and answered, all install it: the new version, its members, their
ranks, SEQ at zero; a removed member's descriptor becomes invalid. The model's own choices in it: log 21. -/
def Obligations.AgreementRoundsInstallOneVersion : Prop :=
  (∀ (s : State) (die key : Nat) (members : List Nat),
    let c := s.comm die key
    let others := (c.members ++ members.filter (fun d => !c.members.contains d)).filter (· != die)
    let lowest := c.valid = true ∧ c.members.find? (fun d => members.contains d) = some die ∧ members.length ≤ 256
    let may := lowest ∧ c.draining = none ∧ (s.die die).window.length + others.length ≤ 256
    let again := c.proposer = true ∧ c.draining = some (members, c.ver + 1)
    let lost := c.owed.filter (fun d => !(s.die die).window.any (fun r => r.origin == (6, key, 0) && r.pkt.dst == d))
    let sent (l : List Nat) : List (Nat × Nat × Nat × Nat × List Byte) := l.map (fun d => (d, die, 0x20, 7, proposal (key % 256) (c.ver + 1) members))
    (again → lowest → (s.die die).window.length + lost.length ≤ 256 → ∃ t pkts, exec (.agreementPropose die key members) s = .next t ∧ t.net = s.net ++ pkts ∧
      pkts.map (fun p => (p.dst, p.src, p.op, p.vc, p.payload)) = sent lost ∧ t.comm die key = s.comm die key ∧ t.cores = s.cores ∧ ∀ a, t.byte a = s.byte a) ∧
    (¬ may → ¬ again → exec (.agreementPropose die key members) s = .next s) ∧
    (may → ∃ t pkts, exec (.agreementPropose die key members) s = .next t ∧ (t.comm die key).draining = some (members, c.ver + 1) ∧
      (t.comm die key).proposer = true ∧ (t.comm die key).words = c.words ∧ t.net = s.net ++ pkts ∧
      pkts.map (fun p => (p.dst, p.src, p.op, p.vc, p.payload)) = sent others ∧ (t.comm die key).owed = others ∧
      (∀ qp, entriesAt t die key qp = (entriesAt s die key qp).map (fun e =>
        if e.phase = .started then { e with phase := .aborted, status := 6, words := [] } else e)) ∧
      t.cores = s.cores ∧ ∀ a, t.byte a = s.byte a)) ∧
  ∀ (s : State) (die key ver : Nat) (new : List Nat),
    let c := s.comm die key
    let all := c.members ++ new.filter (fun d => !c.members.contains d)
    let agreed := c.proposer = true ∧ c.owed = [] ∧
      (∀ d ∈ all, (∀ r ∈ (s.die d).window, ¬ (r.origin.1 = 3 ∧ r.origin.2.1 / 16 = key)) ∧ ∀ q ∈ (s.comm d key).qps, ∀ e ∈ q.2.entries, e.queue = []) ∧
      s.slotsUsed ≤ 256
    c.draining = some (new, ver) → all.Nodup → new.Nodup → 1 ≤ new.length → new.length ≤ 256 → ver < 2 ^ 32 →
    (agreed → ∃ t, exec (.agreementCommit die key) s = .next t ∧ t.cores = s.cores ∧ (∀ a, t.byte a = s.byte a) ∧
      (∀ d ∈ all, (t.comm d key).draining = none ∧ (t.comm d key).heads = [] ∧ ∀ qp, (SMap.get {} (t.comm d key).qps qp).seq = 0) ∧
      (∀ r d, new[r]? = some d → (t.comm d key).valid = true ∧ (t.comm d key).ver = ver ∧ (t.comm d key).rank = r ∧ (t.comm d key).n = new.length) ∧
      (∀ d ∈ c.members, d ∉ new → (t.comm d key).valid = false) ∧ ∀ d, d ∉ all → t.die d = s.die d) ∧
    (¬ agreed → exec (.agreementCommit die key) s = .next s)

/-! ## The packet pipeline -/

/-- R255 to R257, R360, R391, R394, R395: a frame on a subport that the mode does not have, or of more than 4,352 bytes, is none. An Ethernet frame of another
EtherType, one that finds no room, and one with a bad tag or head only count; the packet that a good one decrypts to, gone from the station or the queue of the
die of the domain that sent it, enters the lane of its flow, one that is steered to this die in sequence and acknowledged, while the copies of a multicast packet
for other dies go on; one of a job that the die is closed to goes to the late log. A ciphertext of another packet than the event names is no frame (log 22). -/
def Sys2Proof.Claims.EthernetFramesEnterTheFabric : Prop :=
  ∀ (s : State) (die sub : Nat) (f : EthFrame),
    let d := s.die die
    let key : BitVec 256 := SMap.get 0 d.linkKeys (4 + sub)
    let tag := Config.gcmTag key (linkIv die (4 + sub) f.counter.toNat) (bytesOf 8 f.head.toNat ++ bytesOf 8 f.counter.toNat) f.cipher
    let plain := Config.gcmCrypt key (linkIv die (4 + sub) f.counter.toNat) f.cipher
    let atStation := s.net.filter (fun p => p.at_ == die && decide (4 ≤ p.ing) && decide (p.ing < 8))
    let room := s.fifo die + f.cipher.length ≤ 2097152 ∧ atStation.length < 512
    (d.subports ≤ sub ∨ 4352 < f.size → exec (.ethFrameRx die sub f) s = .next s) ∧ (sub < d.subports → f.size ≤ 4352 →
    (f.etherType ≠ d.etherType → ∃ t, exec (.ethFrameRx die sub f) s = .next t ∧ OnlyDie die s t ∧ t.die die = { d with foreign := d.foreign + 1 }) ∧
    (f.etherType = d.etherType → ¬ room → ∃ t, exec (.ethFrameRx die sub f) s = .next t ∧ (sub ∈ d.pfc → t = s) ∧
      (sub ∉ d.pfc → OnlyDie die s t ∧ t.die die = { d with ethdrop := d.ethdrop + 1 })) ∧
    (f.etherType = d.etherType → room → tag ≠ f.tag → ∃ t, exec (.ethFrameRx die sub f) s = .next t ∧ OnlyDie die s t ∧ t.die die = { d with ethbad := d.ethbad + 1 }) ∧
    (f.etherType = d.etherType → room → tag = f.tag → f.head ≠ 1 →
      ∃ t, exec (.ethFrameRx die sub f) s = .next t ∧ OnlyDie die s t ∧ t.die die = { d with badpkt := d.badpkt + 1 }) ∧
    (f.etherType = d.etherType → room → tag = f.tag → f.head = 1 → plain ≠ f.packet.bytes → exec (.ethFrameRx die sub f) s = .next s) ∧
    ∀ u p0, f.etherType = d.etherType → room → tag = f.tag → f.head = 1 → plain = f.packet.bytes → ComesOffTheWire s u f.packet p0 →
      let p : Packet := { p0 with turned := 0 }
      let copies := u.stand die (4 + sub) p
      ((u.die die).closed.contains p.job = true → (u.die die).late.length < 4096 →
        ∃ t x, exec (.ethFrameRx die sub f) s = .next t ∧ KeepsStore u t ∧ t.net = u.net ∧ (t.die die).late = (u.die die).late ++ [(p.job, x)] ∧
          x.item.pkt = { p0 with ing := 4 + sub }) ∧
      ((u.die die).closed.contains p.job = false → (∀ q ∈ copies, q.out = 8 → p.steer = false) →
        ∃ t, exec (.ethFrameRx die sub f) s = .next t ∧ OnlyDie die u t ∧ (t.die die).aseq = (u.die die).aseq + 1 ∧
          Entered u t die { p with ing := 4 + sub, at_ := die, out := 9, aseq := (u.die die).aseq }) ∧
      ∀ pre q post, FirstOf (fun q => q.out == 8) copies pre q post → p.steer = true → p.request = true → Expected u die q →
        let v := u.join die ((pre ++ post).filter (fun c => c.out != 8))
        ∃ t, exec (.ethFrameRx die sub f) s = .next t ∧ KeepsStore u t ∧ Counted t die q ∧
          Made (v.modDie die (fun d => { d with aseq := d.aseq + 1 })) t die (replyTo die q 0x11 []) ∧ Entered u t die { q with aseq := (v.die die).aseq })

/-- R214, R256 to R260, R268, R272, R274, R275, R403: the first packet of a lane that has not been through the stages goes without a program, or with a parse that
rejects, and is counted; else, with the clusters of its tables awake, it is parsed and runs the sixteen stages in order. A frame in transit or not steered runs
none. It waits for its cycle to end, for packets of lane 0 that entered with it, and for the table instructions of the cycle. -/
def Sys2Proof.Claims.LanesRunTheStages : Prop :=
  ∀ (s : State) (die lane : Nat) (pre post : List PPkt) (p : PPkt),
    let d := s.die die
    FirstOf (fun p => p.pos != 16) (d.laneQ lane) pre p post → d.stalled = false → d.halted p.pkt.job = false →
    (((s.cycle - p.entered).toInt ≤ 0 ∨ (lane ≠ 0 ∧ ∃ q ∈ d.lane0, q.entered = p.entered ∧ q.pos ≠ 16)) → exec (.pipelinePacket die lane) s = .next s) ∧
    (s.laneWaits die lane p (·.pos != 16) = true → exec (.pipelinePacket die lane) s = .next s) ∧ (s.laneWaits die lane p (·.pos != 16) = false →
    (p.plain die = true → ∃ t, exec (.pipelinePacket die lane) s = .next t ∧ OnlyDie die s t ∧ (t.die die).laneQ lane = pre ++ { p with pos := 16 } :: post) ∧
    (p.plain die = false → d.progOf p.pkt.job = none → ∃ t, exec (.pipelinePacket die lane) s = .next t ∧ OnlyDie die s t ∧ (t.die die).laneQ lane = pre ++ post ∧
      (t.die die).noprog = d.noprog + 1) ∧
    (∀ g, p.plain die = false → d.progOf p.pkt.job = some g → s.asleep (g.tableCls die) = true → exec (.pipelinePacket die lane) s = .next (s.callAll (g.tableCls die))) ∧
    (∀ g, p.plain die = false → d.progOf p.pkt.job = some g → s.asleep (g.tableCls die) = false → p.pos = 0 → p.phv = [] →
      let parsed := parseFrom g.states p.pkt.payload 32 0 0 (padTo 512 (phvMeta p 0)) []
      (parsed = none → ∃ t, exec (.pipelinePacket die lane) s = .next t ∧ OnlyDie die s t ∧ (t.die die).laneQ lane = pre ++ post ∧
        ((t.die die).progOf p.pkt.job).map (fun g => SMap.get 0 g.counts 0) = some (SMap.get 0 g.counts 0 + 1)) ∧
      (∀ phv ext boff, parsed = some (phv, ext, boff) →
        let run := (List.range 16).foldl (PRun.stage die) { g := g, phv := overlay phv 0 (phvMeta p boff), disp := p.disp }
        ∃ t, exec (.pipelinePacket die lane) s = .next t ∧ OnlyDie die s t ∧
          (t.die die).laneQ lane = pre ++ { p with pos := 16, phv := run.phv, extracts := ext, disp := run.disp } :: post ∧
          (t.die die).progOf run.g.job = some run.g))) ∧
    (lane = 0 → ∀ t, exec (.pipelinePacket die lane) s = .next t → (t.die die).lane1 = d.lane1)

/-- R28, R33, R255, R256, R267, R270 to R272, R389, R403, R405: in its turn a packet that has been through the stages leaves its lane: one in transit or not steered
goes on by the route table, a multicast one as its copies; another is dropped; counted where nothing was chosen for it; absorbed, its body in its slot and its
counter increased, with the launch of a slot set whose threshold is crossed; copied to another die or subport with its job, source and channel; punted into its
ring, or where an index word is poisoned dropped and counted. It wakes clusters that it reaches, and an arrival count waits for its place in its cycle.
The model's own choices in it: logs 22, 71. -/
def Obligations.DispositionsEndAPacket : Prop :=
  ∀ (s : State) (die lane : Nat) (p : PPkt) (rest : List PPkt),
    let d := s.die die
    let job := p.pkt.job
    let pay := p.deparse
    let only := p.absDone = false ∧ p.tdone = 0 ∧ p.disp.drop = false
    d.laneQ lane = p :: rest → p.pos = 16 → d.stalled = false →
    (s.laneWaits die lane p (fun _ => true) = true → exec (.disposition die lane) s = .next s) ∧ (s.laneWaits die lane p (fun _ => true) = false →
    (p.plain die = true → p.pkt.op ≠ 6 → ∃ t, exec (.disposition die lane) s = .next t ∧ KeepsStore s t ∧ (t.die die).laneQ lane = rest ∧
      t.net = s.net ++ [{ p.pkt with at_ := die, out := s.onward die p.pkt.ing p.pkt.dst }]) ∧
    (p.plain die = true → p.pkt.op = 6 →
      let ps := s.stand die p.pkt.ing p.pkt
      ∃ t, exec (.disposition die lane) s = .next t ∧ KeepsStore s t ∧ (t.die die).laneQ lane = rest ∧ (t.die die).aseq = d.aseq + ps.length ∧
        t.net = s.net ++ numbered d.aseq ps) ∧
    (∀ g, p.plain die = false → d.progOf job = some g → s.asleep (g.dispCls die p) = true → exec (.disposition die lane) s = .next (s.callAll (g.dispCls die p))) ∧
    (p.plain die = false → (∀ g, d.progOf job = some g → s.asleep (g.dispCls die p) = false) → p.disp.absorb ≠ none → d.overtaken s.cycle job = true →
      exec (.disposition die lane) s = .next s) ∧
    (p.plain die = false → (∀ g, d.progOf job = some g → s.asleep (g.dispCls die p) = false) → (p.disp.absorb ≠ none → d.overtaken s.cycle job = false) →
    (p.disp.drop = true → ∃ t, exec (.disposition die lane) s = .next t ∧ OnlyDie die s t ∧ (t.die die).laneQ lane = rest) ∧
    (∀ g, only → p.disp.absorb = none → p.disp.targets = [] → p.disp.punt = none → d.progOf job = some g →
      ∃ t, exec (.disposition die lane) s = .next t ∧ OnlyDie die s t ∧ (t.die die).laneQ lane = rest ∧
        ((t.die die).progOf job).map (fun g => SMap.get 0 g.counts 1) = some (SMap.get 0 g.counts 1 + 1)) ∧
    (∀ (g : Program) (ss c po : Nat) (ab : Bool), only → p.disp.absorb = some (ss, c, po, ab) → p.disp.targets = [] → p.disp.punt = none → d.progOf job = some g →
      let z := g.slots.getD ss []
      let body := pay.drop (ofBytes (slice p.phv 20 2))
      let stage := ssCstg z
      let i := ssCbase z + c
      let old : BitVec 32 := SMap.get 0 g.cnt (stage * 65536 + i)
      let new : BitVec 32 := old + BitVec.ofNat 32 (if ab then body.length else 1)
      let cl := carrCl (g.arr stage)
      let at_ := homeCluster (die * 8 + cl) ((SMap.get (0, 0) d.cwins (job * 8 + cl)).1 + (ssOff z + c * 2 ^ ssLog z + po))
      let crossed : Prop := old.toInt < (ssThr z : Int) ∧ (ssThr z : Int) ≤ new.toInt
      let sub (d : Die) : SubQ := d.subq job (ssFlow z) (ssStg z) cl
      g.job = job → ssV z = true → c ≤ ssNslot z → po + body.length ≤ 2 ^ ssLog z → g.setFor stage i = some z →
      (crossed → (sub d).full = false ∧ d.spilled job (ssFlow z) (ssStg z) cl = false) →
      ∃ t, exec (.disposition die lane) s = .next t ∧ (t.die die).laneQ lane = rest ∧ t.bytesAt at_ body.length = body ∧
        (∀ a, ¬ (at_ ≤ a ∧ a < at_ + body.length) → t.byte a = s.byte a) ∧
        ((t.die die).progOf job).map (fun g => SMap.get 0 g.cnt (stage * 65536 + i)) =
          some (if crossed ∧ ssAuto z = true then new - BitVec.ofNat 32 (ssThr z) else new) ∧
        (¬ crossed → (t.die die).subqs = d.subqs) ∧
        (crossed → ∃ r, (sub (t.die die)).recs = (sub d).recs ++ [r] ∧ r.coord = BitVec.ofNat 64 c ∧ r.argp = ssArgp z ∧ r.flow = ssFlow z ∧ r.stg = ssStg z ∧ r.orig = 1)) ∧
    (∀ n, only → p.disp.absorb = none → p.disp.targets = [(false, n)] → p.disp.punt = none → d.window.length < 256 →
      ∃ t, exec (.disposition die lane) s = .next t ∧ KeepsStore s t ∧ (t.die die).laneQ lane = rest ∧ t.net.length = s.net.length + 1 ∧
        ∃ q ∈ t.net, q.op = 2 ∧ q.dst = n ∧ q.src = p.pkt.src ∧ q.job = job ∧ q.vc = p.pkt.vc ∧ q.payload = pay ∧ q.via = some die ∧
          q.seq = SMap.get 0 d.seqOut (n * 8 + p.pkt.vc)) ∧
    (∀ n, only → p.disp.absorb = none → p.disp.targets = [(true, n)] → p.disp.punt = none →
      ∃ t, exec (.disposition die lane) s = .next t ∧ OnlyDie die s t ∧ (t.die die).laneQ lane = rest ∧
        (t.die die).egress = d.egress ++ [({ p.pkt with payload := pay, at_ := die, aseq := d.aseq }, n)] ∧ (t.die die).aseq = d.aseq + 1) ∧
    ∀ (g : Program) (r : Nat), only → p.disp.absorb = none → p.disp.targets = [] → p.disp.punt = some r → d.progOf job = some g →
      let w := wd (g.rings.getD r []) 0
      let ring (o : Nat) : Nat := homeCluster (die * 8 + bits w 3 1) ((SMap.get (0, 0) d.cwins (job * 8 + bits w 3 1)).1 + (bits w 63 32 + o))
      let size := 2 ^ (bits w 7 4 + 7)
      let wi := ofBytes (s.bytesAt (ring 0) 8)
      let ri := ofBytes (s.bytesAt (ring 8) 8)
      let kept := pay.take (size - 64)
      g.job = job → ri ≤ wi → p.phv.length = 512 →
      (s.poisoned (ring 0) 16 = true → ∃ t, exec (.disposition die lane) s = .next t ∧ OnlyDie die s t ∧ (t.die die).laneQ lane = rest ∧
        ((t.die die).progOf job).map (fun g => SMap.get 0 g.counts 0) = some (SMap.get 0 g.counts 0 + 1)) ∧
      (s.poisoned (ring 0) 16 = false → wi - ri < bits w 23 8 + 1 → wi + 1 < 2 ^ 64 → ∃ t, exec (.disposition die lane) s = .next t ∧ (t.die die).laneQ lane = rest ∧
        ofBytes (t.bytesAt (ring 0) 8) = wi + 1 ∧ t.bytesAt (ring (64 + wi % (bits w 23 8 + 1) * size)) 32 = p.phv.take 32 ∧
        t.bytesAt (ring (64 + wi % (bits w 23 8 + 1) * size + 64)) kept.length = kept) ∧
      (s.poisoned (ring 0) 16 = false → bits w 23 8 + 1 ≤ wi - ri → ∃ t, exec (.disposition die lane) s = .next t ∧ OnlyDie die s t ∧ (t.die die).laneQ lane = rest ∧
        ((t.die die).progOf job).map (fun g => SMap.get 0 g.counts 3) = some (SMap.get 0 g.counts 3 + 1))))

/-! ## Memory slices, phasers from afar -/

/-- R218, R234, R280 to R287: a slice with nothing to serve takes in a request that reaches it and acknowledges it; one serves the request at its head. A copy or take answers with the oldest tuple that matches, and a take removes it; with none it
parks or answers status 1. A deposit goes to the parked take that matches it first in park order, else into the store, or with no room parks or answers status 3. A
withdrawn entry is gone and its instruction sends again; a destroyed region loses its tuples and ends its parked requests; a reply
goes as a packet, and reaches its bundle. The model's own choices in it: logs 5, 13, 76. -/
def Obligations.SlicesServeTheirRequests : Prop :=
  (∀ (s : State) (die slice : Nat) (r : DReq) (rest : List DReq),
    let d := s.die die
    let sl := SMap.get {} d.slices slice
    let now (t : State) : Slice := SMap.get {} (t.die die).slices slice
    let fits (u : Tuple) : Bool := u.rgn == r.rgn && tupleMatch r.tuple r.mode u.words
    let full := bits (wd (SMap.get [] d.driftR r.rgn) 0) 19 0 + 1 ≤ (sl.tuples.filter (fun t => t.rgn == r.rgn)).length
    let i : Instr := if r.kind = 0 then .sliceCopy die slice else if r.kind = 1 then .sliceTake die slice else .sliceDeposit die slice
    let park : Slice := { sl with inbox := rest, parked := sl.parked ++ [{ r with pnum := sl.pnum, park := true }], pnum := sl.pnum + 1 }
    sl.inbox = r :: rest → r.kind ≤ 2 →
    (d.noRegion r = true → ∃ t, exec i s = .next t ∧ OnlyDie die s t ∧ now t = { sl with inbox := rest, outbox := sl.outbox ++ [(r, .driftFault 2)] }) ∧
    (∀ pre u post, d.noRegion r = false → r.kind ≤ 1 → FirstOf fits sl.tuples pre u post → (∀ q ∈ sl.parked, ¬ (q.rgn = r.rgn ∧ q.kind = 2)) →
      ∃ t, exec i s = .next t ∧ OnlyDie die s t ∧
        now t = { sl with inbox := rest, outbox := sl.outbox ++ [(r, .drift 0 u.words)],
                          tuples := if r.kind = 1 then sl.tuples.filter (fun v => v.age != u.age) else sl.tuples }) ∧
    (d.noRegion r = false → r.kind ≤ 1 → (∀ u ∈ sl.tuples, fits u = false) → ∃ t, exec i s = .next t ∧ OnlyDie die s t ∧
      now t = if r.park then (if 256 ≤ sl.parked.length then { sl with inbox := rest, outbox := sl.outbox ++ [(r, .drift 2 [])] } else park)
              else { sl with inbox := rest, outbox := sl.outbox ++ [(r, .drift 1 [])] }) ∧
    (d.noRegion r = false → r.kind = 2 → (∀ q ∈ sl.parked, ¬ (q.rgn = r.rgn ∧ q.kind ≠ 2 ∧ tupleMatch q.tuple q.mode r.tuple = true)) → ∃ t, exec i s = .next t ∧
      OnlyDie die s t ∧
      now t = if full then (if r.park then (if 256 ≤ sl.parked.length then { sl with inbox := rest, outbox := sl.outbox ++ [(r, .drift 2 [])] } else park)
                            else { sl with inbox := rest, outbox := sl.outbox ++ [(r, .drift 3 [])] })
              else { sl with inbox := rest, tuples := sl.tuples ++ [⟨r.rgn, r.tuple, sl.age⟩], age := sl.age + 1, outbox := sl.outbox ++ [(r, .drift 0 [])] }) ∧
    (∀ pre q post, d.noRegion r = false → r.kind = 2 → q.kind = 1 →
      FirstOf (fun q => q.rgn == r.rgn && q.kind != 2 && tupleMatch q.tuple q.mode r.tuple) (parkOrder sl.parked) pre q post →
      ∃ t, exec i s = .next t ∧ OnlyDie die s t ∧
      now t = { sl with inbox := rest, parked := sl.parked.filter (fun e => e != q), outbox := sl.outbox ++ [(q, .drift 0 r.tuple), (r, .drift 0 [])] })) ∧
  (∀ (s : State) (die slice n : Nat),
    let sl := SMap.get {} (s.die die).slices slice
    (∀ r, sl.parked.find? (fun r => r.pnum.toNat == n) = some r → r.ctx ≤ 1 → ∃ t, exec (.sliceWithdraw die slice n) s = .next t ∧
      SMap.get {} (t.die die).slices slice = { sl with parked := sl.parked.filter (fun q => q != r) } ∧ (∀ a, t.byte a = s.byte a) ∧
      (t.ctxAt ⟨r.core, r.ctx⟩).held = (s.ctxAt ⟨r.core, r.ctx⟩).held.map (fun i => { i with sent := false, att := false, req := none })) ∧
    ((∀ r ∈ sl.parked, r.pnum.toNat ≠ n) → exec (.sliceWithdraw die slice n) s = .next s)) ∧
  (∀ (s : State) (die rgn : Nat), ∃ t, exec (.regionDestroy die rgn) s = .next t ∧ OnlyDie die s t ∧
    (wd (SMap.get [] (t.die die).driftR rgn) 0).getLsbD 63 = false ∧ (∀ n, n ≠ rgn → SMap.get [] (t.die die).driftR n = SMap.get [] (s.die die).driftR n) ∧
    ∀ n, let sl := SMap.get {} (s.die die).slices n
      SMap.get {} (t.die die).slices n =
        { sl with tuples := sl.tuples.filter (fun u => u.rgn != rgn), parked := sl.parked.filter (fun r => r.rgn != rgn),
                  outbox := sl.outbox ++ (sl.parked.filter (fun r => r.rgn == rgn)).map (fun r => (r, .driftFault 3)) }) ∧
  (∀ (s : State) (die slice : Nat) (p : Packet) (pre post : List Packet),
    let r := driftReq p
    let perm : Acc := if r.kind = 0 then .rd else if r.kind = 1 then .at else .wr
    let left : State := { s with net := pre ++ post }
    OnlyOne s die (fun q => driftAsks q = true) pre p post → Expected s die p → (s.die die).sliceFor r = slice →
    (SMap.get {} (s.die die).slices slice).inbox = [] →
    ∀ i ∈ [(0, Instr.sliceCopy die slice), (1, .sliceTake die slice), (2, .sliceDeposit die slice)], i.1 ≠ r.kind →
      (p.rkey = 0 ∨ (∃ h, s.keyCheck die p.rkey p.job p.offs 64 perm = .ok h) → ∃ t, exec i.2 s = .next t ∧ KeepsStore s t ∧ Counted t die p ∧
        Made left t die (replyTo die p 0x11 []) ∧ SMap.get {} (t.die die).slices slice = { SMap.get {} (s.die die).slices slice with inbox := [r] }) ∧
      ∀ e, p.rkey ≠ 0 → s.keyCheck die p.rkey p.job p.offs 64 perm = .error e → ∃ t, exec i.2 s = .next t ∧ KeepsStore s t ∧ Counted t die p ∧
        Made left t die (nackTo die p e) ∧ (t.die die).slices = (s.die die).slices) ∧
  (∀ (s : State) (die slice : Nat) (r : DReq) (a : Resp) (rest : List (DReq × Resp)),
    let sl := SMap.get {} (s.die die).slices slice
    let n := SMap.get 0 (s.die die).seqOut (r.core / 128 * 8 + 6)
    sl.outbox = (r, a) :: rest → (∀ q ∈ s.net, ¬ DriftReplyTo die q) → (s.die die).window.length < 256 →
    ∃ t, exec (.driftReply die slice) s = .next t ∧ KeepsStore s t ∧ SMap.get {} (t.die die).slices slice = { sl with outbox := rest } ∧
      Made s t die { driftSays r die slice a with seq := n } ∧
      (t.die die).replies.find? (fun e => e.1 == r.core / 128 && e.2.1 == 6 && e.2.2.1 == r.fseq) =
        some (r.core / 128, 6, r.fseq, { driftSays r die slice a with seq := n })) ∧
  ∀ (s : State) (die slice : Nat) (p : Packet) (pre post : List Packet) (i : Iss),
    let w := wordOf (p.payload.take 8)
    let at_ : Place := ⟨die * 128 + bits w 34 29, bits w 28 28⟩
    OnlyOne s die (DriftReplyTo die) pre p post → Expected s die p → bits w 41 38 = slice → (s.ctxAt at_).held = some i → i.sent = true →
    (i.req = none ∨ i.req = some (p.src, 6, bits w 27 16)) →
    ∃ t, exec (.driftReply die slice) s = .next t ∧ Counted t die p ∧ Made { s with net := pre ++ post } t die (replyTo die p 0x11 []) ∧
      t.ctxAt at_ = { s.ctxAt at_ with held := some { i with req := none, resp := some (driftResp p) } } ∧ ∀ b, t.byte b = s.byte b

/-- R218, R227 to R231, R391, R393: a SYNC request for a phaser that has come to its die first of its channel is acknowledged and served: a registration joins at
the phase, a drop leaves, a signal counts, each followed by the advance check; a query changes nothing; the answer goes at once, that of a wait not met later. A SYNC
reply is acknowledged, and reaches the bundle that waits for it. The payloads of both, and the operations of agents beyond the cores of the model, made where no SYNC
packet stands at the die, are the model's (DESIGN CHOICE, log 26). -/
def Sys2Proof.Claims.SyncEnginesServeAgents : Prop :=
  (∀ (s : State) (die obj : Nat) (f : Phaser), obj / 2 ^ 40 % 256 = die → s.phaser obj = some f → (∀ w ∈ f.waits, w.fseq = none) →
    (∀ q ∈ s.net, q.op = 9 → ¬ Come die q) →
    (∀ mode, f.members.length < 65535 → ∃ t, exec (.syncPhaserOp die obj (.register mode)) s = .next t ∧ OnlyDie die s t ∧
      t.phaser obj = some (withMembers f (f.members ++ [{ core := 2 ^ 20, h := 0, mode := mode, m := f.p }]))) ∧
    (∀ mode m pre x post, FirstOf (fun x => x.core == 2 ^ 20 && x.mode == mode && x.m.toNat == m) f.members pre x post →
      (∃ t, exec (.syncPhaserOp die obj (.drop mode m)) s = .next t ∧ OnlyDie die s t ∧ t.phaser obj = some (withMembers f (pre ++ post))) ∧
      (f.p.toNat = m → ∃ t, exec (.syncPhaserOp die obj (.signal mode m)) s = .next t ∧ OnlyDie die s t ∧
        t.phaser obj = some (withMembers f (pre ++ { x with m := x.m + 1 } :: post)))) ∧
    exec (.syncPhaserOp die obj .query) s = .next s) ∧
  (∀ (s : State) (die obj : Nat) (f : Phaser) (a : PhaserOp) (p : Packet) (pre post : List Packet),
    let w (i : Nat) : Word := wordOf (slice p.payload (8 * i) 8)
    let op := bits (w 0) 7 0
    let core := p.source * 128 + bits (w 0) 22 16
    let h := BitVec.ofNat 6 (bits (w 0) 15 10)
    let mine (m : Member) : Bool := m.core == core && m.h == h.toNat
    let target := BitVec.ofNat 16 (bits (w 0) 42 27)
    let left : State := { s with net := pre ++ post }
    let n := SMap.get 0 (s.die die).seqOut (p.source * 8 + 6)
    let tell (v : Word) : Packet := { syncTell die core (bits (w 0) 23 23) obj p.job p.seq 0 v with seq := n }
    let served (v : Word) (g : Phaser) : Prop := ∃ t, exec (.syncPhaserOp die obj a) s = .next t ∧ KeepsStore s t ∧ Counted t die p ∧
      MadeTwo left t die (replyTo die p 0x11 []) (tell v) ∧ t.phaser obj = some g
    OnlyOne s die (fun q => q.op = 9) pre p post → Expected s die p → p.payload.length = 24 → p.rkey = 0 → (s.die die).window.length < 256 →
    bits (w 1) 47 0 = obj → objDie obj = die → s.phaser obj = some f → (∀ w ∈ f.waits, w.fseq = none) →
    (op = 1 → f.job = p.job → f.scope = bits (w 0) 26 24 → inScope f.scope core obj = true → f.members.length < 65535 →
      served 0 (withMembers f (f.members ++ [{ core := core, h := h.toNat, mode := bits (w 0) 9 8, m := f.p }]))) ∧
    (op = 2 → served 0 (withMembers f (f.members.filter (fun m => !mine m)))) ∧
    (∀ m, f.members.find? mine = some m → m.owed = none → op = 3 →
      served (BitVec.ofNat 64 (f.p.toNat + m.m.toNat * 2 ^ 16 + (f.members.filter (fun m => m.mode == 0 || m.mode == 2)).length % 65536 * 2 ^ 32)) f) ∧
    (∀ m, f.members.find? mine = some m → op = 4 → served 0 (signalled f core h)) ∧
    (∀ m, f.members.find? mine = some m → op = 5 → 0 ≤ (f.p - target).toInt → served 0 f) ∧
    ∀ m, f.members.find? mine = some m → op = 5 → (f.p - target).toInt < 0 →
      ∃ t, exec (.syncPhaserOp die obj a) s = .next t ∧ KeepsStore s t ∧ Counted t die p ∧ Made left t die (replyTo die p 0x11 []) ∧
        t.phaser obj = some { f with waits := f.waits ++ [{ core := core, ctx := bits (w 0) 23 23, target := target, fseq := some p.seq }] }) ∧
  ∀ (s : State) (die obj : Nat) (a : PhaserOp) (p : Packet) (pre post : List Packet) (i : Iss),
    let w (i : Nat) : Word := wordOf (slice p.payload (8 * i) 8)
    let at_ : Place := ⟨die * 128 + bits (w 0) 26 20, bits (w 0) 27 27⟩
    OnlyOne s die (fun q => q.op = 9) pre p post → Expected s die p → p.payload.length ≠ 24 → bits (w 1) 47 0 = obj → (s.ctxAt at_).held = some i →
    (i.req = some (p.src, 6, bits (w 0) 19 8) ∨ (i.req = none ∧ i.phase = some obj ∧ i.resp = none)) →
    ∃ t, exec (.syncPhaserOp die obj a) s = .next t ∧ Counted t die p ∧ Made { s with net := pre ++ post } t die (replyTo die p 0x11 []) ∧
      t.ctxAt at_ = { s.ctxAt at_ with held := some { i with req := none, resp := some (.sync (bits (w 0) 7 0) (w 2)) } } ∧ ∀ b, t.byte b = s.byte b

/-! ## Caches and walkers on their own, the fabric -/

/-- R237 to R240: the dirty bytes of an evicted or written-back line, those of one aligned unit of eight together, go into the first buffer on their way: the cluster's buffer,
for a system core the die station or the home; an evicted line is gone. A write leaves a buffer for the next point on its way unless an
earlier one there meets it: from a die station a write of a remote window goes as a request, where the replay window has room. -/
def Sys2Proof.Claims.WritesMoveTowardsTheirHome : Prop :=
  (∀ (s : State) (core line : Nat) (drop : Bool) (l : Line), (s.core core).dcache.filter (fun m => m.loc / 64 == line / 64) = [l] → l.loc % 64 = 0 →
    let after := if drop then (s.core core).dcache.filter (fun m => m.loc / 64 != line / 64)
                 else (s.core core).dcache.map (fun m => if m.loc = l.loc then { m with dirty := 0 } else m)
    let die := coreDie core
    ∃ t ws, exec (.cacheEviction core line drop) s = .next t ∧ WritesOfLine l core ws ∧ (t.core core).dcache = after ∧ t.net = s.net ∧
      (t.core core).c0 = (s.core core).c0 ∧ (t.core core).c1 = (s.core core).c1 ∧ (t.core core).vfile = (s.core core).vfile ∧
      (t.die die).window = (s.die die).window.map (fun r =>
        if r.fills core = true ∧ (drop = true ∨ (l.dirty ≠ 0 ∧ isRemote l.loc = true ∧ remLoc r = l.loc)) then { r with stale := true } else r) ∧
      (isSystem core = false → (t.cluster (coreCluster core)).buffer = (s.cluster (coreCluster core)).buffer ++ ws ∧ (∀ a, t.byte a = s.byte a) ∧
        (t.die die).station = (s.die die).station) ∧
      (isSystem core = true → (∀ i, i < 64 → passesStation die (l.loc + i) = true) → (t.die die).station = (s.die die).station ++ ws ∧ ∀ a, t.byte a = s.byte a) ∧
      (isSystem core = true → (∀ i, i < 64 → passesStation die (l.loc + i) = false) → (t.die die).station = (s.die die).station ∧
        ∀ a, t.byte a = if l.loc ≤ a ∧ a < l.loc + 64 ∧ l.dirty.getLsbD (a - l.loc) = true then l.bytes.getD (a - l.loc) 0 else s.byte a)) ∧
  (∀ (s : State) (die cl idx : Nat) (w : BufW),
    let b := (s.cluster (die * 8 + cl)).buffer
    cl < 8 → b[idx]? = some w →
    ((∀ o ∈ b.take idx, o.meets w = false) → ∃ t, exec (.bufferDrain die (some cl) idx) s = .next t ∧ (t.cluster (die * 8 + cl)).buffer = b.eraseIdx idx ∧ t.cores = s.cores ∧
      t.net = s.net ∧ (passesStation die w.loc = false → WroteAt s t w ∧ t.dies = s.dies) ∧
      (passesStation die w.loc = true → (t.die die).station = (s.die die).station ++ [w] ∧ ∀ a, t.byte a = s.byte a)) ∧
    ((∃ o ∈ b.take idx, o.meets w = true) → exec (.bufferDrain die (some cl) idx) s = .next s)) ∧
  ∀ (s : State) (die idx : Nat) (w : BufW),
    let b := (s.die die).station
    b[idx]? = some w →
    ((∃ o ∈ b.take idx, o.meets w = true) → exec (.bufferDrain die none idx) s = .next s) ∧
    ((∀ o ∈ b.take idx, o.meets w = false) → isRemote w.loc = false → ∃ t, exec (.bufferDrain die none idx) s = .next t ∧ (t.die die).station = b.eraseIdx idx ∧ WroteAt s t w ∧
      t.net = s.net) ∧
    ((∀ o ∈ b.take idx, o.meets w = false) → isRemote w.loc = true →
      ((s.die die).window.length < 256 → ∃ t q, exec (.bufferDrain die none idx) s = .next t ∧ KeepsStore s t ∧ (t.die die).station = b.eraseIdx idx ∧ Made s t die q ∧
        q.op = 2 ∧ q.job = w.job ∧ (q.dst, q.rkey, q.offs) = remParts w.loc ∧ q.payload = w.bytes ∧ q.src = die ∧ q.steer = false ∧
        (t.die die).window.map (·.pkt) = (s.die die).window.map (·.pkt) ++ [q]) ∧
      (256 ≤ (s.die die).window.length → exec (.bufferDrain die none idx) s = .next s))

/-- R9, R319, R336 to R339, R372: a walk that ends at a valid leaf fills the TLB, a failed one leaves nothing; a core's part in a shootdown removes its translations of the page or
slot, the lines and blocks of its 1 GiB (log 56), and drains its writes; a block fetched ahead enters the instruction cache once its tag is
good, in a full one in another's place, and a failure only counts in SPECDISC. -/
def Sys2Proof.Claims.TranslationsAreFilledAndShotDown : Prop :=
  (∀ (s : State) (core ctx : Nat) (va : Word),
    let x := s.xctxAt ⟨core, ctx⟩
    (s.ctxAt ⟨core, ctx⟩).run ≠ .free → canonical va = true → vaOf va < 2 ^ 55 → s.tlbHit x (vaOf va) = none →
    (∀ e seen, s.pageWalk x (vaOf va) = .ok (e, seen) → ∃ t, exec (.pageWalk core ctx va) s = .next t ∧ (t.core core).tlb = (e :: (s.core core).tlb).take 256 ∧
      (∀ c, c ≠ core → t.core c = s.core c) ∧ (∀ a, t.byte a = s.byte a) ∧ t.dies = s.dies) ∧
    (∀ c, s.pageWalk x (vaOf va) = .error c → exec (.pageWalk core ctx va) s = .next s)) ∧
  (∀ (s : State) (core asid : Nat) (page : Option Word), ∃ t, exec (.shootdownCoreAck core asid page) s = .next t ∧
    (t.core core).tlb = (s.core core).tlb.filter (fun e => !(e.asid == asid && (match page with | some va => e.page == vaOf va / 2 ^ e.bits | none => true))) ∧
    (let near (a v : Nat) : Prop := a = asid ∧ ∀ va, page = some va → v / 2 ^ 30 = vaOf va / 2 ^ 30
     (∀ l ∈ (t.core core).dcache, ∀ g ∈ l.tags, ¬ near g.1 g.2) ∧ ∀ b, b ∈ (t.core core).icache ↔ b ∈ (s.core core).icache ∧ ¬ near b.asid b.va) ∧
    (isSystem core = false → ∀ w ∈ (t.cluster (coreCluster core)).buffer, w.core ≠ core) ∧
    (∀ w ∈ (t.die (coreDie core)).station, w.core = core → isRemote w.loc = true) ∧
    (∀ c, c ≠ core → t.core c = s.core c) ∧ (t.core core).c0 = (s.core core).c0 ∧ (t.core core).c1 = (s.core core).c1) ∧
  ∀ (s : State) (core ctx : Nat) (va : Word), ctx ≤ 1 →
    let p : Place := ⟨core, ctx⟩
    let c := s.ctxAt p
    let counted : Prop := ∃ t, exec (.icacheFill core ctx va) s = .next t ∧ t.ctxAt p = { c with y := { c.y with specdisc := c.y.specdisc + 1 } } ∧
      (t.core core).icache = (s.core core).icache ∧ ∀ a, t.byte a = s.byte a
    c.run = .running → c.y.level ≠ 2 →
    ((∃ k, s.fetchXl p va = .error k) → counted) ∧
    (∀ x, s.fetchXl p va = .ok x → s.sectionAt p (vaOf va) = none → counted) ∧
    (∀ x g sec b, s.fetchXl p va = .ok x → s.sectionAt p (vaOf va) = some (g, sec) → s.blockAt core (s.xctxAt p).asid (vaOf va) = some b →
      ∃ t, exec (.icacheFill core ctx va) s = .next t ∧ t.ctxAt p = c ∧ (t.core core).icache = (s.core core).icache ∧ ∀ a, t.byte a = s.byte a) ∧
    (∀ x g sec, s.fetchXl p va = .ok x → s.sectionAt p (vaOf va) = some (g, sec) → s.blockAt core (s.xctxAt p).asid (vaOf va) = none →
      let b := vaOf va / 512 * 512
      let home := x.loc - vaOf va % 512
      let good := s.poisoned home 512 = false ∧
        blockTag ((s.die (coreDie core)).fetchKey g.job) g.mapno b (s.bytesAt home 512) = SMap.get 0 sec.tags (b / 512)
      (good → ∃ t, exec (.icacheFill core ctx va) s = .next t ∧ t.ctxAt p = c ∧ (∀ a, t.byte a = s.byte a) ∧
        ∃ kept, (t.core core).icache = { asid := (s.xctxAt p).asid, va := b, bytes := s.bytesAt home 512 } :: kept ∧
          ((s.core core).icache.length < 128 → kept = (s.core core).icache) ∧
          (128 ≤ (s.core core).icache.length → ∃ k, k < (s.core core).icache.length ∧ kept = (s.core core).icache.eraseIdx k)) ∧
      (¬ good → counted))

/-- R4, R218, R220, R255, R257, R381 to R383, R388, R391, R393, R405: an RD in sequence is answered with the bytes of its region, a WR is written there and acknowledged or enters the lane
of its flow, an AMO is performed once and answered with the old value; one that its key refuses, or that meets poison, is answered with a NACK and
changes nothing, a malformed one of each opcode, one of an opcode that R383 does not assign, and a WR on a channel of no communicator of its job, is counted too.
While the lanes stall a steered WR to be performed goes round once, then it is refused and its sequence number not consumed. -/
def Sys2Proof.Claims.HomesServeRequestsOnce : Prop :=
  (∀ (s : State) (src dst vc : Nat) (p : Packet) (pre post : List Packet), (s.die dst).closed.contains p.job = false → (s.die dst).deaf p.job = false →
    (p.bad = true ∨ s.offChannel p = true) → p.request = true → p.seq = SMap.get 0 (s.die dst).seqIn (p.source * 8 + p.vc) →
    (∀ x ∈ (s.die dst).skipped, x.key ≠ p.source * 8 + p.vc) →
    let left : State := { s with net := pre ++ post }
    let counted (i : Instr) : Prop := ∃ t, exec i s = .next t ∧ KeepsStore s t ∧ Made left t dst (nackTo dst p 4) ∧ Counted t dst p ∧
      (t.die dst).badpkt = (s.die dst).badpkt + 1
    let takes (op : Nat) : Prop := FirstIn s p.op src dst vc pre p post ∧ (p.op = op ∨ assigned p.op = false)
    (takes 1 → counted (.fabricRd src dst vc)) ∧ (takes 2 → counted (.fabricWr src dst vc)) ∧ (takes 3 → counted (.fabricAmo src dst vc)) ∧
    (takes 6 → counted (.fabricMcwr src dst vc)) ∧ (takes 7 → counted (.fabricWrr src dst vc)) ∧ (takes 0x20 → counted (.fabricMgmt src dst vc)) ∧ (takes 0x21 → counted (.fabricMgmt src dst vc))) ∧
  ∀ (s : State) (src dst vc : Nat) (p : Packet) (pre post : List Packet), Expected s dst p → p.request = true →
    let left : State := { s with net := pre ++ post }
    let answered (t : State) (q : Packet) : Prop := Made left t dst q ∧ Counted t dst p
    (FirstIn s 1 src dst vc pre p post →
      (∀ h, s.keyCheck dst p.rkey p.job p.offs p.rlen .rd = .ok h → s.poisoned h p.rlen = false →
        ∃ t, exec (.fabricRd src dst vc) s = .next t ∧ KeepsStore s t ∧ answered t (replyTo dst p 0x10 (s.bytesAt h p.rlen))) ∧
      (∀ h, s.keyCheck dst p.rkey p.job p.offs p.rlen .rd = .ok h → s.poisoned h p.rlen = true →
        ∃ t, exec (.fabricRd src dst vc) s = .next t ∧ KeepsStore s t ∧ answered t (nackTo dst p 2)) ∧
      (∀ k, s.keyCheck dst p.rkey p.job p.offs p.rlen .rd = .error k → ∃ t, exec (.fabricRd src dst vc) s = .next t ∧ KeepsStore s t ∧ answered t (nackTo dst p k))) ∧
    (FirstIn s 2 src dst vc pre p post →
      let checked := s.keyCheck dst p.rkey p.job p.offs p.payload.length .wr
      let stalls := p.steer = true ∧ (s.die dst).stalled = true
      (∀ h, p.steer = false → checked = .ok h →
        ∃ t, exec (.fabricWr src dst vc) s = .next t ∧ t.bytesAt h p.payload.length = p.payload ∧ t.cores = s.cores ∧
          (∀ a, ¬ (h ≤ a ∧ a < h + p.payload.length) → t.byte a = s.byte a) ∧ answered t (replyTo dst p 0x11 [])) ∧
      (∀ k, ¬ stalls → p.steer = false ∨ p.rkey ≠ 0 → checked = .error k →
        ∃ t, exec (.fabricWr src dst vc) s = .next t ∧ KeepsStore s t ∧ answered t (nackTo dst p k)) ∧
      (¬ stalls → p.steer = true → p.rkey = 0 ∨ (∃ h, checked = .ok h) →
        ∃ t, exec (.fabricWr src dst vc) s = .next t ∧ KeepsStore s t ∧ answered t (replyTo dst p 0x11 []) ∧ Entered s t dst p) ∧
      (stalls → p.turned = 0 →
        exec (.fabricWr src dst vc) s = .next { s with net := pre ++ post ++ [{ p with turned := 1, out := if p.ing < 4 then p.ing else p.out }] }) ∧
      (stalls → p.turned ≠ 0 →
        ∃ t, exec (.fabricWr src dst vc) s = .next t ∧ KeepsStore s t ∧ Made left t dst (nackTo dst p 1) ∧ (t.die dst).seqIn = (s.die dst).seqIn)) ∧
    (FirstIn s 3 src dst vc pre p post → ∀ op,
      let w := ofBytes (slice p.payload 0 8)
      let n := if w / 2 ^ 8 % 2 = 1 then 8 else 4
      let operand (o : Nat) : Nat := ofBytes (slice p.payload o 8) % 2 ^ (8 * n)
      AmoOp.ofCode (w % 256) = some op →
      (∀ h, s.keyCheck dst p.rkey p.job p.offs n .at = .ok h → s.poisoned h n = false → NothingInFlight s h n →
        let old := ofBytes (s.bytesAt h n)
        ∃ t, exec (.fabricAmo src dst vc) s = .next t ∧ t.bytesAt h n = bytesOf n (atomicNew op (8 * n) (w / 2 ^ 9 % 2 == 1) old (operand 8) (operand 16)) ∧
          (∀ a, ¬ (h ≤ a ∧ a < h + n) → t.byte a = s.byte a) ∧ t.cores = s.cores ∧ answered t (replyTo dst p 0x10 (bytesOf n old))) ∧
      (∀ h, s.keyCheck dst p.rkey p.job p.offs n .at = .ok h → s.poisoned h n = true →
        ∃ t, exec (.fabricAmo src dst vc) s = .next t ∧ KeepsStore s t ∧ answered t (nackTo dst p 2)) ∧
      (∀ k, s.keyCheck dst p.rkey p.job p.offs n .at = .error k → ∃ t, exec (.fabricAmo src dst vc) s = .next t ∧ KeepsStore s t ∧ answered t (nackTo dst p k)))

/-- R4, R83, R255, R273, R288, R294, R303, R369, R388, R389: a multicast write of a member stands in this member's area, a steered one enters the lane of its flow; blocks of a
reduction begin their partials, or are added to them, once for each rank, after the collective has started here, and stand in their slot before;
a packet of a communicator that its die is no member of, from no member, or whose area is not sealed for the job, is refused. -/
def Sys2Proof.Claims.MulticastAndReductionsReachMembers : Prop :=
  ∀ (s : State) (src dst vc : Nat) (p : Packet) (pre post : List Packet), Expected s dst p → p.request = true →
    let left : State := { s with net := pre ++ post }
    let answered (t : State) (q : Packet) : Prop := Made left t dst q ∧ Counted t dst p
    let key := p.job * 256 + p.rkey % 256
    let qp := p.rkey / 2 ^ 8 % 16
    let seq := p.rkey / 2 ^ 13
    let c := s.comm dst key
    (FirstIn s 6 src dst vc pre p post → p.steer = true →
      ((s.die dst).stalled = false → ∃ t, exec (.fabricMcwr src dst vc) s = .next t ∧ KeepsStore s t ∧ answered t (replyTo dst p 0x11 []) ∧ Entered s t dst p) ∧
      ((s.die dst).stalled = true → exec (.fabricMcwr src dst vc) s =
        .next { s with net := pre ++ post ++ if p.turned ≠ 0 then [] else
          if p.ing < 2 then [{ p with turned := 1, dst := 2 ^ (dst % 8), out := p.ing }]
          else if p.ing < 4 then [{ s.aimed p with turned := 1, dst := 0, out := p.ing }] else [{ p with turned := 1 }] })) ∧
    (∀ i ∈ [Instr.fabricMcwr src dst vc, .fabricWrr src dst vc], FirstIn s (if i = .fabricMcwr src dst vc then 6 else 7) src dst vc pre p post → p.steer = false →
      c.valid = false ∨ p.src ∉ c.members → ∃ t, exec i s = .next t ∧ KeepsStore s t ∧ answered t (nackTo dst p 2)) ∧
    ∀ r, c.members[r]? = some p.src → p.src ∉ c.members.take r → c.valid = true → p.steer = false →
      (FirstIn s 6 src dst vc pre p post →
        let h := c.home dst p.offs
        let sealed := ∀ i, i < p.payload.length → s.sealOk p.job (h + i) = true
        (sealed → ∃ t, exec (.fabricMcwr src dst vc) s = .next t ∧ t.bytesAt h p.payload.length = p.payload ∧ t.cores = s.cores ∧
          (∀ a, ¬ (h ≤ a ∧ a < h + p.payload.length) → t.byte a = s.byte a) ∧ answered t (replyTo dst p 0x11 [])) ∧
        (¬ sealed → ∃ t, exec (.fabricMcwr src dst vc) s = .next t ∧ KeepsStore s t ∧ answered t (nackTo dst p 2))) ∧
      (FirstIn s 7 src dst vc pre p post →
        (c.holds qp seq = true → ∃ t, exec (.fabricWrr src dst vc) s = .next t ∧ KeepsStore s t ∧ t.net = pre ++ post ∧ Counted t dst p ∧
          (t.comm dst key).parked = c.parked ++ [p]) ∧
        (c.holds qp seq = false → s.sealOk p.job (c.stage dst) = false → ∃ t, exec (.fabricWrr src dst vc) s = .next t ∧ KeepsStore s t ∧ answered t (nackTo dst p 2)) ∧
        (c.holds qp seq = false → s.sealOk p.job (c.stage dst) = true → (∀ e, c.matched qp seq = some e → e.phase ≠ .started) →
          ∃ t, exec (.fabricWrr src dst vc) s = .next t ∧ KeepsStore s t ∧ answered t (replyTo dst p 0x11 []) ∧ (t.comm dst key).partials = c.partials) ∧
        (∀ e, s.sealOk p.job (c.stage dst) = true → c.matched qp seq = some e → e.phase = .started →
          ∃ t, exec (.fabricWrr src dst vc) s = .next t ∧ answered t (replyTo dst p 0x11 []) ∧ (t.comm dst key).partials =
            ((List.range (p.payload.length / 200)).foldl (fun c i => c.combine qp seq (p.offs + i) r (slice p.payload (200 * i) 200)) c).partials) ∧
        (∀ e, s.sealOk p.job (c.stage dst) = true → c.matched qp seq = some e → e.phase = .started → 1 < c.n → p.payload.length = 200 →
          (∀ x ∈ c.partials, x.qp = qp → x.seq = seq → x.from_.length + 1 < c.n) → (∀ b, c.badBlock qp e b = false) →
          (∀ i, i < e.nch → e.inChunk i ≠ []) →
          let head := ofBytes (p.payload.take 8)
          let bad := head % 256 == 0 || head / 2 ^ 10 != 0
          let sums := (List.range 32).map (fun i => sext (ofBytes (slice p.payload (8 + 6 * i) 6)) 48)
          let mine (x : Partial) : Bool := x.qp == qp && x.seq == seq && x.block == p.offs
          ∃ t, exec (.fabricWrr src dst vc) s = .next t ∧ KeepsStore s t ∧ answered t (replyTo dst p 0x11 []) ∧
            (c.partials.find? mine = none → (t.comm dst key).partials = c.partials ++
              [{ qp := qp, seq := seq, block := p.offs, from_ := [r], eb := head % 256, pois := head.testBit 8, ovf := head.testBit 9, q := sums, bad := bad }]) ∧
            (∀ x, c.partials.find? mine = some x → r ∉ x.from_ → (t.comm dst key).partials.find? mine =
              some { x with from_ := x.from_ ++ [r], pois := x.pois || head.testBit 8, ovf := x.ovf || head.testBit 9,
                            q := (x.q.zip sums).map (fun e => e.1 + e.2), bad := x.bad || bad || head % 256 != x.eb }) ∧
            (∀ x, c.partials.find? mine = some x → r ∈ x.from_ → (t.comm dst key).partials = c.partials)))

/-- R4, R62, R172, R175, R198, R251, R300, R352, R359, R383, R390, R393: an answer frees the request it answers, and what waited goes on: the line of a read, or of a prefetch, asked for since the
last invalidation, the old value of an atomic, the bytes of a card or of a user queue, a pending register, but a value below SLIM for g30 is a
fault at the next boundary; a refusal ends the request, with a fault at its address for a write-back, or after reason 0x01 schedules a resend; a malformed
answer only counts. A GANG packet puts a question, answers one, or hands on a token of a switch; a proposal drains its communicator. A request unanswered for 2^20
cycles backs off, then it and the later ones of its pair go again by the route that holds now, sixteen times at most. The payload of a GANG packet is the model's
(DESIGN CHOICE, log 19). The model's own choices in it: logs 7, 17, 41, 89. -/
def Obligations.AnswersEndTheirRequests : Prop :=
  (∀ (s : State) (src dst vc : Nat) (p : Packet) (pre post : List Packet) (r : Replay) (core x : Nat), (s.die dst).closed.contains p.job = false →
    (s.die dst).deaf p.job = false → p.bad = false → Answers s dst p r →
    let q : Place := ⟨core, x⟩
    (FirstIn s 0x10 src dst vc pre p post → r.origin = (0, core, x) → r.pkt.op = 8 ∨ r.pkt.op = 9 → ∃ t, exec (.fabricRsp src dst vc) s = .next t ∧ t.net = pre ++ post ∧ Freed t dst r ∧ KeepsStore s t) ∧
    (∀ (i : Iss), FirstIn s 0x10 src dst vc pre p post → r.origin = (0, core, x) → r.pkt.op = 3 → (s.ctxAt q).held = some i → AwaitsOf i r → (s.ctxAt q).pend = [] →
      ∃ t, exec (.fabricRsp src dst vc) s = .next t ∧ t.net = pre ++ post ∧ Freed t dst r ∧ (∀ a, t.byte a = s.byte a) ∧
        t.ctxAt q = { s.ctxAt q with held := some { i with req := none, resp := some (.data p.payload) } }) ∧
    (∀ (i : Iss), FirstIn s 0x10 src dst vc pre p post → r.origin = (0, core, x) → r.pkt.op = 1 → (s.ctxAt q).held = some i → AwaitsOf i r → (s.ctxAt q).pend = [] →
      ∃ t, exec (.fabricRsp src dst vc) s = .next t ∧ t.net = pre ++ post ∧ Freed t dst r ∧ ((s.core core).dcache.length < 2048 → ∀ a, t.byte a = s.byte a) ∧
        t.ctxAt q = { s.ctxAt q with held := some { i with req := none, resp := none } } ∧ FilledBy s t core r p.payload) ∧
    (FirstIn s 0x10 src dst vc pre p post → r.origin = (4, core, x) → ∃ t, exec (.fabricRsp src dst vc) s = .next t ∧ t.net = pre ++ post ∧ Freed t dst r ∧
      (t.core core).c0 = (s.core core).c0 ∧ (t.core core).c1 = (s.core core).c1 ∧ FilledBy s t core r p.payload) ∧
    (∀ u, FirstIn s 0x10 src dst vc pre p post → r.origin = (7, core, x) → queueOf s dst core = u → u.req = some (r.pkt.dst, r.pkt.vc, r.pkt.seq) →
      ∃ t, exec (.fabricRsp src dst vc) s = .next t ∧ t.net = pre ++ post ∧ Freed t dst r ∧ KeepsStore s t ∧ queueOf t dst core = { u with req := none, got := some p.payload }) ∧
    (∀ (d : Pend), FirstIn s 0x10 src dst vc pre p post → r.origin = (0, core, x) → (s.ctxAt q).pend = [d] → (d.dst, d.vc, d.seq) = (r.pkt.dst, r.pkt.vc, r.pkt.seq) →
      r.pkt.op ≠ 8 → r.pkt.op ≠ 9 →
      let bs := d.own.foldl (fun bs e => setAt bs e.1 e.2) p.payload
      let v : Word := if d.signed then BitVec.ofInt 64 (sext (ofBytes (slice bs d.off d.len)) (8 * d.len)) else BitVec.ofNat 64 (ofBytes (slice bs d.off d.len))
      ∃ t, exec (.fabricRsp src dst vc) s = .next t ∧ (t.ctxAt q).pend = [] ∧
        (d.g = 30 ∧ v < (s.ctxAt q).r.slim → (t.ctxAt q).r = (s.ctxAt q).r ∧
          (t.ctxAt q).bfaults = (s.ctxAt q).bfaults ++ [{ cause := 0x0701, addr := v, aux := 0, slot := 5 }]) ∧
        (¬ (d.g = 30 ∧ v < (s.ctxAt q).r.slim) → (∀ n, n ≠ d.g → (t.ctxAt q).r.rg n = (s.ctxAt q).r.rg n) ∧ (t.ctxAt q).bfaults = (s.ctxAt q).bfaults ∧
          (t.ctxAt q).r.rg d.g = if d.g = 0 then 0 else v)) ∧
    (FirstIn s 0x10 src dst vc pre p post → r.origin = (1, core, x) → ∃ t, exec (.fabricRsp src dst vc) s = .next t ∧ t.net = pre ++ post ∧ Freed t dst r ∧
      (t.core core).cards = (s.core core).cards.map (fun c => if c.id = x ∧ c.waiting = some (r.pkt.dst, r.pkt.vc, r.pkt.seq) then
        { c with waiting := none, data := c.data ++ p.payload } else c) ∧ ∀ a, t.byte a = s.byte a) ∧
    (FirstIn s 0x11 src dst vc pre p post → r.origin = (6, core, x) → ∃ t, exec (.fabricAck src dst vc) s = .next t ∧ t.net = pre ++ post ∧ Freed t dst r ∧ KeepsStore s t ∧
      (t.comm dst core).owed = (s.comm dst core).owed.filter (fun d => d != r.pkt.dst)) ∧
    (FirstIn s 0x11 src dst vc pre p post → r.origin.1 ∈ [2, 3, 5] ∨ (r.origin.1 = 0 ∧ (r.pkt.op = 8 ∨ r.pkt.op = 9)) → ∃ t, exec (.fabricAck src dst vc) s = .next t ∧ t.net = pre ++ post ∧ Freed t dst r ∧ KeepsStore s t) ∧
    (∀ (i : Iss), FirstIn s 0x12 src dst vc pre p post → r.origin = (0, core, x) → (s.ctxAt q).held = some i → AwaitsOf i r → (s.ctxAt q).pend = [] →
      let reason := (p.payload.getD 0 0).toNat
      (2 ≤ reason → reason ≤ 4 → ∃ t, exec (.fabricNack src dst vc) s = .next t ∧ t.net = pre ++ post ∧ Freed t dst r ∧ (∀ a, t.byte a = s.byte a) ∧
        t.ctxAt q = { s.ctxAt q with held := some { i with req := none, resp := some (.nack (if reason = 3 then 3 else 2)) } }) ∧
      (reason = 1 → ∃ t, exec (.fabricNack src dst vc) s = .next t ∧ KeepsStore s t ∧ t.net = pre ++ post ∧
        (t.die dst).window.find? (fun e => e.pkt.dst == p.src && e.pkt.vc == p.rvc && e.pkt.seq == p.seq && e.pkt.job == p.job) =
          some { r with resendAt := some (s.cycle + BitVec.ofNat 64 (64 * 2 ^ Min.min 15 ((s.die dst).backoff + r.resends))) })) ∧
    (FirstIn s 0x12 src dst vc pre p post →
      let reason := (p.payload.getD 0 0).toNat
      let va : Word := BitVec.ofNat 64 r.tag.2
      let cause := if reason = 3 then 0x0C02 else 0x0C01
      (2 ≤ reason → reason ≤ 4 → r.origin = (1, core, x) → ∃ t, exec (.fabricNack src dst vc) s = .next t ∧ t.net = pre ++ post ∧ Freed t dst r ∧
        (t.core core).cards = (s.core core).cards.map (fun c => if c.id = x then
          { c with waiting := none, failed := if c.failed.isSome then c.failed else some (if reason = 3 then 4 else 3, va) } else c) ∧ ∀ a, t.byte a = s.byte a) ∧
      (2 ≤ reason → reason ≤ 4 → r.origin = (2, core, x) →
        (∀ w, s.chargeTo core r.pkt.job = some w → ∃ t, exec (.fabricNack src dst vc) s = .next t ∧ t.net = pre ++ post ∧ Freed t dst r ∧ (∀ a, t.byte a = s.byte a) ∧
          t.ctxAt w = { s.ctxAt w with bfaults := (s.ctxAt w).bfaults ++ [{ cause := cause, addr := va, aux := 0, slot := 5 }] }) ∧
        (s.chargeTo core r.pkt.job = none → ∃ t, exec (.fabricNack src dst vc) s = .next t ∧ t.net = pre ++ post ∧ Freed t dst r ∧
          (t.core (sysCore dst)).evt = (s.core (sysCore dst)).evt ||| 2)))) ∧
  (∀ (s : State) (src dst vc : Nat) (p : Packet) (pre post : List Packet), (s.die dst).closed.contains p.job = false → (s.die dst).deaf p.job = false → p.bad = true →
    ∀ i ∈ [(0x10, Instr.fabricRsp src dst vc), (0x11, .fabricAck src dst vc), (0x12, .fabricNack src dst vc)], FirstIn s i.1 src dst vc pre p post →
      ∃ t, exec i.2 s = .next t ∧ KeepsStore s t ∧ t.net = pre ++ post ∧ (t.die dst).window = (s.die dst).window ∧ (t.die dst).badpkt = (s.die dst).badpkt + 1) ∧
  (∀ (s : State) (src dst vc : Nat) (p : Packet) (pre post : List Packet), Expected s dst p → p.request = true →
    let left : State := { s with net := pre ++ post }
    (FirstIn s 0x21 src dst vc pre p post →
      let h := wordOf (slice p.payload 0 8)
      let kind := bits h 7 0
      let coord := bits h 15 8
      let ws := wordsOf 8 (p.payload.drop 8)
      let mine (v : Switch) : Bool := v.isOf coord (bits h 16 16)
      let sw := (s.die dst).sw
      let heard (l : List Switch) : Prop := ∃ t, exec (.fabricMgmt src dst vc) s = .next t ∧ KeepsStore s t ∧ Counted t dst p ∧
        Made left t dst (replyTo dst p 0x11 []) ∧ (t.die dst).sw = l
      let each (f : Switch → Switch) : List Switch := sw.map (fun v => if mine v then f v else v)
      (kind = 0 → (s.die dst).window.length < 256 →
        let n := s.switchCheck dst ws
        ∃ t w q, exec (.fabricMgmt src dst vc) s = .next t ∧ KeepsStore s t ∧ Counted t dst p ∧ TokenOf dst coord 1 w n q ∧ q ∈ t.net ∧
          w = Switch.ofDesc ws coord (bits h 16 16) ∧ (t.die dst).sw = if n = 0 then sw ++ [w] else sw) ∧
      (kind = 0 → 256 ≤ (s.die dst).window.length → exec (.fabricMgmt src dst vc) s = .next s) ∧
      (kind = 1 → heard (each (fun v => { v with answers := v.answers ++ [(p.src, bits h 31 24)] }))) ∧
      (kind = 2 → heard (each (fun v => { v with phase := .idle, tok := .quiesce, status := bits h 31 24 }))) ∧
      (kind = 3 → heard (each (fun v => { v with tok := .close }))) ∧
      (kind = 4 → heard (each (fun v => { v with reports := v.reports ++ [p.src] }))) ∧
      (kind = 5 → heard (each (fun v => { v with tok := .load }))) ∧
      (6 ≤ kind → (∀ v ∈ sw, mine v = true → v.phase ≠ .opened) → heard (sw.filter (fun v => !mine v)))) ∧
    (FirstIn s 0x20 src dst vc pre p post → ∃ t, exec (.fabricMgmt src dst vc) s = .next t ∧ Made left t dst (replyTo dst p 0x11 []) ∧
      KeepsStore s t ∧ ∀ comm ver members, p.payload = proposal comm ver members → comm < 256 → ver < 2 ^ 32 → members ≠ [] → (∀ d ∈ members, d < 256) →
        members.length ≤ 256 → (t.comm dst (p.job * 256 + comm)).draining = some (members, ver))) ∧
  ∀ (s : State) (src dst vc seq : Nat) (r : Replay),
    let here (e : Replay) : Bool := e.pkt.dst == dst && e.pkt.vc == vc && e.pkt.seq == seq
    (s.die src).window.find? here = some r → (s.die src).halted r.pkt.job = false →
    (r.resendAt = none → 2 ^ 20 ≤ (s.cycle - r.sentAt).toNat → ∃ t, exec (.answerTimeout src dst vc seq) s = .next t ∧ OnlyDie src s t ∧
      (t.die src).window.find? here = some { r with resendAt := some (s.cycle + BitVec.ofNat 64 (64 * 2 ^ Min.min 15 ((s.die src).backoff + r.resends))) }) ∧
    (r.resendAt = none → (s.cycle - r.sentAt).toNat < 2 ^ 20 → exec (.answerTimeout src dst vc seq) s = .next s) ∧
    (∀ at_, r.resendAt = some at_ → at_ ≤ s.cycle → r.resends < 15 → seq < 4096 → ∃ t, exec (.backoffResend src dst vc seq) s = .next t ∧ KeepsStore s t ∧
      t.net = s.net ++ numbered (s.die src).aseq (((s.die src).window.filter (fun e => e.pkt.dst == dst && e.pkt.vc == vc && (e.pkt.seq + 4096 - seq) % 4096 < 2048)).flatMap
        (fun e => if e.pkt.op = 6 then s.stand src 8 (s.aimed e.pkt) else [{ e.pkt with at_ := src, ing := 8, out := s.onward src 8 e.pkt.dst }])) ∧
      (t.die src).window.find? here = some { r with resends := r.resends + 1, resendAt := none, sentAt := s.cycle }) ∧
    (∀ at_ core x i, r.resendAt = some at_ → at_ ≤ s.cycle → 15 ≤ r.resends → r.origin = (0, core, x) → (s.ctxAt ⟨core, x⟩).held = some i → AwaitsOf i r →
      ∃ t, exec (.backoffResend src dst vc seq) s = .next t ∧ t.net = s.net ∧ Freed t src r ∧
        (t.ctxAt ⟨core, x⟩).held = some { i with req := none, resp := some (.nack 2) })

/-- R384 to R387: a frame that its sender can send takes its packets from those that stand there, in their turn, and stays unacknowledged. One in sequence with a
good tag, whose flits decrypt to its packets, brings them to the station of the next die and its grants to the credits; a bad tag discards it and asks for a resend, as does
one out of sequence; the eighth bad tag in a row takes the link down. A census goes after 1,024 flits and sets each class's credit to its count less the slots sent
since and to be sent again. Flits that do not decrypt to the packets that the event names are no frame (log 22).
The model's own choices in it: log 22. -/
def Obligations.LinksDeliverFramesInOrder : Prop :=
  (∀ (s : State) (die port : Nat) (f : LinkFrame), port ≤ 3 →
    let l := s.link die port
    let from_ := s.peer die port
    let sender := s.link from_.1 from_.2
    let key : BitVec 256 := SMap.get 0 (s.die die).linkKeys port
    let good := Config.gcmTag key (linkIv die port f.number) (f.flits.take 32) (f.flits.drop 32) = f.tag
    let (ps, rest) := match sender.again with | ps :: _ => (ps, s.net) | [] => takenOff from_.1 port f.packets s.net
    (l.down = true ∨ s.canSend from_.1 from_.2 port f = false → exec (.linkFrameRx die port f) s = .next s) ∧ (l.down = false → s.canSend from_.1 from_.2 port f = true →
    (good → l.discarding = false → f.number = l.lastGood + 1 → frameRest key (linkIv die port f.number) f l.part = none → exec (.linkFrameRx die port f) s = .next s) ∧
    (∀ part, good → l.discarding = false → f.number = l.lastGood + 1 → frameRest key (linkIv die port f.number) f l.part = some part →
      (∀ p ∈ ps, (s.die die).closed.contains p.job = false) →
      ∃ t, exec (.linkFrameRx die port f) s = .next t ∧ KeepsStore s t ∧ t.net = rest ++ numbered (s.die die).aseq (ps.flatMap (s.stand die port)) ∧
        (t.link die port).lastGood = f.number ∧ (t.link die port).fails = 0 ∧ (t.link die port).flitsRx = l.flitsRx + 16 ∧ (t.link die port).part = part ∧
        (t.link from_.1 from_.2).frame = f.number ∧ (t.link from_.1 from_.2).unacked = sender.unacked ++ [(f.number, ps)] ∧
        (t.link from_.1 from_.2).flitsTx = sender.flitsTx + 16 ∧ (t.link from_.1 from_.2).again = sender.again.drop 1 ∧
        (f.nak = false → (t.link die port).unacked = l.unacked.filter (fun u => f.ackf < u.1 % 2 ^ 48)) ∧
        (f.nak = true → (t.link die port).unacked = [] ∧ (t.link die port).again = (l.unacked.filter (fun u => f.ackf < u.1 % 2 ^ 48)).map (·.2) ++ l.again) ∧
        ∀ g, f.grants = [g] → t.creditOf die port (g.comm, g.cls) = s.creditOf die port (g.comm, g.cls) + g.slots) ∧
    (good → l.discarding = false → f.number ≠ l.lastGood + 1 → f.rtx = false → ∃ t, exec (.linkFrameRx die port f) s = .next t ∧ KeepsStore s t ∧ t.net = rest ∧
      (t.link die port).discarding = true ∧ (t.link die port).nak = true ∧ (t.link die port).lastGood = l.lastGood ∧
      (t.link from_.1 from_.2).unacked = sender.unacked ++ [(f.number, ps)]) ∧
    (¬ good → l.fails < 7 → ∃ t, exec (.linkFrameRx die port f) s = .next t ∧ KeepsStore s t ∧ t.net = rest ∧
      t.link die port = { l with flitsRx := l.flitsRx + 16, fails := l.fails + 1, discarding := true, nak := true, down := false } ∧
      (t.link from_.1 from_.2).unacked = sender.unacked ++ [(f.number, ps)]) ∧
    (¬ good → l.fails = 7 → ∃ t, exec (.linkFrameRx die port f) s = .next t ∧ t.net = rest ∧ (t.link die port).down = true ∧
      (t.core (die * 128 + 64)).evt = (s.core (die * 128 + 64)).evt ||| 32))) ∧
  (∀ (s : State) (die port : Nat), port ≤ 3 →
    let l := s.link die port
    l.down = false →
    (l.censusAt + 1024 ≤ l.flitsRx → ∃ t, exec (.censusSend die port) s = .next t ∧ OnlyDie die s t ∧
      let free : List Grant := s.classes.map (fun c => ⟨c.1, c.2, s.freeSlots die port c⟩)
      let c : Census := { flits := l.flitsRx % 2 ^ 48, entries := free }
      t.link die port = { l with censusAt := l.flitsRx, given := free, census := some c.bytes }) ∧
    (l.flitsRx < l.censusAt + 1024 → exec (.censusSend die port) s = .next s)) ∧
  ∀ (s : State) (die port : Nat) (c : Census) (g : Grant), port ≤ 3 → (s.link (s.peer die port).1 (s.peer die port).2).census = some c.bytes → c.entries = [g] →
    let l := s.link die port
    let after := l.sentAfter.filter (fun e => c.flits ≤ e.2.1)
    ∃ t, exec (.censusReceive die port c) s = .next t ∧ KeepsStore s t ∧ t.net = s.net ∧ (t.link die port).sentAfter = after ∧
      t.creditOf die port (g.comm, g.cls) = g.slots - ((after.filter (fun e => e.2.2 == (g.comm, g.cls))).length +
        (l.again.flatten.filter (fun p => p.creditClass == (g.comm, g.cls))).length) ∧
      (t.link (s.peer die port).1 (s.peer die port).2).census = none

/-! ## The host ports, boot, power, registers -/

/-- R397: a claim of an unowned module makes an owner, port 0 first; the owner offers, the other port accepts; an owner whose link has been down for 100 ms loses the module. R380: a
device interface enters and leaves RUN. -/
def Sys2Proof.Claims.OwnershipPassesBetweenPorts : Prop :=
  ∀ (s : State) (md : Nat),
    let m := s.md md
    (∀ p0 p1, ∃ t, exec (.claim md p0 p1) s = .next t ∧ OnlyMd md s t ∧
      t.md md = if m.owner = 0 ∧ (p0 || p1) = true then { m with owner := if p0 then 1 else 2 } else m) ∧
    (∀ port, ∃ t, exec (.handoff md port) s = .next t ∧ OnlyMd md s t ∧ t.md md = if port < 2 ∧ m.owner = port + 1 then { m with offer := true } else m) ∧
    (∀ port, ∃ t, exec (.accept md port) s = .next t ∧ OnlyMd md s t ∧
      t.md md = if m.offer = true ∧ port < 2 ∧ m.owner ≠ 0 ∧ m.owner ≠ port + 1 then { m with owner := port + 1, offer := false } else m) ∧
    (∀ port, port < 2 → ∃ t, exec (.hostLinkDown md port) s = .next t ∧ OnlyMd md s t ∧
      t.md md = if port = 0 then { m with down0 := some (m.down0.getD s.cycle) } else { m with down1 := some (m.down1.getD s.cycle) }) ∧
    (∀ port, port < 2 → ∃ t, exec (.hostLinkUp md port) s = .next t ∧ OnlyMd md s t ∧ t.md md = if port = 0 then { m with down0 := none } else { m with down1 := none }) ∧
    (∃ t, exec (.ownerLinkLoss md) s = .next t ∧ OnlyMd md s t ∧
      (∀ since, (m.owner = 1 ∧ m.down0 = some since) ∨ (m.owner = 2 ∧ m.down1 = some since) →
        t.md md = if 180000000 ≤ (s.cycle - since).toNat then { m with owner := 0, offer := false } else m) ∧
      (m.owner = 0 ∨ (m.owner = 1 ∧ m.down0 = none) ∨ (m.owner = 2 ∧ m.down1 = none) → t.md md = m)) ∧
    ∀ part run, ∃ t, exec (.deviceInterfaceState md part run) s = .next t ∧ OnlyMd md s t ∧ t.md md = { m with runIf := SMap.put m.runIf part run }

/-- R29, R380, R397, R399, R402: a host request to a page that nothing is mapped at, to one that may not be shown, to a private page without trust or whose own device
interface does not run, and a write of a port that is not the owner are refused: completed with Unsupported Request, but a posted write discarded; a read returns what its
page shows, a write of the owner reaches it. -/
def Sys2Proof.Claims.HostRequestsReachTheirPage : Prop :=
  ∀ (s : State) (md : Nat) (r : BarReq),
    let m := s.md md
    let off := r.addr % 4096
    let refused : Prop := ∃ t, exec (.hostBarRequest md r) s = .next t ∧ t.cores = s.cores ∧ t.dies = s.dies ∧
      (t.md md).answers = if r.write ≠ none ∧ r.posted = true then m.answers else m.answers ++ [none]
    ((∀ e ∈ m.pages, e.1 ≠ r.addr / 4096) → refused) ∧
    ∀ page priv part, m.pages.find? (fun e => e.1 == r.addr / 4096) = some (r.addr / 4096, page, priv, part) →
      (s.barHas page = false → refused) ∧ (s.barHas page = true →
      (priv = true → r.trusted = false ∨ SMap.get false m.runIf part = false → refused) ∧
      ((priv = true → r.trusted = true ∧ SMap.get false m.runIf part = true) →
        (r.write = none → ∃ t v, exec (.hostBarRequest md r) s = .next t ∧ t = { s with mds := t.mds, fresh := t.fresh } ∧ (∀ d, d ≠ md → t.md d = s.md d) ∧
          ((∀ die, page ≠ .event die) → t.fresh = s.fresh) ∧ (t.md md).answers = m.answers ++ [some v] ∧
          (∀ die q, page = .queue die q → off = 0x18 → v = (queueOf s die q).ridx) ∧
          (∀ die pa, page = .granule die pa → v = wordOf (s.bytesAt (homePa (die / 8) pa + off) 8)) ∧
          (page = .management → off = 0x18 → v = BitVec.ofNat 64 (m.stage + m.failing * 256)) ∧ (page = .management → off = 8 → v = m.lattol)) ∧
        (∀ v, r.write = some v →
          (m.owner ≠ r.port + 1 → (page ≠ .management ∨ off ≠ 0 ∨ (v.getLsbD 2 = false ∧ v.getLsbD 4 = false)) → refused) ∧
          (m.owner = r.port + 1 →
            (∀ die q, page = .queue die q → off = 0x10 → exec (.hostBarRequest md r) s = exec (.uqWidxWrite die q v) s) ∧
            (∀ die pa, page = .granule die pa → ∃ t, exec (.hostBarRequest md r) s = .next t ∧ t.bytesAt (homePa (die / 8) pa + off) 8 = bytesOf 8 v.toNat ∧
              ∀ a, ¬ (homePa (die / 8) pa + off ≤ a ∧ a < homePa (die / 8) pa + off + 8) → t.byte a = s.byte a) ∧
            (∀ die, page = .event die → ∃ t, exec (.hostBarRequest md r) s = .next t ∧ (t.core (die * 128 + 64)).evt = (s.core (die * 128 + 64)).evt ||| 1) ∧
            (∀ base, page = .staging base → ∃ t, exec (.hostBarRequest md r) s = .next t ∧
              (0x10 ≤ m.stage ∧ m.stage < 0x80 → t = s) ∧ (m.stage < 0x10 ∨ 0x80 ≤ m.stage → t.bytesAt (stagingHome md (base + off)) 8 = bytesOf 8 v.toNat)) ∧
            (page = .management → off = 8 → ∃ t, exec (.hostBarRequest md r) s = .next t ∧ Tolerates s t md v)))))

/-- R10, R12, R311, R365, R366, R369, R376, R377, R398 to R400: reset clears a module's SRAM, registers and keys, and leaves in its HBM the ciphertext of what was sealed (log 7); GO copies the bundle to every die; a die's ROM checks the parts and derives its keys, or boot fails with the
first bad part; root starts on its system core, with the ring's link keys and an event area of zeros, unless the chain is not its identity key's or the configuration is
another module's (log 45); links train, the bridge's and Ethernet's with keys agreed upon; the monitor takes over, then the module is ready.
The model's own choices in it: logs 2, 7, 18, 44, 45. -/
def Obligations.BootGoesThroughItsStages : Prop :=
  (∀ (s : State) (md : Nat), ∃ t, exec (.reset md) s = .next t ∧ t.md md = {} ∧ (∀ d, d / 8 = md → t.die d = {}) ∧ (∀ d, d / 8 ≠ md → t.die d = s.die d) ∧
    (∀ k, k / 1024 = md → t.core k = Core.init k) ∧ (∀ k, k / 1024 ≠ md → t.core k = s.core k) ∧
    (∀ a, 2 ^ 61 ≤ a → homeDie a / 8 = md → t.byte a = 0) ∧ (∀ a, homeDie a / 8 ≠ md ∨ (a < 2 ^ 61 ∧ s.keyAt a = none) → t.byte a = s.byte a) ∧
    ∀ u k, u < 2 ^ 61 → homeDie u / 8 = md → (sealUnit u).1 = u → s.keyAt u = some k → u ∈ t.rekeyed s →
      t.bytesAt u 64 = Config.xtsSeal k (sealUnit u).2.2 64 (s.bytesAt u 64)) ∧
  (∀ (s : State) (md kib : Nat),
    let bytes := s.bytesAt (stagingHome md 0) (kib * 1024)
    ((s.md md).owner ≠ 0 → (s.md md).stage = 0 → kib ≤ 65536 → ∃ t, exec (.go md kib) s = .next t ∧ t.md md = { s.md md with stage := 0x10, failing := 0, kib := kib } ∧
      (∀ d, d / 8 = md → (t.die d).stage = 0x10 ∧ t.bytesAt (bundleHome d 0) (kib * 1024) = bytes) ∧
      (∀ a, (∀ d, d / 8 = md → ¬ (bundleHome d 0 ≤ a ∧ a < bundleHome d 0 + kib * 1024)) → t.byte a = s.byte a) ∧ t.cores = s.cores) ∧
    ((s.md md).owner = 0 ∨ 65536 < kib → exec (.go md kib) s = .next s)) ∧
  (∀ (s : State) (die : Nat),
    let m := s.md (die / 8)
    let parts := Config.bundleParts (s.bytesAt (bundleHome die 0) (m.kib * 1024))
    let good (i : Nat) : Prop := ∃ p, parts[i]? = some p ∧ Config.slhVerify Config.strelevoKey p.1 p.2 = true
    let body (i : Nat) : List Byte := ((parts[i]?).map (·.1)).getD []
    (s.die die).stage = 0x10 → m.stage ≠ 0xFF →
    ((∀ i, i < 5 → good i) → ∃ t, exec (.bootVerify die) s = .next t ∧ (t.die die).stage = 0x20 ∧ t.md (die / 8) = { m with stage := Max.max m.stage 0x20 } ∧
      (t.die die).meas = [Config.sha256 (body 0), Config.sha256 (body 1), Config.sha256 (body 2)] ∧ (t.die die).seed = Config.identitySeed die (body 3) ∧
      KeepsStore s t ∧ ∀ d, d ≠ die → t.die d = s.die d) ∧
    (∀ n, n < 5 → ¬ good n → (∀ i, i < n → good i) →
      ∃ t, exec (.bootVerify die) s = .next t ∧ OnlyMd (die / 8) s t ∧ t.md (die / 8) = { m with stage := 0xFF, failing := n + 1 })) ∧
  (∀ (s : State) (die : Nat),
    let md := die / 8
    let k := die * 128 + 64
    let chain := Config.certLeaf ((s.die die).parts5.getD 4 []) = (keyPairOf (s.die (md * 8)).seed).2
    let named := (Config.configField ((s.die die).parts5.getD 2 []) 3).toNat = md
    let area := die % 8 * 2 ^ 45 + (Config.eventGranule die).toNat * 2 ^ 16
    (∀ d, d / 8 = md → 0x20 ≤ (s.die d).stage) → (s.die die).stage = 0x20 → (s.md md).stage ≠ 0xFF →
    (chain → named → ∃ t v, exec (.rootStart die) s = .next t ∧ (t.die die).stage = 0x30 ∧ (t.core k).c0.run = .running ∧ (t.core k).c0.y.level = 2 ∧
      (t.core k).c0.r.pc = Config.rootVector die ∧ (SMap.get {} (t.die die).keys 0).v = true ∧ (SMap.get {} (t.die die).keys 0).kind = 0 ∧
      (t.core k).evtarea = BitVec.ofNat 64 area ∧ (∀ p, p < 2 → SMap.get 0 (t.die die).linkKeys p = Config.agreedLinkKey die p s.fresh) ∧
      (die % 8 = 0 → ((t.md md).aliasKey, (t.md md).aliasCert) = aliasOf (s.die die).seed ((s.die die).meas.getD 0 0) ((s.die die).meas.getD 1 0)) ∧
      Resealed s v ∧ (∀ a, v.keyAt a = t.keyAt a) ∧ v.rekeyed s = t.rekeyed s ∧
      ∀ a, t.byte a = if homePa md area ≤ a ∧ a < homePa md area + 65536 then 0 else v.byte a) ∧
    (¬ chain → ∃ t, exec (.rootStart die) s = .next t ∧ OnlyMd md s t ∧ t.md md = { s.md md with stage := 0xFF, failing := 5 }) ∧
    (chain → ¬ named → ∃ t, exec (.rootStart die) s = .next t ∧ OnlyMd md s t ∧ t.md md = { s.md md with stage := 0xFF, failing := 3 })) ∧
  (∀ (s : State) (die : Nat),
    let md := die / 8
    (∀ d, d / 8 = md → 0x30 ≤ (s.die d).stage) → (s.die die).stage = 0x30 → (s.md md).stage ≠ 0xFF →
    (∃ t, exec (.linkTraining die true) s = .next t ∧ KeepsStore s t ∧ (t.die die).stage = 0x40 ∧ 1 ≤ t.nmod ∧ t.nmod ≤ 32 ∧
      (t.die die).ethMode = s.conf die 0 ∧ (t.die die).backoff = s.conf die 1 ∧
      (∀ e ∈ [(die, 2), (die, 3), t.peer die 2, t.peer die 3], t.link e.1 e.2 = {} ∧ SMap.get 0 (t.die e.1).linkKeys e.2 = Config.agreedLinkKey e.1 e.2 s.fresh) ∧
      (∀ p, 4 ≤ p → p < 8 → SMap.get 0 (t.die die).linkKeys p = Config.agreedLinkKey die p s.fresh) ∧
      ∀ d, d / 8 = md → d ≠ die → SMap.get 9 (t.die die).routes d = if (d + 8 - die) % 8 ≤ 4 then 0 else 1) ∧
    ∃ t, exec (.linkTraining die false) s = .next t ∧ KeepsStore s t ∧ (t.md md).stage = 0xFF ∧ (t.md md).failing = 0) ∧
  (∀ (s : State) (md : Nat), (∀ d, d / 8 = md → 0x50 ≤ (s.die d).stage) → (s.md md).stage = 0x50 →
    ∃ t, exec (.monitorHandover md) s = .next t ∧ (t.md md).stage = 0x80 ∧ KeepsStore s t ∧ ∀ d, d / 8 = md → (t.die d).stage = 0x80) ∧
  ∀ (s : State) (md : Nat), (∀ d, d / 8 = md → 0x40 ≤ (s.die d).stage) → (s.md md).stage = 0x40 →
    ∃ t, exec (.monitorHandover md) s = .next t ∧ (t.md md).stage = 0x50 ∧ (∀ a, t.byte a = s.byte a) ∧
      ∀ d, d / 8 = md → (t.die d).stage = 0x50 ∧ (t.core (d * 128 + 64)).c0.y.level = 1 ∧ (t.core (d * 128 + 64)).c0.r.pc = Config.monitorEntry d

/-- R378, R379, R400: a message before stage 0x80 is answered NotReady, later it waits in the buffer; a root request takes the system core of die 0 at a boundary and answers what waits; an activation stops
every system core, then lets each go on in the new monitor. The model's own choices in it: logs 42, 50. -/
def Obligations.RootAnswersAndActivates : Prop :=
  ∀ (s : State) (md : Nat),
    let m := s.md md
    let k := md * 8 * 128 + 64
    (∀ msg, ∃ t, exec (.spdmMessageArrive md msg) s = .next t ∧ OnlyMd md s t ∧
      (m.stage ≠ 0x80 → t.md md = { m with replies := m.replies ++ [.notReady] }) ∧
      (m.stage = 0x80 → m.spdm.foldl (fun n q => n + q.1.body.length) msg.body.length ≤ 65536 → t.md md = { m with spdm := m.spdm ++ [(msg, m.activating)] })) ∧
    (m.spdm ≠ [] → (s.core k).c0.run = .running → (s.core k).c0.y.level = 1 → (s.core k).c0.held = none →
      ∃ t, exec (.rootRequest md) s = .next t ∧ (t.core k).c0.y.level = 2 ∧ (t.core k).c0.y.mcause = 0x1301 ∧ (t.core k).c0.y.mepc = (s.core k).c0.r.pc ∧
        (t.core k).c0.r.pc = Config.rootVector (md * 8) ∧ (t.md md).spdm = [] ∧ (t.md md).replies.length = m.replies.length + m.spdm.length ∧ t.dies = s.dies ∧
        ∀ a, t.byte a = s.byte a) ∧
    (∀ img sig, m.activating = false → m.stage = 0x80 → m.spdm = [] → Config.slhVerify Config.strelevoKey img sig = true →
      (∀ d, d / 8 = md → (s.core (d * 128 + 64)).c0.run = .running ∧ (s.core (d * 128 + 64)).c0.y.level = 1 ∧ (s.core (d * 128 + 64)).c0.held = none) →
      ∃ t, exec (.monitorActivation md (some (img, sig))) s = .next t ∧ t.md md = { m with activating := true, next := img } ∧ t.dies = s.dies ∧
        (∀ d, d / 8 = md → (t.core (d * 128 + 64)).c0 = { (s.core (d * 128 + 64)).c0 with run := .held, held := none })) ∧
    (∀ img sig, Config.slhVerify Config.strelevoKey img sig = false → exec (.monitorActivation md (some (img, sig))) s = .next s) ∧
    (m.activating = true → ∃ t, exec (.monitorActivation md none) s = .next t ∧ t.md md = { m with activating := false, next := [] } ∧
      ∀ d, d / 8 = md → (t.core (d * 128 + 64)).c0.run = .running ∧ (t.core (d * 128 + 64)).c0.r.pc = Config.activationEntry d ∧
        (t.die d).meas.getD 1 0 = Config.sha256 m.next)

/-- R401 to R406: an idle cluster that nothing waits for enters P1, after 100 µs P2, where its data caches are written back and empty; a die whose clusters are all in P2 and
hold no task enters P3, each within the tolerance. A cluster that an event waits for, that has work, or whose bound exceeds the tolerance begins to wake: what was
re-encoded is re-encoded back, and it ends in P0, with empty data caches after P2. A patrol read counts a corrected word; an uncorrectable one is poisoned, with a
machine-check event; a line of a data cache that cannot be corrected is fetched again, or of a dirty one the word is lost and poisoned.
The model's own choices in it: logs 46, 47. -/
def Obligations.ClustersSleepAndWake : Prop :=
  (∀ (s : State) (die cl : Nat), cl < 8 →
    let c := s.cluster (die * 8 + cl)
    let tol := (s.md (die / 8)).lattol.toNat
    let mib := s.retained die cl
    let now (t : State) : Cluster := t.cluster (die * 8 + cl)
    let aligned := ∀ k, die * 128 + cl * 8 ≤ k → k < die * 128 + cl * 8 + 8 → ∀ l ∈ (s.core k).dcache, l.loc % 64 = 0
    let wanted := c.due = true ∨ s.idleCluster die cl = false ∨ tol < wakeBound c + (if c.power = .p2 ∧ (s.die die).p3 = true then 2000 else 0)
    (c.power = .p0 → c.waking = false → c.due = false → s.idleCluster die cl = true → 100 ≤ tol → ∃ t, exec (.powerP1Enter die cl) s = .next t ∧
      now t = { c with power := .p1, since := s.cycle } ∧ t.cores = s.cores ∧ t.dies = s.dies ∧ ∀ a, t.byte a = s.byte a) ∧
    (c.power = .p1 → c.waking = false → c.due = false → s.idleCluster die cl = true → 180000 ≤ (s.cycle - c.since).toNat → 1500 + 800 * mib ≤ tol → aligned →
      ∃ t, exec (.powerP2Enter die cl) s = .next t ∧ CachesEmptied s t die cl ∧
        now t = { c with power := .p2, since := s.cycle, size := mib, mib := 0, buffer := (now t).buffer }) ∧
    (wanted → c.waking = false → c.power = .p1 → ∃ t, exec (.clusterWake die cl) s = .next t ∧ now t = { c with waking := true, mib := 0, ready := s.cycle } ∧
      (t.die die).p3 = false ∧ t.cores = s.cores ∧ ∀ a, t.byte a = s.byte a) ∧
    (wanted → c.waking = false → c.power = .p2 →
      let gone := (s.cycle - c.since).toNat
      let back := Min.min c.size ((gone + 2699) / 2700)
      let extra := if (s.die die).p3 = true then 3600 else 0
      ∃ t, exec (.clusterWake die cl) s = .next t ∧ (t.die die).p3 = false ∧ t.cores = s.cores ∧ (∀ a, t.byte a = s.byte a) ∧
        now t = { c with waking := true, mib := back, ready := c.since + BitVec.ofNat 64 (Max.max gone (back * 2700) + back * 1440 + extra) }) ∧
    (¬ wanted ∨ c.waking = true ∨ c.power = .p0 → exec (.clusterWake die cl) s = .next s) ∧
    (c.waking = true → c.ready ≤ s.cycle → c.power ≠ .p2 → ∃ t, exec (.wakeComplete die cl) s = .next t ∧ t.cores = s.cores ∧ t.dies = s.dies ∧
      (∀ a, t.byte a = s.byte a) ∧ now t = { c with power := .p0, waking := false, due := false, mib := 0, since := s.cycle }) ∧
    (c.waking = true → c.ready ≤ s.cycle → c.power = .p2 → aligned → ∃ t, exec (.wakeComplete die cl) s = .next t ∧ CachesEmptied s t die cl ∧
      now t = { c with power := .p0, waking := false, due := false, mib := 0, since := s.cycle, buffer := (now t).buffer }) ∧
    (c.waking = false ∨ s.cycle < c.ready → exec (.wakeComplete die cl) s = .next s)) ∧
  (∀ (s : State) (die : Nat), (s.die die).p3 = false →
    (∀ cl, cl < 8 → let c := s.cluster (die * 8 + cl)
      c.power = .p2 ∧ c.waking = false ∧ c.due = false ∧ 1500 + 800 * c.size + 2000 ≤ (s.md (die / 8)).lattol.toNat) →
    (∀ i, i < 64 → (s.core (die * 128 + i)).c0.run = .free ∧ (s.core (die * 128 + i)).c1.run = .free) →
    ∃ t, exec (.powerP3Enter die) s = .next t ∧ OnlyDie die s t ∧ t.die die = { s.die die with p3 := true }) ∧
  (∀ (s : State) (die addr : Nat), homeDie addr = die →
    let area := homePa (die / 8) (bits (s.core (die * 128 + 64)).evtarea 51 0)
    let apart (a : Nat) : Prop := ¬ (area ≤ a ∧ a < area + 65536)
    let word := addr / 8 * 8
    exec (.patrolRead die addr .clean) s = .next s ∧
    (∃ t, exec (.patrolRead die addr .corrected) s = .next t ∧ OnlyDie die s t ∧ SMap.get 0 (t.die die).cecnt (unitOf addr) = SMap.get 0 (s.die die).cecnt (unitOf addr) + 1) ∧
    ∃ t, exec (.patrolRead die addr .uncorrectable) s = .next t ∧ (t.core (die * 128 + 64)).evt = (s.core (die * 128 + 64)).evt ||| 32 ∧
      (apart word → word ∈ t.poison) ∧ (∀ w, w ≠ word → apart w → (w ∈ t.poison ↔ w ∈ s.poison)) ∧ ∀ a, apart a → t.byte a = s.byte a) ∧
  ∀ (s : State) (die core addr : Nat) (pre post : List Line) (l : Line), coreDie core = die →
    FirstOf (fun m => m.loc / 64 == addr / 64) (s.core core).dcache pre l post → (∀ m ∈ post, m.loc / 64 ≠ addr / 64) →
    let word := addr / 8 * 8
    let area := homePa (die / 8) (bits (s.core (die * 128 + 64)).evtarea 51 0)
    (l.dirty = 0 → ∃ t, exec (.patrolRead die addr (.line core)) s = .next t ∧ (t.core core).dcache = pre ++ post ∧ t.dies = s.dies ∧ t.poison = s.poison ∧
      ∀ a, t.byte a = s.byte a) ∧
    (l.dirty ≠ 0 → ∃ t m, exec (.patrolRead die addr (.line core)) s = .next t ∧ (t.core core).dcache = pre ++ m :: post ∧ m = { l with dirty := m.dirty } ∧
      (∀ i, i < 64 → m.dirty.getLsbD i = (l.dirty.getLsbD i && i / 8 != word % 64 / 8)) ∧
      (¬ (area ≤ word ∧ word < area + 65536) → word ∈ t.poison) ∧ (t.core (die * 128 + 64)).evt = (s.core (die * 128 + 64)).evt ||| 32)

/-- R3, R11, R29, R255, R256, R278, R289, R334, R342, R344, R347 to R349, R369, R392, R407: a write of a register or descriptor of a die sets that one to the fields of the word that it has; of the
seal map and of the windows within the 24 MiB of a cluster it changes the key of memory too (log 7). A write index beyond the ring halts its queue, a new job starts
with POOL chunks, a job that is created finds its memory zero, and reserve chunks go to the pool by sixteens. The model's choice, not the spec's, is that a partition's
pool changes only while its descriptor is invalid and that a new job starts with POOL chunks (log 50, unsafe), the value of a route entry (log 22), the UQ ASID and
PTROOT registers (log 61), and what a key change makes of memory (log 7). The model's own choices in it: log 16. -/
def Obligations.RegisterWritesSetTheirRegister : Prop :=
  ∀ (s : State) (die : Nat) (v : Word),
    let d := s.die die
    let sets (g : RegTarget) (d' : Die) : Prop := ∃ t, exec (.registerWrite die g v) s = .next t ∧ OnlyDie die s t ∧ t.die die = d'
    (∀ i, i < 4096 → ∃ t ws, exec (.registerWrite die (.window i 0) v) s = .next t ∧ OnlyDie die s t ∧ t.die die = { d with windows := SMap.put d.windows i ws } ∧
      wd ws 0 = v &&& 0x83FFFF00FFFFFFFF ∧ wd ws 1 = wd (SMap.get [] d.windows i) 1) ∧
    (∀ i, 2 ^ 40 < bits v 40 0 → exec (.registerWrite die (.region i 2) v) s = .next s) ∧
    (∀ i w, i < 4096 → w < 3 → (w = 2 → bits v 40 0 ≤ 2 ^ 40) → ∃ t ws, exec (.registerWrite die (.region i w) v) s = .next t ∧ OnlyDie die s t ∧ t.die die = { d with regions := SMap.put d.regions i ws } ∧
      wd ws w = v &&& (if w = 0 then 0xFFFC0000FFFFF000 else if w = 1 then 0xFFFFFFFFFFFFF else 0x1FFFFFFFFFF) ∧ ∀ n, n ≠ w → wd ws n = wd (SMap.get [] d.regions i) n) ∧
    (∀ i, i < 4096 → ∃ t ws, exec (.registerWrite die (.driftRegion i 0) v) s = .next t ∧ OnlyDie die s t ∧ t.die die = { d with driftR := SMap.put d.driftR i ws } ∧
      wd ws 0 = v &&& 0x83FFF000000FFFFF) ∧
    (∀ key w, w = 4 ∨ (8 ≤ w ∧ w < 40) → ∃ t, exec (.registerWrite die (.commWord key w) v) s = .next t ∧ OnlyDie die s t ∧
      wd (t.comm die key).words w = (if w = 4 then v &&& 0xFFFFFFFFFF else v) ∧ (∀ n, n ≠ w → n < 40 → wd (t.comm die key).words n = wd (s.comm die key).words n) ∧
      (t.comm die key).qps = (s.comm die key).qps) ∧
    (∀ q, let u := queueOf s die q
      sets (.uqBase q) { d with users := SMap.put d.users q { u with base := v } } ∧ sets (.uqSize q) { d with users := SMap.put d.users q { u with size := v } } ∧
      sets (.uqJob q) { d with users := SMap.put d.users q { u with job := v.toNat % 1024 } } ∧ sets (.uqAsid q) { d with users := SMap.put d.users q { u with asid := v.toNat % 512 } } ∧
      sets (.uqOwner q) { d with users := SMap.put d.users q { u with owner := v.toNat % 64 } } ∧
      (v.toNat ≤ u.ridx.toNat + u.size.toNat →
        sets (.uqWidx q) { d with users := SMap.put d.users q { u with widx := v, status := statusWith (u.status &&& 0xE) u.ridx v } }) ∧
      (u.ridx.toNat + u.size.toNat < v.toNat → ∃ t, exec (.registerWrite die (.uqWidx q) v) s = .next t ∧
        queueOf t die q = { u with widx := v, status := (u.status ||| 4) &&& 0xE } ∧
        (u.status &&& 0xE = 0 → (t.core (die * 128 + 64)).evt = (s.core (die * 128 + 64)).evt ||| 8)) ∧
      sets (.uqRidx q) { d with users := SMap.put d.users q { u with ridx := v, got := none, req := none, refused := false, live := (u.live.filter (fun l => l.consumed || decide (l.done < l.tasks))).map (fun l => if l.consumed then l else { l with gone := true }), status := statusWith (u.status &&& 0xE) v u.widx } } ∧
      sets (.uqPtroot q) { d with users := SMap.put d.users q { u with ptroot := v } }) ∧
    (∀ n, n < 256 → sets (.route n) { d with routes := SMap.put d.routes n (v.toNat % 8) }) ∧
    (∀ bulk g, g < 2 ^ 22 → ∃ t, exec (.registerWrite die (.sealMap bulk g) v) s = .next t ∧ Resealed s t ∧ t.cores = s.cores ∧ (∀ n, n ≠ die → t.die n = s.die n) ∧
      let at_ := if bulk then 2 ^ 22 + g else g
      t.die die = { d with sealm := if v.toNat % 4096 = 0xFFE then SMap.del d.sealm at_ else SMap.put d.sealm at_ (v.toNat % 4096) }) ∧
    (∀ job, sets (.supervisor job) { d with supers := SMap.put d.supers job (bits v 7 0, bits v 10 8, bits v 18 16) }) ∧
    (∀ sub, sub < 4 → sets (.pfc sub) { d with pfc := d.pfc.filter (fun n => n != sub) ++ if v.getLsbD 0 then [sub] else [] }) ∧
    sets .backoff { d with backoff := v.toNat } ∧ sets .etherType { d with etherType := v.toNat % 65536 } ∧
    (∀ job key, sets (.pinnedKey job key) { d with pinned := SMap.put d.pinned job key }) ∧
    (∀ job cl base, cl < 8 → job < 1024 →
      let held (e : Nat × Nat) : Nat := if e.1 % 8 = cl then e.2 else 0
      let areas := (d.areas.map held).sum
      let others := ((d.areas.filter (fun e => e.1 != job * 8 + cl)).map held).sum
      let top := (d.cwins.map (fun e => if e.1 % 8 = cl then e.2.1 + e.2.2 else 0)).foldl Max.max 0
      let size := v.toNat / 4096 * 4096
      (∀ e ∈ d.areas, e.1 ≠ 2 ^ 20) →
      (areas + base + v.toNat ≤ 24 * 2 ^ 20 → ∃ t, exec (.registerWrite die (.clusterWindow job cl base) v) s = .next t ∧ Resealed s t ∧ t.cores = s.cores ∧
        (∀ n, n ≠ die → t.die n = s.die n) ∧ t.die die = { d with cwins := SMap.put d.cwins (job * 8 + cl) (base, v.toNat) }) ∧
      (24 * 2 ^ 20 < areas + base + v.toNat → exec (.registerWrite die (.clusterWindow job cl base) v) s = .next s) ∧
      (others + top + size ≤ 24 * 2 ^ 20 → sets (.area job cl) { d with areas := SMap.put d.areas (job * 8 + cl) size }) ∧
      (24 * 2 ^ 20 < others + top + size → exec (.registerWrite die (.area job cl) v) s = .next s)) ∧
    (∀ part, sets (.saveArea part) { d with parts := SMap.put d.parts part { SMap.get {} d.parts part with save := v &&& 0x800FFFFFFFF00000 } }) ∧
    (∀ part, part < 64 →
      let p := SMap.get {} d.parts part
      let w0 := v &&& 0x83FF00000000003F
      let starts := p.w0.getLsbD 63 = false ∨ bits w0 57 48 ≠ bits p.w0 57 48
      (starts → sets (.partition part 0) { d with parts := SMap.put d.parts part { p with w0 := w0, pool := bits p.w3 47 32, used := [] } }) ∧
      (¬ starts → sets (.partition part 0) { d with parts := SMap.put d.parts part { p with w0 := w0 } }) ∧
      sets (.partition part 2) { d with parts := SMap.put d.parts part { p with w2 := v &&& 0xFFFFFFFFFF000 } } ∧
      sets (.partition part 3) { d with parts := SMap.put d.parts part { p with w3 := v &&& 0xFFFFFFFF0000FFFF, pool := if p.w0.getLsbD 63 then p.pool else bits v 47 32 } } ∧
      ((∀ c, c < 64 → v.getLsbD c = true → p.w1.getLsbD c = true) →
        sets (.partition part 1) { d with parts := SMap.put d.parts part { p with w1 := v } })) ∧
    (∀ job i p, d.partOf job = some (i, p) →
      (∀ pre f post, d.failed = pre ++ f :: post → f.1 = job → (∀ g ∈ pre ++ post, g.1 ≠ job ∧ g ≠ f) → 16 ≤ bits p.w3 63 48 →
        ∃ t, exec (.registerWrite die (.reserveToPool job) v) s = .next t ∧ OnlyDie die s t ∧ (t.die die).failed = pre ++ post ∧
          bits (SMap.get {} (t.die die).parts i).w3 63 48 = bits p.w3 63 48 - 16) ∧
      (bits p.w3 63 48 < 16 ∨ (∀ f ∈ d.failed, f.1 ≠ job) → exec (.registerWrite die (.reserveToPool job) v) s = .next s)) ∧
    (∀ job, ∃ t, exec (.registerWrite die (.jobCreate job) v) s = .next t ∧ t.cores = s.cores ∧ SMap.get (1, 1) (t.die die).jobs job = (0, 0) ∧
      (∀ e ∈ d.cwins, e.1 / 8 = job → ∀ a, homeCluster (die * 8 + e.1 % 8) e.2.1 ≤ a → a < homeCluster (die * 8 + e.1 % 8) e.2.1 + e.2.2 → t.byte a = 0) ∧
      ∀ i p, d.partOf job = some (i, p) → (∀ a, homePa (die / 8) (bits p.w2 51 12 * 4096) ≤ a →
        a < homePa (die / 8) (bits p.w2 51 12 * 4096) + bits p.w3 15 0 * 4096 → t.byte a = 0)) ∧
    (∀ part page kind, part < 2 → (∃ t, exec (.registerWrite die (.barPage page kind) v) s = .next t ∧ OnlyMd (die / 8) s t ∧
        t.md (die / 8) = { s.md (die / 8) with pages := SMap.put (s.md (die / 8)).pages page (kind, v.getLsbD 0, bits v 13 8) }) ∧
      ((s.md (die / 8)).owner = part + 1 → ∃ t, exec (.registerWrite die (.lattol part) v) s = .next t ∧ Tolerates s t (die / 8) v) ∧
      ((s.md (die / 8)).owner ≠ part + 1 → exec (.registerWrite die (.lattol part) v) s = .next s)) ∧
    (∀ base, ∃ t, exec (.registerWrite die (.clearPage base) v) s = .next t ∧ t.cores = s.cores ∧ t.dies = s.dies ∧
      ∀ a, t.byte a = if homePa (die / 8) base ≤ a ∧ a < homePa (die / 8) base + v.toNat then 0 else s.byte a) ∧
    ∀ core, core < 64 →
      let k := die * 128 + core
      let c := s.core k
      (∀ i part, d.partOfCore k = some (i, part) → c.c0.run = .free → c.c1.run = .free → c.tenant = none → c.keyed = none →
        let job := bits part.w0 57 48
        let key := job * 8 + core / 8
        let drawn (n : Nat) : BitVec 32 := Config.bankKeys die (BitVec.ofNat 32 n)
        let half : BitVec 32 := if SMap.has d.ckeys key then SMap.get 0 d.ckeys key else drawn d.drawn
        let own : BitVec 32 := drawn (if SMap.has d.ckeys key then d.drawn else d.drawn + 1)
        ∃ t, exec (.registerWrite die (.bankKey core) v) s = .next t ∧ (t.core k).c0.r.bankKey = half ++ own ∧ (t.core k).c1.r.bankKey = half ++ own ∧
          (t.core k).keyed = some job ∧ SMap.get 0 (t.die die).ckeys key = half ∧ (∀ c, c ≠ k → t.core c = s.core c) ∧ ∀ a, t.byte a = s.byte a) ∧
      (d.partOfCore k = none ∨ c.c0.run ≠ .free ∨ c.c1.run ≠ .free ∨ c.tenant ≠ none ∨ c.keyed ≠ none → exec (.registerWrite die (.bankKey core) v) s = .next s)

/-! ## Squall -/

/-- The switch of a context of a coordinator stands at a die as `f` says. -/
def Sys2Proof.Claims.SwitchNow (t : State) (die : Nat) (w : Switch) (f : Switch → Prop) : Prop := ∃ v, (t.die die).sw.find? (·.isOf w.coord w.ctx) = some v ∧ f v

/-- A token of a switch goes on from a die to the next die of the order where the replay window has room; at the coordinator it is back (R352; log 19). -/
def Sys2Proof.Claims.GoesOn (t : State) (die kind status : Nat) (w : Switch) : Prop :=
  ∀ d, w.next die = some d → (t.die die).window.length < 256 → ∃ p ∈ t.net, TokenOf die d kind w status p

/-- A die has no other switch of a context of a coordinator. -/
def Sys2Proof.Claims.Sole (s : State) (die : Nat) (w : Switch) : Prop := ∀ v ∈ (s.die die).sw, v.isOf w.coord w.ctx = true → v = w

/-- A packet of a job in a buffer of a die that is no lane and no egress queue. -/
def Sys2Proof.Claims.StandsFor (die job : Nat) (p : Packet) : Prop := p.at_ = die ∧ p.job = job

/-- The late log of a die has room for all that a sweep can find. -/
def Sys2Proof.Claims.RoomForLate (s : State) (die : Nat) : Prop :=
  (s.die die).late.length + (s.die die).lane0.length + (s.die die).lane1.length + (s.die die).egress.length + s.net.length ≤ 4096

/-- R315, R324, R352 to R360: a die at which the quiesce token stands stops every context of the job and sends the token on; the sweep takes its packets from the
die's buffers, class by class and by age, and leaves those of other jobs; the save keeps the job's cores, queues and windows, writes its images, header and records
at the area, frees what the job held and counts its key; each die reports, and with every report the coordinator sends the close token; a die at which that
stands is closed to the job and sends it on; a late packet is logged there, or counted as lost, of which its system core learns.
The model's own choices in it: logs 19, 77, 89, 90. -/
def Obligations.SwitchesOutStopSweepAndSave : Prop :=
  (∀ (s : State) (die : Nat) (w : Switch),
    let ps := s.jobPlaces die w.job
    (s.die die).sw.find? (fun w => w.out && w.tok == .quiesce) = some w → w.phase = .idle → s.asleep (range (die * 8) 8) = false →
    (∀ p ∈ ps, ((s.ctxAt p).run = .running ∨ (s.ctxAt p).run = .stopped → (s.ctxAt p).y.level = 0) ∧ (s.driftAt p).2 = false) →
    (∀ c ∈ (s.die die).comms, c.1 / 256 = w.job → c.2.draining = none) → (∀ e ∈ (s.die die).slices, e.2.works w.job = false) →
    ((∀ p ∈ ps, (s.ctxAt p).loads = false) → ∃ t, exec (.quiescePass die) s = .next t ∧ (∀ p ∈ ps, (t.ctxAt p).run ≠ .running) ∧
      ((t.die die).swOf w.job true).map (·.phase) = some .quiesced ∧ (t.core (die * 128 + 64)).evt = (s.core (die * 128 + 64)).evt ||| 16 ∧ GoesOn t die 2 0 w) ∧
    ((∃ p ∈ ps, (s.ctxAt p).loads = true) → ∃ t, exec (.quiescePass die) s = .next t ∧ t.dies = s.dies ∧ (∀ a, t.byte a = s.byte a) ∧
      ∀ p ∈ ps, ∀ i, (s.ctxAt p).loads = true → (s.ctxAt p).held = some i → i.resp = none → (t.ctxAt p).held = some { i with resp := some .defer })) ∧
  (∀ (s : State) (die : Nat) (w : Switch), (s.die die).sw.find? (fun w => w.out && (w.phase == .quiesced || w.phase == .swept || w.phase == .saved)) = some w →
    w.phase = .quiesced → RoomForLate s die →
    ∃ t l, exec (.sweep die) s = .next t ∧ KeepsStore s t ∧ ((t.die die).swOf w.job true).map (fun v => (v.phase, v.recs)) = some (.swept, w.recs ++ l) ∧
      l.Pairwise (fun a b => a.cls < b.cls ∨ (a.cls = b.cls ∧ a.aseq ≤ b.aseq)) ∧
      t.net = s.net.filter (fun p => !(p.at_ == die && p.job == w.job)) ∧
      (t.die die).lane0 = (s.die die).lane0.filter (fun p => p.pkt.job != w.job) ∧ (t.die die).lane1 = (s.die die).lane1.filter (fun p => p.pkt.job != w.job) ∧
      (t.die die).egress = (s.die die).egress.filter (fun e => e.1.job != w.job) ∧
      ∀ p pre post, s.net = pre ++ p :: post → (∀ q ∈ pre ++ post, ¬ StandsFor die w.job q) → StandsFor die w.job p → p.payload.length ≤ 4096 →
        (∀ q ∈ (s.die die).lane0 ++ (s.die die).lane1, q.pkt.job ≠ w.job) → (∀ e ∈ (s.die die).egress, e.1.job ≠ w.job) → w.recs = [] →
        ∃ r, l = [r] ∧ r.item.pkt = p ∧ r.aseq = p.aseq ∧ r.cls = if p.ing = 8 ∧ Config.stationed s.fresh = 0 then 1 else stationClass p.ing p.out) ∧
  (∀ (s : State) (die : Nat) (w : Switch) (i : Nat) (k : KeySlot),
    let cores := s.jobCores die w.job
    let ps := s.jobPlaces die w.job
    let d := s.die die
    die < 256 → d.sw.find? (fun w => w.out && w.phase == .swept) = some w → (∀ c ∈ cores, ∀ l ∈ (s.core c).dcache, l.dirty = 0) → d.defaultKey w.job = some (i, k) →
    Rising d.keys → (∀ p ∈ ps, bits (s.ctxAt p).r.jobId 9 0 = w.job) → (∀ v ∈ d.savedJobs, v.job ≠ w.job) → d.comms.length ≤ 2 ^ 18 → cores.length ≤ 256 → w.dies.length ≤ 256 →
    (w.recs.flatMap (·.bytes)).length ≤ 2 ^ 24 →
    (∀ c ∈ cores, ∀ o ∈ (s.cluster (coreCluster c)).buffer, o.core ∉ cores) → (∀ o ∈ d.station, o.core ∉ cores) →
    ∃ t v, exec (.gangSave die) s = .next t ∧ ((t.die die).swOf w.job true).map (·.phase) = some .saved ∧ (t.die die).savedJobs = d.savedJobs ++ [v] ∧
      v.job = w.job ∧ v.part = w.part ∧ v.area = w.area ∧ v.cores = cores.map (fun c => (c, s.core c)) ∧ v.flows = d.flows.filter (fun f => f.job == w.job) ∧
      v.subqs = d.subqs.filter (fun q => q.job == w.job) ∧ v.window = d.window.filter (fun r => r.pkt.job == w.job) ∧
      v.station = d.station.filter (fun o => o.job == w.job && isRemote o.loc) ∧ v.sweep = w.recs ∧
      v.images.map (fun e => (e.2.1, e.2.2.1)) = ps.map (fun p =>
        (coreId p.core p.ctx, areaHome die (w.area + (1 + 64 * cores.findIdx (· == p.core)) * 2 ^ 16 + p.ctx * 2 ^ 20))) ∧
      (∃ k', (t.die die).defaultKey w.job = some (i, k') ∧ v.ctr = k'.ctr ∧ k'.ctr = k.ctr + BitVec.ofNat 64 (1 + (v.images.filter (fun e => e.1 == i)).length)) ∧
      v.rest.length = 2 ∧ (∀ e ∈ v.rest, t.bytesAt e.1 e.2.length = e.2) ∧
      (∀ c ∈ cores, (t.core c).c0.run = .free ∧ (t.core c).c1.run = .free ∧ (t.core c).vfile = [] ∧ (t.core c).acc = [] ∧
        ∀ o, o < 2 ^ 21 → t.byte (homeScratch c o) = 0) ∧
      (∀ f ∈ (t.die die).flows, f.job ≠ w.job) ∧ (∀ q ∈ (t.die die).subqs, q.job ≠ w.job) ∧ ∀ c, c ∉ cores → t.core c = s.core c) ∧
  (∀ (s : State) (die : Nat),
    let heard (w : Switch) : Prop := ∀ d ∈ w.dies, d = die ∨ d ∈ w.reports
    let ready (w : Switch) : Bool := !w.sent && (w.phase == .saved || w.phase == .loaded) &&
      (w.coord != die || (w.back && w.dies.all (fun d => d == die || w.reports.contains d)))
    ((∀ w ∈ (s.die die).sw, w.sent = true ∨ (w.phase ≠ .saved ∧ w.phase ≠ .loaded) ∨ (w.coord = die ∧ (w.back = false ∨ ¬ heard w))) →
      exec (.savedReport die) s = .next s) ∧
    ∀ w, (s.die die).sw.find? ready = some w → (s.die die).window.length < 256 →
      (w.coord ≠ die → ∃ t, exec (.savedReport die) s = .next t ∧ KeepsStore s t ∧ SwitchNow t die w (fun v => v.sent = true) ∧
        ∃ p ∈ t.net, TokenOf die w.coord 4 w 0 p) ∧
      ∀ d rest, w.coord = die → w.dies = d :: rest → ∃ t, exec (.savedReport die) s = .next t ∧ KeepsStore s t ∧ SwitchNow t die w (fun v => v.sent = true ∧
        (d = die → v.tok = .close)) ∧ (d ≠ die → ∃ p ∈ t.net, TokenOf die d 3 w w.status p)) ∧
  (∀ (s : State) (die : Nat) (w : Switch), (s.die die).sw.find? (fun w => w.out && w.tok == .close && (w.phase == .saved || w.phase == .closed)) = some w →
    w.phase = .saved → w.job ≠ 0 → Sole s die w → RoomForLate s die →
    ∃ t, exec (.closePass die) s = .next t ∧ w.job ∈ (t.die die).closed ∧ (∀ p ∈ t.net, ¬ StandsFor die w.job p) ∧
      (∀ p ∈ (t.die die).lane0 ++ (t.die die).lane1, p.pkt.job ≠ w.job) ∧ (t.core (die * 128 + 64)).evt = (s.core (die * 128 + 64)).evt ||| 16 ∧
      GoesOn t die 3 w.status w ∧ (die = w.coord → SwitchNow t die w (fun v => v.phase = .closed)) ∧
      (die ≠ w.coord → (t.die die).window.length < 256 →
        if swIn w.desc = true then SwitchNow t die w (fun v => v.out = false ∧ v.job = swJin w.desc ∧ v.phase = .gather)
        else ∀ v ∈ (t.die die).sw, v.isOf w.coord w.ctx = false)) ∧
  ∀ (s : State) (die : Nat) (p : Packet),
    let d := s.die die
    (p.job ∈ d.closed → d.late.length < 4096 → ∃ t x, exec (.latePacket die p) s = .next t ∧ KeepsStore s t ∧ t.net = s.net ∧
      (t.die die).late = d.late ++ [(p.job, x)] ∧ x.item.pkt = p ∧ x.cls = 8 ∧ x.aseq = d.aseq ∧ (t.die die).aseq = d.aseq + 1) ∧
    (p.job ∈ d.closed → 4096 ≤ d.late.length → ∃ t, exec (.latePacket die p) s = .next t ∧ (t.die die).late = d.late ∧
      (t.core (die * 128 + 64)).evt = (s.core (die * 128 + 64)).evt ||| 64 ∧
      SMap.get 0 (t.die die).lateLost p.job = SMap.get 0 d.lateLost p.job + 1) ∧
    (p.job ∉ d.closed → exec (.latePacket die p) s = .next s)

/-- R359, R361 to R363: a die at which the token of a switch in stands checks its area, opens to the job and sends the token on with the first status that is
not 0; with the token back at the coordinator every die loads, or each hears that none does; a die that loads gives the job its cores, scratchpads, flows and
queues as they were saved, its contexts held; at the close token the contexts go on, and after a loss each register still pending is a fabric fault.
The model's own choices in it: log 19. -/
def Obligations.SwitchesInRestoreAndResume : Prop :=
  let due (die : Nat) (w : Switch) : Bool := !w.out && (w.tok == .quiesce || w.phase == .opened && (w.tok == .load || (w.coord == die && w.back)))
  (∀ (s : State) (die : Nat) (w : Switch), (s.die die).sw.find? (due die) = some w → w.tok = .quiesce → w.phase ≠ .opened → s.asleep (range (die * 8) 8) = false →
    let n := if w.status = 0 then s.areaStatus die w else w.status
    ∃ t, exec (.restoreOpen die) s = .next t ∧ w.job ∉ (t.die die).closed ∧ (∀ j, j ≠ w.job → (j ∈ (t.die die).closed ↔ j ∈ (s.die die).closed)) ∧
      SwitchNow t die w (fun v => v.phase = .opened ∧ ((t.die die).window.length < 256 → v.tok = .none ∧ v.status = n ∧ (die = w.coord → v.back = true))) ∧
      GoesOn t die 2 n w ∧ (t.core (die * 128 + 64)).evt = (s.core (die * 128 + 64)).evt ||| 16 ∧ (t.die die).flows = (s.die die).flows) ∧
  (∀ (s : State) (die : Nat) (w : Switch), (s.die die).sw.find? (due die) = some w → w.tok = .none → (s.die die).window.length + w.dies.length ≤ 256 →
    (w.status = 0 → ∃ t, exec (.restoreOpen die) s = .next t ∧ KeepsStore s t ∧ SwitchNow t die w (fun v => v.tok = .load) ∧
      ∀ d ∈ w.dies, d ≠ die → ∃ p ∈ t.net, TokenOf die d 5 w 0 p) ∧
    (w.status ≠ 0 → w.job ≠ 0 → Sole s die w → (∀ p ∈ s.net, ¬ StandsFor die w.job p) → ∃ t, exec (.restoreOpen die) s = .next t ∧ KeepsStore s t ∧ w.job ∈ (t.die die).closed ∧
      SwitchNow t die w (fun v => v.phase = .closed ∧ v.status = w.status) ∧ (t.die die).flows = (s.die die).flows ∧
      (t.die die).savedJobs = (s.die die).savedJobs ∧ ∀ d ∈ w.dies, d ≠ die → ∃ p ∈ t.net, TokenOf die d 6 w 0 p)) ∧
  (∀ (s : State) (die : Nat) (w : Switch) (v : Saved) m, (s.die die).sw.find? (due die) = some w → w.tok = .load →
    (s.die die).savedJobs.find? (fun v => v.job == w.job && v.area == w.area) = some v → s.placeSets die v = some m →
    (∀ e ∈ v.cores, (s.core e.1).c0.run = .free ∧ (s.core e.1).c1.run = .free) → (v.cores.map (·.1)).Nodup → (v.scratch.map (·.1)).Nodup →
    (∀ c ∈ v.scratch, 2 ^ 62 ≤ c.1) → (∀ e ∈ (s.die die).late, e.1 ≠ w.job) →
    ∃ t, exec (.restoreOpen die) s = .next t ∧ w.job ∉ (t.die die).closed ∧ ((t.die die).swOf w.job false).map (·.phase) = some .loaded ∧
      (∀ e ∈ v.cores, (t.core e.1).c0 = e.2.c0 ∧ (t.core e.1).c1 = e.2.c1 ∧ (t.core e.1).vfile = e.2.vfile ∧ (t.core e.1).acc = e.2.acc ∧
        (t.core e.1).handles = e.2.handles) ∧
      (∀ k, k ∉ v.cores.map (·.1) → t.core k = s.core k) ∧
      (∀ c ∈ v.scratch, t.byte c.1 = c.2) ∧ (t.die die).flows = (s.die die).flows ++ v.flows ∧ (t.die die).subqs = (s.die die).subqs ++ v.subqs ∧
      (t.die die).station = (s.die die).station ++ v.station ∧ (t.die die).window = (s.die die).window ++ v.window) ∧
  ∀ (s : State) (die : Nat) (w : Switch), (s.die die).sw.find? (fun w => !w.out && w.tok == .close && (w.phase == .loaded || w.phase == .closed)) = some w →
    w.phase = .loaded →
    let ps := s.jobPlaces die w.job
    let lost := SMap.get 0 (s.die die).lateLost w.job
    let goesOn (t : State) : Prop := ∀ p ∈ ps, (t.ctxAt p).run = if (s.ctxAt p).run = .held then .running else (s.ctxAt p).run
    ((∃ p ∈ s.net, Come die p ∧ p.job = w.job ∧ p.request = false) → exec (.restoreResume die) s = .next s) ∧
    ((∀ p ∈ s.net, Come die p → p.job = w.job → p.request = true) → lost = 0 → ∃ t, exec (.restoreResume die) s = .next t ∧ goesOn t ∧
      (∀ p ∈ ps, (t.ctxAt p).pend = (s.ctxAt p).pend ∧ (t.ctxAt p).bfaults = (s.ctxAt p).bfaults) ∧
      (t.core (die * 128 + 64)).evt = (s.core (die * 128 + 64)).evt ||| 16 ∧ GoesOn t die 3 w.status w ∧
      (die = w.coord → SwitchNow t die w (fun v => v.phase = .closed)) ∧
      (die ≠ w.coord → (t.die die).window.length < 256 → ∀ v ∈ (t.die die).sw, v.isOf w.coord w.ctx = false)) ∧
    ((∀ p ∈ s.net, Come die p → p.job = w.job → p.request = true) → lost ≠ 0 → (s.die die).supers.has w.job = false → ps.Nodup →
      ∃ t, exec (.restoreResume die) s = .next t ∧ goesOn t ∧ SMap.get 0 (t.die die).lateLost w.job = 0 ∧
      ∀ p ∈ ps, (t.ctxAt p).pend = [] ∧ (t.ctxAt p).bfaults = (s.ctxAt p).bfaults ++ (s.ctxAt p).pend.map (fun d => { cause := 0x0C01, addr := d.va, aux := 0 }))

/-! ## The machine as a whole -/

/-- A bundle that has just been latched: no slot completed, nothing pushed, no wait (R6, R316). -/
def Sys2Proof.Claims.Fresh (i : Iss) : Prop :=
  i.cmask = 0 ∧ i.push = [] ∧ i.trapped = false ∧ i.wait = false ∧ i.xfer = false ∧ i.ended = false ∧ i.sent = false ∧ i.resp = none ∧ i.req = none ∧
  i.target = none ∧ i.lmask = 0 ∧ i.att = false

/-- R97 to R106: every well-formed instruction is read back from its slot class and word, with every operand at every value that the encoding admits.
The model's own choices in it: log 3. -/
def Obligations.EncodingsDecodeToTheirInstruction : Prop :=
  ∀ (i : Instr) (c : Slot) (x : Lane), i.wf = true → encode i = some (c, x) → decodeSlot c x = .ok i

/-- R86 to R89, R107: a word is an instruction of its slot class only as that instruction's own encoding: no bit of an accepted word is ignored, and no two words of a class are one instruction. -/
def Obligations.AcceptedWordsAreEncodings : Prop :=
  ∀ (c : Slot) (x : Lane) (i : Instr), decodeSlot c x = .ok i → i.wf = true ∧ encode i = some (c, x)

/-- R97 to R106: words written out from the encodings, one or more of every slot class, and the instructions they stand for. -/
def Obligations.SpelledOutWordsDecode : Prop :=
  decodeSlot .A 0x00948301 = .ok (.add 3 4 5 0 true) ∧ decodeSlot .A 0x07312249 = .ok (.bext 2 9 0x0c 7) ∧ decodeSlot .A 0x440C04F0 = .ok (.csrrsS 4 0 0x103) ∧
  decodeSlot .A 0x001483F4 = .ok (.ctxsave 3 4 5) ∧ decodeSlot .V 0x07C30404 = .ok (.vaddF 0 4 0xc3 0x07) ∧ decodeSlot .V 0xC1420810 = .ok (.vfma 0 8 0x42 0xc1) ∧
  decodeSlot .M 0xFFC04712 = .ok (.mrunMax 7 8 0x3c0 0x3f) ∧ decodeSlot .L 0x0010C907 = .ok (.ldZ32 6 9 2) ∧ decodeSlot .C 0xFFFF8509 = .ok (.bnz 5 (-4)) ∧
  decodeSlot .X 0x04E35201 = .ok (.xcopy 2 5 3 7 true false false) ∧ decodeSlot .Y 0x0500A401 = .ok (.amoAdd 4 5 2 true false false) ∧
  decodeSlot .Y 0x00988828 = .ok (.tdep 8 4 6 1) ∧ decodeSlot .H 0x00000900 = .ok (.emptyBundle true false true)

/-- R24, R86, R114, R117, R174, R316: a turn of an event is exec of it. An issue cycle of a core runs the bundle at the pc of the context whose turn it is: for a bundle of one slot, exec of the instruction that its word
decodes to, after the pc has moved on for a C slot, and what follows it. Root code is fetched at its physical address.
The model's own choices in it: logs 5, 39. -/
def Obligations.StepRunsTheDecodedInstruction : Prop :=
  (∀ (s : State) (i : Instr) (rest : List Turn), s.turns = .event i :: rest → step s = exec i { s.tick with turns := rest }) ∧
  (∀ (s s' t : State) (k : Nat) (rest : List Turn),
    let at_ : State := { s.tick with turns := rest, cur := ⟨k, 0⟩ }
    s.turns = .core k :: rest → (isSystem k = true ∨ (s.md (coreDie k / 8)).activating = false) → (s.core k).last = 1 → (s.core k).c0.run = .running → (s.core k).c0.pend = [] → (s.core k).c0.held = none →
    (at_.modCx (fun c => { c with held := none })).fetchBundle = .ok s' → s'.iss.scanned = true → s'.cx.bfaults = [] → s'.arrayFull = false → s'.runBundle = .next t → t.iss.wait = false →
    step s = .next (t.modCore k (fun c => { c with last := 0 }))) ∧
  (∀ (s : State) (slot : Nat) (i : Instr), s.iss.pendingSlot slot = true → decodeSlot (slotClass slot) (s.iss.word slot) = .ok i → s.iss.acts slot i = true →
    s.actSlot slot = exec i { s with iss := { s.iss with slot := slot } }) ∧
  (∀ (s : State) (i : Instr), Fresh s.iss → s.iss.pres = 1 → decodeSlot .C (s.iss.word 0) = .ok i → s.iss.acts 0 i = true →
    let moved := s.modCx (fun c => { c with r := { c.r with pc := s.succ } })
    s.runBundle = andThen (exec i { moved with iss := { s.iss with slot := 0 } }) (fun t =>
      if t.iss.stopped then t.phaseEnd
      else ((t.mark 1).modIss (fun l => { l with sent := false, resp := none, req := none, target := none, lmask := 0, att := false })).phaseEnd)) ∧
  (∀ (s t : State) (slot : Nat) (i : Instr), Fresh s.iss → 1 ≤ slot → slot ≤ 5 → s.iss.pres = 2 ^ slot → decodeSlot (slotClass slot) (s.iss.word slot) = .ok i →
    s.iss.acts slot i = true → s.planBad slot = none → exec i { s with iss := { s.iss with slot := slot } } = .next t → t.iss.head = s.iss.head →
    s.phaseAM = .next (if t.iss.stopped then t else (t.mark 0x3E).modIss (fun l => { l with resp := none, req := none }))) ∧
  ∀ (s : State), s.cx.y.level = 2 → (∀ va, s.blockAt s.cur.core (s.xctxAt s.cur).asid va = none) →
    let pa := homePa (coreDie s.cur.core / 8) (vaOf s.cx.r.pc)
    ∃ s', s.fetchBundle = .ok s' ∧ s'.iss.baddr = s.cx.r.pc ∧ s'.iss.head = BitVec.ofNat 32 (ofBytes (s.bytesAt pa 4)) ∧ s'.iss.lat = s.cx.r ∧
      (∀ n, n < ones 8 s'.iss.pres → s'.iss.words[n]? = some (BitVec.ofNat 32 (ofBytes (s.bytesAt (pa + 4 + 4 * n) 4)))) ∧ ∀ a, s'.byte a = s.byte a

/-- The memory invariant: every step keeps the canonical form of memory, so that equal memories are equal lists.
The model's own choices in it: log 1. -/
def Obligations.StepsKeepTheMemoryForm : Prop := ∀ s t : State, s.memOk = true → step s = .next t → t.memOk = true

/-- R255, R311, R397, R399, R400: after reset every SRAM byte reads zero, no context runs, compute cores stand at task level and system cores at root level, every module is unowned at boot stage 0, links carry the
default EtherType; and the memory has its canonical form. The model's own choices in it: logs 1, 2, 44. -/
def Obligations.ResetLeavesTheStatedState : Prop :=
  let s := State.reset
  s.memOk = true ∧ (∀ a, 2 ^ 61 ≤ a → s.byte a = 0) ∧
  (∀ k x, (s.ctxAt ⟨k, x⟩).run = .free ∧ (s.ctxAt ⟨k, x⟩).y.level = if k % 128 = 64 then 2 else 0) ∧
  (∀ k, (s.core k).vfile = [] ∧ (s.core k).acc = [] ∧ (s.core k).dcache = [] ∧ (s.core k).tlb = []) ∧
  (∀ d, (s.die d).etherType = 0x88B5 ∧ (s.die d).stage = 0 ∧ (s.die d).parts = [] ∧ (s.die d).keys = []) ∧
  ∀ m, (s.md m).owner = 0 ∧ (s.md m).offer = false ∧ (s.md m).stage = 0

/-! ## Statements made of several -/

/-- R48, R61, R62, R126 to R129: the scalar forms of the A slot write their result and their flags and nothing else; one that would put a value below SLIM in g30 traps. -/
def Obligations.ScalarFormsWriteTheirResultOrTrap : Prop :=
  Claims.ScalarArithmeticWritesItsResult ∧ Claims.ImmediateAndFieldFormsWriteTheirResult ∧ Claims.StackPointerBelowItsLimitTraps

/-- R114, R117, R118: branches, calls, jumps and returns go to their target, link where they say so, and change nothing else. -/
def Obligations.TransfersOfControlGoToTheirTarget : Prop :=
  Claims.DirectBranchesGoWhereTheySay ∧ Claims.CallsLinkAndIndirectTransfersCheckTheirTarget

/-- R89, R119 to R121: loop forms set their counter and frame, `lbrk` ends frames, the end of a loop body counts down; an empty bundle does nothing.
The model's own choices in it: log 30. -/
def Obligations.HardwareLoopsCountAndEnd : Prop :=
  Claims.LoopFormsSetTheirFrame ∧ Claims.LoopBreakEndsItsFrames ∧ Claims.LoopEndCountsDown

/-- R49, R132, R143, R154 to R156: instructions that write predicates from lanes write their enabled bits; `pcount` counts.
The model's own choices in it: log 83. -/
def Obligations.PredicateInstructionsWriteTheirBits : Prop :=
  Claims.PredicateFormsWriteTheirEnabledBits ∧ Claims.UnpackAndCountPredicates

/-- R79, R146 to R148, R152: reductions, scans, exponents and the moves of one lane.
The model's own choices in it: log 83. -/
def Obligations.ReductionsAndLaneMovesWriteTheirElements : Prop :=
  Claims.ReductionsScansAndExponents ∧ Claims.SingleLaneMoves

/-- R21, R161 to R170: array words enter the queue of their core or take their fault; the array performs the head of the queue.
The model's own choices in it: logs 13, 78, 81. -/
def Obligations.ArrayInstructionsQueueAndRun : Prop :=
  Claims.ArrayInstructionsEnterTheQueue ∧ Claims.ArrayInstructionsWaitForAFullQueue ∧ Claims.ArrayInstructionsCheckWindowAndFormat ∧ Claims.ArrayDequeuePerformsTheHead

/-- R35, R36, R45, R123, R124, R161: the end of a task frees its context; a post appends one record (for a HOME on a remote,
multicast or Drift page the sub-queue is that of the cluster which homeClusterOf gives: the model's reading, log 52, unsafe).
The model's own choices in it: logs 13, 23, 52. -/
def Obligations.TasksEndAndPost : Prop :=
  Claims.EndingATaskFreesItsContext ∧ Claims.PostsWriteOneRecord

/-- R125, R316, R367: a software trap enters its handler; a root service answers in g1.
The model's own choices in it: logs 25, 39. -/
def Obligations.SoftwareTrapsEnterTheirHandlerOrAnswer : Prop :=
  Claims.SoftwareTrapsEnterTheirHandler ∧ Claims.RootServicesAnswerInG1

/-- R312, R321, R323: `tret` resumes from a record, `mret` enters the monitor.
The model's own choices in it: logs 25, 38, 42, 60. -/
def Obligations.ReturnsFromExceptionsRestore : Prop :=
  Claims.TrapReturnResumesFromTheRecord ∧ Claims.RootReturnEntersTheMonitor

/-- R60, R61, R130, R131, R313, R320: reads and writes of the control registers of a task and of the monitor (that a read by a `csrrs` form counts as a write is the
model's reading, log 34). The model's own choices in it: logs 34, 35, 74, 95. -/
def Obligations.ControlRegistersReadAndWrite : Prop :=
  Claims.TaskControlRegistersReadAndWrite ∧ Claims.SystemControlRegistersReadAndWrite ∧ Claims.MonitorWritesTaskRegisters

/-- R312, R313, R323, R339, R348: the instructions on the die trap on a compute core; on a system core invalidations and `scrub` act.
The model's own choices in it: logs 39, 56. -/
def Obligations.SystemInstructionsActOnTheDieOrTrap : Prop :=
  Claims.SystemInstructionsTrapOnComputeCores ∧ Claims.InvalidationsLeaveNoTranslation ∧ Claims.ScrubClearsACore

/-- R323: `keyld`, `wfe`, `gsw` and `segmap` give their status. The model's own choices in it: logs 7, 18, 19, 69, 91. -/
def Obligations.MonitorServicesReport : Prop :=
  Claims.KeyLoadFillsOrDestroysASlot ∧ Claims.WaitForEventEndsOnAnUnmaskedEvent ∧ Claims.SwitchAndSegmentInstructionsReport

/-- R54, R55, R61, R180 to R188: shape registers, addresses, rows of the accumulator and ports.
The model's own choices in it: logs 11, 13, 57, 97. -/
def Obligations.ShapesPortsAndAccumulatorRowsMove : Prop :=
  Claims.ShapeRegistersMoveAndTakeFields ∧ Claims.AddressFormsTouchNoMemory ∧ Claims.AccumulatorRowsMoveByTheirHalf ∧ Claims.PortInstructionsMoveTheirPort

/-- R201, R202, R204, R206: counter writes and the waits on counters and cards.
The model's own choices in it: logs 11, 13. -/
def Obligations.CountersChangeAndWaitsAcquire : Prop :=
  Claims.CounterInstructionsWriteTheirCounter ∧ Claims.CounterWaitsAcquire

/-- R34, R205, R206, R209, R210: triggers are armed, act once and are disarmed. The model's own choices in it: logs 5, 6. -/
def Obligations.TriggersArmFireAndDisarm : Prop :=
  Claims.TriggersArmAndDisarm ∧ Claims.FiredTriggersActOnce

/-- R211 to R213, R250, R262, R269, R270: the entries, registers and arrival counters of a program's tables.
The model's own choices in it: log 27. -/
def Obligations.TablesKeepTheirEntriesAndRegisters : Prop :=
  Claims.TableInstructionsKeepTheirEntries ∧ Claims.TableRegistersChangeByTheirOperation

/-- R62, R172, R173, R220 to R223, R248: atomics and vector atomics replace their words and give the old values.
The model's own choices in it: logs 11, 13, 17, 75. -/
def Obligations.AtomicsReplaceTheirWords : Prop :=
  Claims.AtomicsReplaceTheirWord ∧ Claims.AtomicsCheckTheirAddress ∧ Claims.VectorAtomicsApplyTheirLanes

/-- R224, R232, R243, R251: fences at their scope, and the wait on an address. The model's own choices in it: logs 13, 29. -/
def Obligations.FencesAndAddressWaitsComplete : Prop :=
  Claims.FencesOrderTheirScope ∧ Claims.WaitOnAddressEndsOnAChange

/-- R51, R227 to R230: members of a phaser, on the core of a handle and from afar (SYNC packets as log 26 lays them out).
The model's own choices in it: log 26. -/
def Obligations.PhaserMembersJoinLeaveSignalAndWait : Prop :=
  Claims.PhaserMembershipFollowsItsHandle ∧ Claims.PhaserSignalsAndWaits ∧ Claims.SyncEnginesServeAgents

/-- R255 to R260, R268, R274, R275, R360, R394, R395: frames enter the fabric or a lane; a lane runs the parser and the stages.
The model's own choices in it: logs 22, 45, 98. -/
def Obligations.EthernetFramesAndLanes : Prop :=
  Claims.EthernetFramesEnterTheFabric ∧ Claims.LanesRunTheStages

/-- R237 to R239, R319, R336 to R339, R372: buffered writes, page walks, shootdowns and blocks fetched ahead.
The model's own choices in it: logs 5, 11, 12, 17, 56, 84. -/
def Obligations.WritesDrainAndTranslationsFill : Prop :=
  Claims.WritesMoveTowardsTheirHome ∧ Claims.TranslationsAreFilledAndShotDown

/-- R83, R218, R220, R255, R257, R294, R381 to R383, R389, R391, R393: a die serves each request that reaches it once.
The model's own choices in it: logs 19, 21, 22, 26, 41, 89. -/
def Obligations.HomesServeRequests : Prop :=
  Claims.HomesServeRequestsOnce ∧ Claims.MulticastAndReductionsReachMembers

/-- R375, R397: a port takes and passes ownership, and its requests reach the page they name.
The model's own choices in it: logs 43, 49. -/
def Obligations.PortsOwnAModuleAndReachItsPages : Prop :=
  Claims.OwnershipPassesBetweenPorts ∧ Claims.HostRequestsReachTheirPage
end

