-- ==== Sys2Proof/Laws/Map.lean ====
section
/-! SUPPORT. Reads after writes of a sparse collection, and its canonical form. -/

namespace Sys2Proof.Machine

variable {α : Type}

/-- A key reads what was put at it. -/
@[simp] theorem SMap.get_put_self (d : α) (m : SMap α) (k : Nat) (v : α) : SMap.get d (SMap.put m k v) k = v := by
  induction m with
  | nil => simp [SMap.put, SMap.get]
  | cons c t ih =>
    obtain ⟨a, b⟩ := c
    simp only [SMap.put]
    split
    · simp [SMap.get]
    · split
      · simp [SMap.get]
      · rename_i h1 h2
        simp [SMap.get, Ne.symm h2, ih]

/-- Every other key reads what it read before. -/
theorem SMap.get_put_ne (d : α) (m : SMap α) (k n : Nat) (v : α) (h : n ≠ k) :
    SMap.get d (SMap.put m k v) n = SMap.get d m n := by
  induction m with
  | nil => simp [SMap.put, SMap.get, Ne.symm h]
  | cons c t ih =>
    obtain ⟨a, b⟩ := c
    simp only [SMap.put]
    split
    · simp [SMap.get, Ne.symm h]
    · split
      · rename_i h1 h2
        subst h2
        simp [SMap.get, Ne.symm h]
      · simp only [SMap.get]
        split
        · rfl
        · exact ih

/-- Reading after a put, both cases. -/
theorem SMap.get_put (d : α) (m : SMap α) (k n : Nat) (v : α) :
    SMap.get d (SMap.put m k v) n = if n = k then v else SMap.get d m n := by
  split
  · rename_i h; subst h; simp
  · rename_i h; exact SMap.get_put_ne d m k n v h

/-- A deleted key reads the unlisted value. -/
@[simp] theorem SMap.get_del_self (d : α) (m : SMap α) (k : Nat) : SMap.get d (SMap.del m k) k = d := by
  induction m with
  | nil => rfl
  | cons c t ih =>
    obtain ⟨a, b⟩ := c
    simp only [SMap.del]
    split
    · exact ih
    · rename_i h; simp [SMap.get, h, ih]

/-- Every other key reads what it read before. -/
theorem SMap.get_del_ne (d : α) (m : SMap α) (k n : Nat) (h : n ≠ k) : SMap.get d (SMap.del m k) n = SMap.get d m n := by
  induction m with
  | nil => rfl
  | cons c t ih =>
    obtain ⟨a, b⟩ := c
    simp only [SMap.del]
    split
    · rename_i hk; subst hk; simp [SMap.get, Ne.symm h, ih]
    · simp only [SMap.get]
      split
      · rfl
      · exact ih

/-- Reading after a set, both cases. -/
theorem SMap.get_set [DecidableEq α] (d : α) (m : SMap α) (k n : Nat) (v : α) :
    SMap.get d (SMap.set d m k v) n = if n = k then v else SMap.get d m n := by
  unfold SMap.set
  by_cases hv : v = d
  · by_cases hn : n = k
    · subst hn; simp [hv]
    · simp [hv, hn, SMap.get_del_ne]
  · simp [hv, SMap.get_put]

/-- The canonical form of a list with a first entry. -/
theorem SMap.okFrom_cons [DecidableEq α] (d : α) (o : Option Nat) (a : Nat) (b : α) (t : SMap α) :
    SMap.okFrom d o ((a, b) :: t) = true ↔ (∀ l, o = some l → l < a) ∧ b ≠ d ∧ SMap.okFrom d (some a) t = true := by
  cases o <;> simp [SMap.okFrom, and_assoc]

/-- A collection in canonical form from above `lo` is in canonical form from above any lower bound. -/
theorem SMap.okFrom_mono [DecidableEq α] (d : α) (lo : Nat) (o : Option Nat) (m : SMap α)
    (h : SMap.okFrom d (some lo) m = true) (ho : ∀ l, o = some l → l ≤ lo) : SMap.okFrom d o m = true := by
  cases m with
  | nil => rfl
  | cons c t =>
    obtain ⟨a, b⟩ := c
    rw [SMap.okFrom_cons] at h ⊢
    exact ⟨fun l hl => Nat.lt_of_le_of_lt (ho l hl) (h.1 lo rfl), h.2⟩

/-- A put of a value other than the unlisted one keeps the canonical form. -/
theorem SMap.okFrom_put [DecidableEq α] (d : α) (m : SMap α) (k : Nat) (v : α) (hv : v ≠ d) (o : Option Nat)
    (h : SMap.okFrom d o m = true) (ho : ∀ l, o = some l → l < k) : SMap.okFrom d o (SMap.put m k v) = true := by
  induction m generalizing o with
  | nil => exact (SMap.okFrom_cons d o k v []).2 ⟨ho, hv, rfl⟩
  | cons c t ih =>
    obtain ⟨a, b⟩ := c
    obtain ⟨h1, h2, h3⟩ := (SMap.okFrom_cons d o a b t).1 h
    simp only [SMap.put]
    split
    · rename_i hlt
      rw [SMap.okFrom_cons, SMap.okFrom_cons]
      exact ⟨ho, hv, fun l hl => by cases hl; exact hlt, h2, h3⟩
    · split
      · rename_i heq
        subst heq
        exact (SMap.okFrom_cons _ _ _ _ _).2 ⟨ho, hv, h3⟩
      · rename_i hge hne
        refine (SMap.okFrom_cons _ _ _ _ _).2 ⟨h1, h2, ih (some a) h3 fun l hl => ?_⟩
        cases hl
        omega

/-- A filter keeps the canonical form. -/
theorem SMap.okFrom_filter [DecidableEq α] (d : α) (m : SMap α) (p : Nat × α → Bool) (o : Option Nat)
    (h : SMap.okFrom d o m = true) : SMap.okFrom d o (m.filter p) = true := by
  induction m generalizing o with
  | nil => rfl
  | cons c t ih =>
    obtain ⟨a, b⟩ := c
    obtain ⟨h1, h2, h3⟩ := (SMap.okFrom_cons d o a b t).1 h
    by_cases hp : p (a, b) = true
    · rw [List.filter_cons_of_pos hp]
      exact (SMap.okFrom_cons _ _ _ _ _).2 ⟨h1, h2, ih (some a) h3⟩
    · rw [List.filter_cons_of_neg hp]
      exact ih o (SMap.okFrom_mono d a o t h3 fun l hl => Nat.le_of_lt (h1 l hl))

/-- A deletion keeps the canonical form. -/
theorem SMap.okFrom_del [DecidableEq α] (d : α) (m : SMap α) (k : Nat) (o : Option Nat)
    (h : SMap.okFrom d o m = true) : SMap.okFrom d o (SMap.del m k) = true := by
  have hd : SMap.del m k = m.filter (fun c => c.1 != k) := by
    clear h
    induction m with
    | nil => rfl
    | cons c t ih =>
      obtain ⟨a, b⟩ := c
      by_cases hk : a = k <;> simp [SMap.del, hk, ih]
  rw [hd]
  exact SMap.okFrom_filter d m _ o h

/-- The write of memory keeps the canonical form. -/
theorem SMap.ok_set [DecidableEq α] (d : α) (m : SMap α) (k : Nat) (v : α) (h : SMap.ok d m = true) :
    SMap.ok d (SMap.set d m k v) = true := by
  unfold SMap.set SMap.ok
  split
  · exact SMap.okFrom_del d m k none h
  · rename_i hv
    exact SMap.okFrom_put d m k v hv none h (by intro l hl; cases hl)

/-- A filter keeps the canonical form. -/
theorem SMap.ok_filter [DecidableEq α] (d : α) (m : SMap α) (p : Nat × α → Bool) (h : SMap.ok d m = true) :
    SMap.ok d (m.filter p) = true := SMap.okFrom_filter d m p none h

end Sys2Proof.Machine
end

