-- ==== Sys2Proof/Laws/State.lean ====
section
/-! SUPPORT. What each update of the state leaves, field by field, and what it reads where it wrote. -/

namespace Sys2Proof.Machine

/-! ## setCore -/

@[simp] theorem State.setCore_mem (s : State) (k : Nat) (c : Core) : (s.setCore k c).mem = s.mem := rfl
@[simp] theorem State.setCore_poison (s : State) (k : Nat) (c : Core) : (s.setCore k c).poison = s.poison := rfl
@[simp] theorem State.setCore_clusters (s : State) (k : Nat) (c : Core) : (s.setCore k c).clusters = s.clusters := rfl
@[simp] theorem State.setCore_dies (s : State) (k : Nat) (c : Core) : (s.setCore k c).dies = s.dies := rfl
@[simp] theorem State.setCore_mds (s : State) (k : Nat) (c : Core) : (s.setCore k c).mds = s.mds := rfl
@[simp] theorem State.setCore_watches (s : State) (k : Nat) (c : Core) : (s.setCore k c).watches = s.watches := rfl
@[simp] theorem State.setCore_net (s : State) (k : Nat) (c : Core) : (s.setCore k c).net = s.net := rfl
@[simp] theorem State.setCore_nmod (s : State) (k : Nat) (c : Core) : (s.setCore k c).nmod = s.nmod := rfl
@[simp] theorem State.setCore_cycle (s : State) (k : Nat) (c : Core) : (s.setCore k c).cycle = s.cycle := rfl
@[simp] theorem State.setCore_fresh (s : State) (k : Nat) (c : Core) : (s.setCore k c).fresh = s.fresh := rfl
@[simp] theorem State.setCore_turns (s : State) (k : Nat) (c : Core) : (s.setCore k c).turns = s.turns := rfl
@[simp] theorem State.setCore_cur (s : State) (k : Nat) (c : Core) : (s.setCore k c).cur = s.cur := rfl
@[simp] theorem State.setCore_iss (s : State) (k : Nat) (c : Core) : (s.setCore k c).iss = s.iss := rfl
@[simp] theorem State.setCore_mmio (s : State) (k : Nat) (c : Core) : (s.setCore k c).mmio = s.mmio := rfl

/-! ## modCore -/

@[simp] theorem State.modCore_mem (s : State) (k : Nat) (f : Core → Core) : (s.modCore k f).mem = s.mem := rfl
@[simp] theorem State.modCore_poison (s : State) (k : Nat) (f : Core → Core) : (s.modCore k f).poison = s.poison := rfl
@[simp] theorem State.modCore_clusters (s : State) (k : Nat) (f : Core → Core) : (s.modCore k f).clusters = s.clusters := rfl
@[simp] theorem State.modCore_dies (s : State) (k : Nat) (f : Core → Core) : (s.modCore k f).dies = s.dies := rfl
@[simp] theorem State.modCore_mds (s : State) (k : Nat) (f : Core → Core) : (s.modCore k f).mds = s.mds := rfl
@[simp] theorem State.modCore_watches (s : State) (k : Nat) (f : Core → Core) : (s.modCore k f).watches = s.watches := rfl
@[simp] theorem State.modCore_net (s : State) (k : Nat) (f : Core → Core) : (s.modCore k f).net = s.net := rfl
@[simp] theorem State.modCore_nmod (s : State) (k : Nat) (f : Core → Core) : (s.modCore k f).nmod = s.nmod := rfl
@[simp] theorem State.modCore_cycle (s : State) (k : Nat) (f : Core → Core) : (s.modCore k f).cycle = s.cycle := rfl
@[simp] theorem State.modCore_fresh (s : State) (k : Nat) (f : Core → Core) : (s.modCore k f).fresh = s.fresh := rfl
@[simp] theorem State.modCore_turns (s : State) (k : Nat) (f : Core → Core) : (s.modCore k f).turns = s.turns := rfl
@[simp] theorem State.modCore_cur (s : State) (k : Nat) (f : Core → Core) : (s.modCore k f).cur = s.cur := rfl
@[simp] theorem State.modCore_iss (s : State) (k : Nat) (f : Core → Core) : (s.modCore k f).iss = s.iss := rfl
@[simp] theorem State.modCore_mmio (s : State) (k : Nat) (f : Core → Core) : (s.modCore k f).mmio = s.mmio := rfl

/-! ## setCtxAt -/

@[simp] theorem State.setCtxAt_mem (s : State) (p : Place) (v : Ctx) : (s.setCtxAt p v).mem = s.mem := rfl
@[simp] theorem State.setCtxAt_poison (s : State) (p : Place) (v : Ctx) : (s.setCtxAt p v).poison = s.poison := rfl
@[simp] theorem State.setCtxAt_clusters (s : State) (p : Place) (v : Ctx) : (s.setCtxAt p v).clusters = s.clusters := rfl
@[simp] theorem State.setCtxAt_dies (s : State) (p : Place) (v : Ctx) : (s.setCtxAt p v).dies = s.dies := rfl
@[simp] theorem State.setCtxAt_mds (s : State) (p : Place) (v : Ctx) : (s.setCtxAt p v).mds = s.mds := rfl
@[simp] theorem State.setCtxAt_watches (s : State) (p : Place) (v : Ctx) : (s.setCtxAt p v).watches = s.watches := rfl
@[simp] theorem State.setCtxAt_net (s : State) (p : Place) (v : Ctx) : (s.setCtxAt p v).net = s.net := rfl
@[simp] theorem State.setCtxAt_nmod (s : State) (p : Place) (v : Ctx) : (s.setCtxAt p v).nmod = s.nmod := rfl
@[simp] theorem State.setCtxAt_cycle (s : State) (p : Place) (v : Ctx) : (s.setCtxAt p v).cycle = s.cycle := rfl
@[simp] theorem State.setCtxAt_fresh (s : State) (p : Place) (v : Ctx) : (s.setCtxAt p v).fresh = s.fresh := rfl
@[simp] theorem State.setCtxAt_turns (s : State) (p : Place) (v : Ctx) : (s.setCtxAt p v).turns = s.turns := rfl
@[simp] theorem State.setCtxAt_cur (s : State) (p : Place) (v : Ctx) : (s.setCtxAt p v).cur = s.cur := rfl
@[simp] theorem State.setCtxAt_iss (s : State) (p : Place) (v : Ctx) : (s.setCtxAt p v).iss = s.iss := rfl
@[simp] theorem State.setCtxAt_mmio (s : State) (p : Place) (v : Ctx) : (s.setCtxAt p v).mmio = s.mmio := rfl

/-! ## modCtxAt -/

@[simp] theorem State.modCtxAt_mem (s : State) (p : Place) (f : Ctx → Ctx) : (s.modCtxAt p f).mem = s.mem := rfl
@[simp] theorem State.modCtxAt_poison (s : State) (p : Place) (f : Ctx → Ctx) : (s.modCtxAt p f).poison = s.poison := rfl
@[simp] theorem State.modCtxAt_clusters (s : State) (p : Place) (f : Ctx → Ctx) : (s.modCtxAt p f).clusters = s.clusters := rfl
@[simp] theorem State.modCtxAt_dies (s : State) (p : Place) (f : Ctx → Ctx) : (s.modCtxAt p f).dies = s.dies := rfl
@[simp] theorem State.modCtxAt_mds (s : State) (p : Place) (f : Ctx → Ctx) : (s.modCtxAt p f).mds = s.mds := rfl
@[simp] theorem State.modCtxAt_watches (s : State) (p : Place) (f : Ctx → Ctx) : (s.modCtxAt p f).watches = s.watches := rfl
@[simp] theorem State.modCtxAt_net (s : State) (p : Place) (f : Ctx → Ctx) : (s.modCtxAt p f).net = s.net := rfl
@[simp] theorem State.modCtxAt_nmod (s : State) (p : Place) (f : Ctx → Ctx) : (s.modCtxAt p f).nmod = s.nmod := rfl
@[simp] theorem State.modCtxAt_cycle (s : State) (p : Place) (f : Ctx → Ctx) : (s.modCtxAt p f).cycle = s.cycle := rfl
@[simp] theorem State.modCtxAt_fresh (s : State) (p : Place) (f : Ctx → Ctx) : (s.modCtxAt p f).fresh = s.fresh := rfl
@[simp] theorem State.modCtxAt_turns (s : State) (p : Place) (f : Ctx → Ctx) : (s.modCtxAt p f).turns = s.turns := rfl
@[simp] theorem State.modCtxAt_cur (s : State) (p : Place) (f : Ctx → Ctx) : (s.modCtxAt p f).cur = s.cur := rfl
@[simp] theorem State.modCtxAt_iss (s : State) (p : Place) (f : Ctx → Ctx) : (s.modCtxAt p f).iss = s.iss := rfl
@[simp] theorem State.modCtxAt_mmio (s : State) (p : Place) (f : Ctx → Ctx) : (s.modCtxAt p f).mmio = s.mmio := rfl

/-! ## modCo -/

@[simp] theorem State.modCo_mem (s : State) (f : Core → Core) : (s.modCo f).mem = s.mem := rfl
@[simp] theorem State.modCo_poison (s : State) (f : Core → Core) : (s.modCo f).poison = s.poison := rfl
@[simp] theorem State.modCo_clusters (s : State) (f : Core → Core) : (s.modCo f).clusters = s.clusters := rfl
@[simp] theorem State.modCo_dies (s : State) (f : Core → Core) : (s.modCo f).dies = s.dies := rfl
@[simp] theorem State.modCo_mds (s : State) (f : Core → Core) : (s.modCo f).mds = s.mds := rfl
@[simp] theorem State.modCo_watches (s : State) (f : Core → Core) : (s.modCo f).watches = s.watches := rfl
@[simp] theorem State.modCo_net (s : State) (f : Core → Core) : (s.modCo f).net = s.net := rfl
@[simp] theorem State.modCo_nmod (s : State) (f : Core → Core) : (s.modCo f).nmod = s.nmod := rfl
@[simp] theorem State.modCo_cycle (s : State) (f : Core → Core) : (s.modCo f).cycle = s.cycle := rfl
@[simp] theorem State.modCo_fresh (s : State) (f : Core → Core) : (s.modCo f).fresh = s.fresh := rfl
@[simp] theorem State.modCo_turns (s : State) (f : Core → Core) : (s.modCo f).turns = s.turns := rfl
@[simp] theorem State.modCo_cur (s : State) (f : Core → Core) : (s.modCo f).cur = s.cur := rfl
@[simp] theorem State.modCo_iss (s : State) (f : Core → Core) : (s.modCo f).iss = s.iss := rfl
@[simp] theorem State.modCo_mmio (s : State) (f : Core → Core) : (s.modCo f).mmio = s.mmio := rfl

/-! ## modCx -/

@[simp] theorem State.modCx_mem (s : State) (f : Ctx → Ctx) : (s.modCx f).mem = s.mem := rfl
@[simp] theorem State.modCx_poison (s : State) (f : Ctx → Ctx) : (s.modCx f).poison = s.poison := rfl
@[simp] theorem State.modCx_clusters (s : State) (f : Ctx → Ctx) : (s.modCx f).clusters = s.clusters := rfl
@[simp] theorem State.modCx_dies (s : State) (f : Ctx → Ctx) : (s.modCx f).dies = s.dies := rfl
@[simp] theorem State.modCx_mds (s : State) (f : Ctx → Ctx) : (s.modCx f).mds = s.mds := rfl
@[simp] theorem State.modCx_watches (s : State) (f : Ctx → Ctx) : (s.modCx f).watches = s.watches := rfl
@[simp] theorem State.modCx_net (s : State) (f : Ctx → Ctx) : (s.modCx f).net = s.net := rfl
@[simp] theorem State.modCx_nmod (s : State) (f : Ctx → Ctx) : (s.modCx f).nmod = s.nmod := rfl
@[simp] theorem State.modCx_cycle (s : State) (f : Ctx → Ctx) : (s.modCx f).cycle = s.cycle := rfl
@[simp] theorem State.modCx_fresh (s : State) (f : Ctx → Ctx) : (s.modCx f).fresh = s.fresh := rfl
@[simp] theorem State.modCx_turns (s : State) (f : Ctx → Ctx) : (s.modCx f).turns = s.turns := rfl
@[simp] theorem State.modCx_cur (s : State) (f : Ctx → Ctx) : (s.modCx f).cur = s.cur := rfl
@[simp] theorem State.modCx_iss (s : State) (f : Ctx → Ctx) : (s.modCx f).iss = s.iss := rfl
@[simp] theorem State.modCx_mmio (s : State) (f : Ctx → Ctx) : (s.modCx f).mmio = s.mmio := rfl

/-! ## modR -/

@[simp] theorem State.modR_mem (s : State) (f : Regs → Regs) : (s.modR f).mem = s.mem := rfl
@[simp] theorem State.modR_poison (s : State) (f : Regs → Regs) : (s.modR f).poison = s.poison := rfl
@[simp] theorem State.modR_clusters (s : State) (f : Regs → Regs) : (s.modR f).clusters = s.clusters := rfl
@[simp] theorem State.modR_dies (s : State) (f : Regs → Regs) : (s.modR f).dies = s.dies := rfl
@[simp] theorem State.modR_mds (s : State) (f : Regs → Regs) : (s.modR f).mds = s.mds := rfl
@[simp] theorem State.modR_watches (s : State) (f : Regs → Regs) : (s.modR f).watches = s.watches := rfl
@[simp] theorem State.modR_net (s : State) (f : Regs → Regs) : (s.modR f).net = s.net := rfl
@[simp] theorem State.modR_nmod (s : State) (f : Regs → Regs) : (s.modR f).nmod = s.nmod := rfl
@[simp] theorem State.modR_cycle (s : State) (f : Regs → Regs) : (s.modR f).cycle = s.cycle := rfl
@[simp] theorem State.modR_fresh (s : State) (f : Regs → Regs) : (s.modR f).fresh = s.fresh := rfl
@[simp] theorem State.modR_turns (s : State) (f : Regs → Regs) : (s.modR f).turns = s.turns := rfl
@[simp] theorem State.modR_cur (s : State) (f : Regs → Regs) : (s.modR f).cur = s.cur := rfl
@[simp] theorem State.modR_iss (s : State) (f : Regs → Regs) : (s.modR f).iss = s.iss := rfl
@[simp] theorem State.modR_mmio (s : State) (f : Regs → Regs) : (s.modR f).mmio = s.mmio := rfl

/-! ## modY -/

@[simp] theorem State.modY_mem (s : State) (f : Sys → Sys) : (s.modY f).mem = s.mem := rfl
@[simp] theorem State.modY_poison (s : State) (f : Sys → Sys) : (s.modY f).poison = s.poison := rfl
@[simp] theorem State.modY_clusters (s : State) (f : Sys → Sys) : (s.modY f).clusters = s.clusters := rfl
@[simp] theorem State.modY_dies (s : State) (f : Sys → Sys) : (s.modY f).dies = s.dies := rfl
@[simp] theorem State.modY_mds (s : State) (f : Sys → Sys) : (s.modY f).mds = s.mds := rfl
@[simp] theorem State.modY_watches (s : State) (f : Sys → Sys) : (s.modY f).watches = s.watches := rfl
@[simp] theorem State.modY_net (s : State) (f : Sys → Sys) : (s.modY f).net = s.net := rfl
@[simp] theorem State.modY_nmod (s : State) (f : Sys → Sys) : (s.modY f).nmod = s.nmod := rfl
@[simp] theorem State.modY_cycle (s : State) (f : Sys → Sys) : (s.modY f).cycle = s.cycle := rfl
@[simp] theorem State.modY_fresh (s : State) (f : Sys → Sys) : (s.modY f).fresh = s.fresh := rfl
@[simp] theorem State.modY_turns (s : State) (f : Sys → Sys) : (s.modY f).turns = s.turns := rfl
@[simp] theorem State.modY_cur (s : State) (f : Sys → Sys) : (s.modY f).cur = s.cur := rfl
@[simp] theorem State.modY_iss (s : State) (f : Sys → Sys) : (s.modY f).iss = s.iss := rfl
@[simp] theorem State.modY_mmio (s : State) (f : Sys → Sys) : (s.modY f).mmio = s.mmio := rfl

/-! ## modIss -/

@[simp] theorem State.modIss_mem (s : State) (f : Iss → Iss) : (s.modIss f).mem = s.mem := rfl
@[simp] theorem State.modIss_poison (s : State) (f : Iss → Iss) : (s.modIss f).poison = s.poison := rfl
@[simp] theorem State.modIss_cores (s : State) (f : Iss → Iss) : (s.modIss f).cores = s.cores := rfl
@[simp] theorem State.modIss_clusters (s : State) (f : Iss → Iss) : (s.modIss f).clusters = s.clusters := rfl
@[simp] theorem State.modIss_dies (s : State) (f : Iss → Iss) : (s.modIss f).dies = s.dies := rfl
@[simp] theorem State.modIss_mds (s : State) (f : Iss → Iss) : (s.modIss f).mds = s.mds := rfl
@[simp] theorem State.modIss_watches (s : State) (f : Iss → Iss) : (s.modIss f).watches = s.watches := rfl
@[simp] theorem State.modIss_net (s : State) (f : Iss → Iss) : (s.modIss f).net = s.net := rfl
@[simp] theorem State.modIss_nmod (s : State) (f : Iss → Iss) : (s.modIss f).nmod = s.nmod := rfl
@[simp] theorem State.modIss_cycle (s : State) (f : Iss → Iss) : (s.modIss f).cycle = s.cycle := rfl
@[simp] theorem State.modIss_fresh (s : State) (f : Iss → Iss) : (s.modIss f).fresh = s.fresh := rfl
@[simp] theorem State.modIss_turns (s : State) (f : Iss → Iss) : (s.modIss f).turns = s.turns := rfl
@[simp] theorem State.modIss_cur (s : State) (f : Iss → Iss) : (s.modIss f).cur = s.cur := rfl
@[simp] theorem State.modIss_mmio (s : State) (f : Iss → Iss) : (s.modIss f).mmio = s.mmio := rfl

/-! ## modCluster -/

@[simp] theorem State.modCluster_mem (s : State) (k : Nat) (f : Cluster → Cluster) : (s.modCluster k f).mem = s.mem := rfl
@[simp] theorem State.modCluster_poison (s : State) (k : Nat) (f : Cluster → Cluster) : (s.modCluster k f).poison = s.poison := rfl
@[simp] theorem State.modCluster_cores (s : State) (k : Nat) (f : Cluster → Cluster) : (s.modCluster k f).cores = s.cores := rfl
@[simp] theorem State.modCluster_dies (s : State) (k : Nat) (f : Cluster → Cluster) : (s.modCluster k f).dies = s.dies := rfl
@[simp] theorem State.modCluster_mds (s : State) (k : Nat) (f : Cluster → Cluster) : (s.modCluster k f).mds = s.mds := rfl
@[simp] theorem State.modCluster_watches (s : State) (k : Nat) (f : Cluster → Cluster) : (s.modCluster k f).watches = s.watches := rfl
@[simp] theorem State.modCluster_net (s : State) (k : Nat) (f : Cluster → Cluster) : (s.modCluster k f).net = s.net := rfl
@[simp] theorem State.modCluster_nmod (s : State) (k : Nat) (f : Cluster → Cluster) : (s.modCluster k f).nmod = s.nmod := rfl
@[simp] theorem State.modCluster_cycle (s : State) (k : Nat) (f : Cluster → Cluster) : (s.modCluster k f).cycle = s.cycle := rfl
@[simp] theorem State.modCluster_fresh (s : State) (k : Nat) (f : Cluster → Cluster) : (s.modCluster k f).fresh = s.fresh := rfl
@[simp] theorem State.modCluster_turns (s : State) (k : Nat) (f : Cluster → Cluster) : (s.modCluster k f).turns = s.turns := rfl
@[simp] theorem State.modCluster_cur (s : State) (k : Nat) (f : Cluster → Cluster) : (s.modCluster k f).cur = s.cur := rfl
@[simp] theorem State.modCluster_iss (s : State) (k : Nat) (f : Cluster → Cluster) : (s.modCluster k f).iss = s.iss := rfl
@[simp] theorem State.modCluster_mmio (s : State) (k : Nat) (f : Cluster → Cluster) : (s.modCluster k f).mmio = s.mmio := rfl

/-! ## modDie -/

@[simp] theorem State.modDie_mem (s : State) (k : Nat) (f : Die → Die) : (s.modDie k f).mem = s.mem := rfl
@[simp] theorem State.modDie_poison (s : State) (k : Nat) (f : Die → Die) : (s.modDie k f).poison = s.poison := rfl
@[simp] theorem State.modDie_cores (s : State) (k : Nat) (f : Die → Die) : (s.modDie k f).cores = s.cores := rfl
@[simp] theorem State.modDie_clusters (s : State) (k : Nat) (f : Die → Die) : (s.modDie k f).clusters = s.clusters := rfl
@[simp] theorem State.modDie_mds (s : State) (k : Nat) (f : Die → Die) : (s.modDie k f).mds = s.mds := rfl
@[simp] theorem State.modDie_watches (s : State) (k : Nat) (f : Die → Die) : (s.modDie k f).watches = s.watches := rfl
@[simp] theorem State.modDie_net (s : State) (k : Nat) (f : Die → Die) : (s.modDie k f).net = s.net := rfl
@[simp] theorem State.modDie_nmod (s : State) (k : Nat) (f : Die → Die) : (s.modDie k f).nmod = s.nmod := rfl
@[simp] theorem State.modDie_cycle (s : State) (k : Nat) (f : Die → Die) : (s.modDie k f).cycle = s.cycle := rfl
@[simp] theorem State.modDie_fresh (s : State) (k : Nat) (f : Die → Die) : (s.modDie k f).fresh = s.fresh := rfl
@[simp] theorem State.modDie_turns (s : State) (k : Nat) (f : Die → Die) : (s.modDie k f).turns = s.turns := rfl
@[simp] theorem State.modDie_cur (s : State) (k : Nat) (f : Die → Die) : (s.modDie k f).cur = s.cur := rfl
@[simp] theorem State.modDie_iss (s : State) (k : Nat) (f : Die → Die) : (s.modDie k f).iss = s.iss := rfl
@[simp] theorem State.modDie_mmio (s : State) (k : Nat) (f : Die → Die) : (s.modDie k f).mmio = s.mmio := rfl

/-! ## modMd -/

@[simp] theorem State.modMd_mem (s : State) (k : Nat) (f : Md → Md) : (s.modMd k f).mem = s.mem := rfl
@[simp] theorem State.modMd_poison (s : State) (k : Nat) (f : Md → Md) : (s.modMd k f).poison = s.poison := rfl
@[simp] theorem State.modMd_cores (s : State) (k : Nat) (f : Md → Md) : (s.modMd k f).cores = s.cores := rfl
@[simp] theorem State.modMd_clusters (s : State) (k : Nat) (f : Md → Md) : (s.modMd k f).clusters = s.clusters := rfl
@[simp] theorem State.modMd_dies (s : State) (k : Nat) (f : Md → Md) : (s.modMd k f).dies = s.dies := rfl
@[simp] theorem State.modMd_watches (s : State) (k : Nat) (f : Md → Md) : (s.modMd k f).watches = s.watches := rfl
@[simp] theorem State.modMd_net (s : State) (k : Nat) (f : Md → Md) : (s.modMd k f).net = s.net := rfl
@[simp] theorem State.modMd_nmod (s : State) (k : Nat) (f : Md → Md) : (s.modMd k f).nmod = s.nmod := rfl
@[simp] theorem State.modMd_cycle (s : State) (k : Nat) (f : Md → Md) : (s.modMd k f).cycle = s.cycle := rfl
@[simp] theorem State.modMd_fresh (s : State) (k : Nat) (f : Md → Md) : (s.modMd k f).fresh = s.fresh := rfl
@[simp] theorem State.modMd_turns (s : State) (k : Nat) (f : Md → Md) : (s.modMd k f).turns = s.turns := rfl
@[simp] theorem State.modMd_cur (s : State) (k : Nat) (f : Md → Md) : (s.modMd k f).cur = s.cur := rfl
@[simp] theorem State.modMd_iss (s : State) (k : Nat) (f : Md → Md) : (s.modMd k f).iss = s.iss := rfl
@[simp] theorem State.modMd_mmio (s : State) (k : Nat) (f : Md → Md) : (s.modMd k f).mmio = s.mmio := rfl

/-! ## Reads where an update wrote -/

@[simp] theorem State.modIss_iss (s : State) (f : Iss → Iss) : (s.modIss f).iss = f s.iss := rfl
@[simp] theorem State.core_setCore (s : State) (k : Nat) (c : Core) : (s.setCore k c).core k = c := by simp [State.core, State.setCore]
theorem State.core_setCore_ne (s : State) (k n : Nat) (c : Core) (h : n ≠ k) : (s.setCore k c).core n = s.core n := by
  simp [State.core, State.setCore, SMap.get_put_ne _ _ _ _ _ h]
@[simp] theorem State.core_modCore (s : State) (k : Nat) (f : Core → Core) : (s.modCore k f).core k = f (s.core k) := by simp [State.modCore]
theorem State.core_modCore_ne (s : State) (k n : Nat) (f : Core → Core) (h : n ≠ k) : (s.modCore k f).core n = s.core n := by
  simp [State.modCore, State.core_setCore_ne _ _ _ _ h]
@[simp] theorem Core.ctx_setCtx (c : Core) (x : Nat) (v : Ctx) : (c.setCtx x v).ctx x = v := by
  unfold Core.ctx Core.setCtx; split <;> simp_all
@[simp] theorem State.ctxAt_setCtxAt (s : State) (p : Place) (v : Ctx) : (s.setCtxAt p v).ctxAt p = v := by
  simp [State.ctxAt, State.setCtxAt]
@[simp] theorem State.ctxAt_modCtxAt (s : State) (p : Place) (f : Ctx → Ctx) : (s.modCtxAt p f).ctxAt p = f (s.ctxAt p) := by
  simp [State.modCtxAt]
@[simp] theorem State.cx_modCx (s : State) (f : Ctx → Ctx) : (s.modCx f).cx = f s.cx := by simp [State.cx, State.modCx]
@[simp] theorem State.cx_modR (s : State) (f : Regs → Regs) : (s.modR f).cx = { s.cx with r := f s.cx.r } := by simp [State.modR]
@[simp] theorem State.cx_modY (s : State) (f : Sys → Sys) : (s.modY f).cx = { s.cx with y := f s.cx.y } := by simp [State.modY]
@[simp] theorem State.cx_modIss (s : State) (f : Iss → Iss) : (s.modIss f).cx = s.cx := rfl
@[simp] theorem State.co_modCo (s : State) (f : Core → Core) : (s.modCo f).co = f s.co := by simp [State.co, State.modCo]
@[simp] theorem State.core_modIss (s : State) (f : Iss → Iss) (k : Nat) : (s.modIss f).core k = s.core k := rfl
@[simp] theorem State.core_modDie (s : State) (k n : Nat) (f : Die → Die) : (s.modDie k f).core n = s.core n := rfl
@[simp] theorem State.core_modCluster (s : State) (k n : Nat) (f : Cluster → Cluster) : (s.modCluster k f).core n = s.core n := rfl
@[simp] theorem State.core_modMd (s : State) (k n : Nat) (f : Md → Md) : (s.modMd k f).core n = s.core n := rfl
@[simp] theorem State.die_modDie (s : State) (k : Nat) (f : Die → Die) : (s.modDie k f).die k = f (s.die k) := by simp [State.die, State.modDie]
theorem State.die_modDie_ne (s : State) (k n : Nat) (f : Die → Die) (h : n ≠ k) : (s.modDie k f).die n = s.die n := by
  simp [State.die, State.modDie, SMap.get_put_ne _ _ _ _ _ h]
@[simp] theorem State.die_setCore (s : State) (k n : Nat) (c : Core) : (s.setCore k c).die n = s.die n := rfl
@[simp] theorem State.die_modCore (s : State) (k n : Nat) (f : Core → Core) : (s.modCore k f).die n = s.die n := rfl
@[simp] theorem State.die_modIss (s : State) (f : Iss → Iss) (n : Nat) : (s.modIss f).die n = s.die n := rfl
@[simp] theorem State.cluster_modCluster (s : State) (k : Nat) (f : Cluster → Cluster) : (s.modCluster k f).cluster k = f (s.cluster k) := by
  simp [State.cluster, State.modCluster]
theorem State.cluster_modCluster_ne (s : State) (k n : Nat) (f : Cluster → Cluster) (h : n ≠ k) :
    (s.modCluster k f).cluster n = s.cluster n := by simp [State.cluster, State.modCluster, SMap.get_put_ne _ _ _ _ _ h]
@[simp] theorem State.md_modMd (s : State) (k : Nat) (f : Md → Md) : (s.modMd k f).md k = f (s.md k) := by simp [State.md, State.modMd]
theorem State.md_modMd_ne (s : State) (k n : Nat) (f : Md → Md) (h : n ≠ k) : (s.modMd k f).md n = s.md n := by
  simp [State.md, State.modMd, SMap.get_put_ne _ _ _ _ _ h]

end Sys2Proof.Machine
end

