-- ==== Sys2Proof/Laws/Memory.lean ====
section
/-! SUPPORT. Reads after writes of memory at its homes, and its canonical form. -/

namespace Sys2Proof.Machine

@[simp] theorem State.byte_setByte_self (s : State) (a : Nat) (v : Byte) : (s.setByte a v).byte a = v := by
  simp [State.byte, State.setByte, SMap.get_set]

/-- A byte written elsewhere leaves a byte as it was. -/
theorem State.byte_setByte_ne (s : State) (a b : Nat) (v : Byte) (h : b ≠ a) : (s.setByte a v).byte b = s.byte b := by
  simp [State.byte, State.setByte, SMap.get_set, h]

/-- Bytes written outside an address leave it as it was. -/
theorem State.byte_setBytes_ne (bs : List Byte) (s : State) (a b : Nat) (h : b < a ∨ a + bs.length ≤ b) :
    (s.setBytes a bs).byte b = s.byte b := by
  induction bs generalizing s a with
  | nil => rfl
  | cons v t ih =>
    simp only [List.length_cons] at h
    simp only [State.setBytes]
    rw [ih (s.setByte a v) (a + 1) (by omega), State.byte_setByte_ne _ _ _ _ (by omega)]

/-- Byte `i` of the bytes written reads as written. -/
theorem State.byte_setBytes_at (bs : List Byte) (s : State) (a i : Nat) (h : i < bs.length) :
    (s.setBytes a bs).byte (a + i) = bs[i] := by
  induction bs generalizing s a i with
  | nil => simp at h
  | cons v t ih =>
    simp only [State.setBytes]
    cases i with
    | zero =>
      rw [State.byte_setBytes_ne t _ (a + 1) (a + 0) (by omega)]
      simp
    | succ i =>
      have hi : i < t.length := by simpa using h
      have := ih (s.setByte a v) (a + 1) i hi
      rw [show a + (i + 1) = a + 1 + i by omega, this]
      simp

@[simp] theorem State.memOk_setByte (s : State) (a : Nat) (v : Byte) (h : s.memOk = true) : (s.setByte a v).memOk = true :=
  SMap.ok_set _ _ _ _ h

/-- Every operation that writes bytes keeps the canonical form of memory. -/
theorem State.memOk_setBytes (bs : List Byte) (s : State) (a : Nat) (h : s.memOk = true) : (s.setBytes a bs).memOk = true := by
  induction bs generalizing s a with
  | nil => exact h
  | cons v t ih => exact ih _ _ (State.memOk_setByte s a v h)

/-- The canonical form depends on the memory alone. -/
theorem State.memOk_of_mem (s t : State) (h : t.mem = s.mem) (hs : s.memOk = true) : t.memOk = true := by
  simpa [State.memOk, h] using hs

/-- A byte depends on the memory alone. -/
theorem State.byte_of_mem (s t : State) (h : t.mem = s.mem) (a : Nat) : t.byte a = s.byte a := by simp [State.byte, h]

/-- A byte read depends on the memory alone. -/
theorem State.bytesAt_of_mem (s t : State) (h : t.mem = s.mem) (a n : Nat) : t.bytesAt a n = s.bytesAt a n := by
  simp [State.bytesAt, funext (State.byte_of_mem s t h)]

@[simp] theorem State.mem_cleanse (s : State) (a n : Nat) : (s.cleanse a n).mem = s.mem := rfl
@[simp] theorem State.mem_wake (s : State) (a n : Nat) : (s.wake a n).mem = s.mem := rfl
@[simp] theorem State.mem_homeWrite (s : State) (a : Nat) (bs : List Byte) : (s.homeWrite a bs).mem = (s.setBytes a bs).mem := rfl

/-- A write at its home changes no byte outside it. -/
theorem State.byte_homeWrite_ne (s : State) (a b : Nat) (bs : List Byte) (h : b < a ∨ a + bs.length ≤ b) :
    (s.homeWrite a bs).byte b = s.byte b := by
  rw [State.byte_of_mem _ _ (State.mem_homeWrite s a bs), State.byte_setBytes_ne bs s a b h]

/-- A write at its home reads back. -/
theorem State.byte_homeWrite_at (s : State) (a i : Nat) (bs : List Byte) (h : i < bs.length) :
    (s.homeWrite a bs).byte (a + i) = bs[i] := by
  rw [State.byte_of_mem _ _ (State.mem_homeWrite s a bs), State.byte_setBytes_at bs s a i h]

/-- A write at its home keeps the canonical form. -/
theorem State.memOk_homeWrite (s : State) (a : Nat) (bs : List Byte) (h : s.memOk = true) : (s.homeWrite a bs).memOk = true :=
  State.memOk_of_mem _ _ (State.mem_homeWrite s a bs) (State.memOk_setBytes bs s a h)

end Sys2Proof.Machine
end

