-- ==== Sys2Proof/Tests/Slice0.lean ====
section
/-! SUPPORT. Tests of the model: words written out from the encodings of the specification, one ill-formed term for each check of WellFormed, single
steps worked by hand from the rules, and, for every statement, states and operands that meet the hypotheses of each of its clauses. -/

namespace Sys2Proof.Tests

set_option synthInstance.maxSize 1000
set_option Elab.async false

open Sys2Proof Sys2Proof.Machine Sys2Proof.Claims

/-! ## Words (R97 to R106 and the encoding examples of the chapters) -/

/-- A word is read as this instruction, and this instruction is written as this word. -/
def reads (c : Slot) (w : Lane) (i : Instr) : Bool := (decodeSlot c w).toOption == some i && encode i == some (c, w)

theorem test_words_control : (reads .C 0x00000601 (.br 6) && reads .C 0xFFFFFD01 (.br (-3)) && reads .C 0xFFFF8509 (.bnz 5 (-4)) && reads .C 0x00000911 (.jr 9) &&
    reads .C 0x00000012 .ret && reads .C 0x00000228 (.lbrk 2) && reads .C 0x00004238 (.trap 0x42) && reads .C 0x00001039 (.sysc 0x10) &&
    reads .C 0x00002431 (.endtPost 4 1)) = true := by decide +kernel
theorem test_words_scalar : (reads .A 0x0400A540 (.addi 5 5 0x100) && reads .A 0x00948301 (.add 3 4 5 0 true) && reads .A 0x00148318 (.sel 3 4 5 0) &&
    reads .A 0x07312249 (.bext 2 9 0x0c 7) && reads .A 0x001C044B (.csrr 4 7) && reads .A 0x0019204C (.csrw 9 6)) = true := by decide +kernel
theorem test_words_system : (reads .A 0x440C04F0 (.csrrsS 4 0 0x103) && reads .A 0x000000F1 .tret && reads .A 0x001480F2 (.tinv 0 4 5) &&
    reads .A 0x0000A0F3 (.asidinv 0 5) && reads .A 0x001483F4 (.ctxsave 3 4 5) && reads .A 0x001483F5 (.ctxrest 3 4 5) && reads .A 0x000082F6 (.scrub 2 4) &&
    reads .A 0x001CC3F7 (.keyld 3 6 7) && reads .A 0x000083F8 (.gsw 3 4) && reads .A 0x000082F9 (.segmap 2 4) && reads .A 0x000003FA (.wfe 3)) = true := by decide +kernel
theorem test_words_vector : (reads .V 0x07C30404 (.vaddF 0 4 0xc3 0x07) && reads .V 0xC1420810 (.vfma 0 8 0x42 0xc1)) = true := by decide +kernel
theorem test_words_array : (reads .M 0xFC005801 (.wload 0 0x0b 0x3f) && reads .M 0xFFC04712 (.mrunMax 7 8 0x3c0 0x3f) &&
    reads .M 0x3C405221 (.accscale 2 0x40 0x0f)) = true := by decide +kernel
theorem test_words_memory : (reads .L 0x0010C907 (.ldZ32 6 9 2) && reads .L 0xFFF0A90C (.st64 5 9 (-2)) && reads .L 0x0230A914 (.vgath 5 9 6 1) &&
    reads .L 0x0230E915 (.vscat 7 9 6 1) && reads .L 0x00286022 (.padv false 3 0 5) && reads .L 0x00404724 (.hset 2 7 8)) = true := by decide +kernel
theorem test_words_engine : (reads .X 0x04E35201 (.xcopy 2 5 3 7 true false false) && reads .X 0x00670010 (.kinc 7 3 false) &&
    reads .X 0x04825420 (.xcoll 4 5 2 4 true false) && reads .X 0x00A00022 (.xabort 5)) = true := by decide +kernel
theorem test_words_sync : (reads .Y 0x0500A401 (.amoAdd 4 5 2 true false false) && reads .Y 0x0618A408 (.amoCas 4 5 6 4 true false false) &&
    reads .Y 0x00814409 (.vamoAdd 4 0xa 1 false false false) && reads .Y 0x05000011 (.fence 2 true false) && reads .Y 0x0E000011 (.fence 4 true true) &&
    reads .Y 0x00146412 (.bind 4 5 3) && reads .Y 0x00000413 (.unbind 4) && reads .Y 0x88010918 (.preg 9 0x28 2) && reads .Y 0x80010019 (.pdrop 0x28) &&
    reads .Y 0x0000601A (.psig 3) && reads .Y 0x0000671B (.pwait 7 3) && reads .Y 0x0000601C (.psw 3) && reads .Y 0x0400661D (.pqueryPhase 6 3) &&
    reads .Y 0x000CA920 (.waita 9 5 3) && reads .Y 0x00988828 (.tdep 8 4 6 1) && reads .Y 0x0118882D (.ttakePark 8 4 6 2)) = true := by decide +kernel

/-- Words that no row of the table has: an unused opcode, a set reserved bit, an operand out of range (R87, R107, R108). -/
theorem test_words_refused : ([decodeSlot .A 0x000000FF, decodeSlot .C 0x00000112, decodeSlot .C 0x00000000, decodeSlot .L 0x00004724 ].map (·.toOption.isSome)) =
    [false, false, false, true] := by decide +kernel

/-- One ill-formed term for each check of `Instr.wf`. -/
theorem test_ill_formed : ([.loop 0 4 0, .loopi 0 1 0, .bext 2 9 0x3f 1, .bins 2 9 0x20 0x20, .csrr 4 0x0a, .csrw 4 5, .csrrsW 4 0 0x10d, .csrrsS 4 0 0x0a,
    .csrrsC 4 0 0x0ff, .vaddF 3 4 5 6, .vaddF 0 0xc4 5 6, .vaddF 0 4 0xc8 6, .vsubF 0 4 5 0xc8, .vfma 0 0xc0 5 6, .vabs 3 4 5, .vexp2 0 0xc4 5, .vaddI 0 0xc4 5 6,
    .vmulh 0 4 0xc8 5, .vand 4 5 0xff, .vperm 0xc4 5 6, .vscale 4 5 0xc8, .vcmpEq 3 1 4 5, .vcmpLt 0 1 0xc8 5, .vsel 0xc0 5 1, .vmov 4 0xc8, .vrot 0xc4 4 5,
    .vbcast 0xc4 5, .vins 0xc4 5 6, .vpackP 0xc4 false, .vlane 4 0xc8 5, .vunpackP false 0xc8, .vredsum 3 4 5, .vscan 0 0xc4 5, .vcvt 6 0 4 5, .vcvt 0 0 4 5,
    .vcvt 0 12 4 5, .vexpoNt8 0xc4 5, .wload 0 2 0, .mrunMac 0 3 0 0, .mrunMax 0 8 0x3c1 0x3f, .accclr 0x3ff 1, .accscale 0 0x3ff 1, .vgath 4 5 6 3, .vscat 4 5 6 3,
    .pcfg true 4 0, .padv true 7 0 0, .hset 0 1 0x07, .hset 0 1 0x15, .hset 0 1 0x20, .xcopy 0 1 2 3 false true false, .xfill 1 2 3 false true false false,
    .xcoll 0 1 2 3 false true, .kinc 1 1 true, .kwaitGe 1 1 true, .amoAdd 1 2 5 false false false, .amoMin 1 2 5 false false false false,
    .amoCas 1 2 3 5 false false false, .vamoAdd 1 2 5 false false false, .vamoMax 1 2 5 false false false false, .fence 5 false false, .preg 1 2 3, .tdep 1 2 3 5,
    .ttakePark 1 2 3 5] : List Instr).all (fun i => !i.wf) = true := by decide +kernel

/-! ## Small states -/

/-- A compute core whose context 0 is in issue at task level with these registers, over which `f` and `g` may change the context and the core. -/
def task (r : Regs) (f : Ctx → Ctx := id) (g : Core → Core := id) : State :=
  { cores := [(0, g { c0 := f { r := r, run := .running, y := { tvec := 0x4000, trec := 0xFF000000001000, sphi := 512 }, t := { acn := 16 } } })],
    cur := ⟨0, 0⟩, iss := { live := true, baddr := 0x1000, head := 0x01, lat := r, sync := r } }

/-- The system core of die 0 at a level, likewise. -/
def onSystem (level : BitVec 2) (r : Regs) (f : Ctx → Ctx := id) (g : Core → Core := id) : State :=
  { cores := [(64, g { c0 := f { r := r, run := .running, y := { level := level, tvec := 0x4000, sphi := 512 }, t := { acn := 16 } } })],
    cur := ⟨64, 0⟩, iss := { live := true, baddr := 0x1000, head := 0x01, lat := r, sync := r } }

/-- The same with die 0 as `d`. -/
def withDie (d : Die) (s : State) : State := { s with dies := [(0, d)] }
/-- The same in slot `n`. -/
def inSlot (n : Nat) (s : State) : State := { s with iss := { s.iss with slot := n, head := (1#32 <<< n) } }

theorem task_traps (r : Regs) : TrapsHere (task r) := ⟨rfl, (by decide : bit (0 : Word) 1 = false)⟩
theorem task_traps_in (n : Nat) (r : Regs) : TrapsHere (inSlot n (task r)) := ⟨rfl, (by decide : bit (0 : Word) 1 = false)⟩

/-- Registers: g4 = 5, g5 = 7, g9 = 0x7FFF_FFFF_FFFF_FFFF, SLIM = 0xFF00_0000_1000. -/
def regs : Regs := { g := [(4, 5), (5, 7), (9, 0x7FFFFFFFFFFFFFFF)], slim := 0xFF000000001000 }

/-! ## Scalar arithmetic (R48, R62, R126 to R129) -/

theorem meets_scalarArithmetic : scalarExact (.add 3 9 9 0 true) (task regs) = some (3, 0, true, true, 0xFFFFFFFFFFFFFFFE, false) ∧
    scalarExact (.divs 0 4 6 1 false) (task regs) = some (0, 1, true, false, -1, true) ∧
    ¬ ((3 : BitVec 5) = 30 ∧ written 0 true (limited 0 0xFFFFFFFFFFFFFFFE) < (task regs).cx.r.slim) := by decide +kernel
theorem meets_immediateForms : (Instr.bext 2 9 0x3f 0).wf = true ∧ scalarWord (.bext 2 9 0x3f 0) (task regs) = some (2, 0) ∧
    scalarWord (.addi 30 9 0) (task regs) = some (30, 0x7FFFFFFFFFFFFFFF) ∧ ¬ ((30 : BitVec 5) = 30 ∧ (0x7FFFFFFFFFFFFFFF : Word) < (task regs).cx.r.slim) := by
  decide +kernel
theorem meets_stackLimit : TrapsHere (task regs) ∧ scalarExact (.add 30 4 5 0 false) (task regs) = some (30, 0, true, false, 12, false) ∧
    written 0 true 12 < (task regs).cx.r.slim ∧ (Instr.li 30 7).wf = true ∧ scalarWord (.li 30 7) (task regs) = some (30, 7) ∧
    (7 : Word) < (task regs).cx.r.slim := ⟨task_traps regs, by decide +kernel⟩

/-- 0x7FFF_FFFF_FFFF_FFFF + 0x7FFF_FFFF_FFFF_FFFF is limited and sets SAT (R126). -/
theorem test_add_sat : (match exec (.add 3 9 9 0 true) (task regs) with
    | .next t => (t.cx.r.rg 3 == 0x7FFFFFFFFFFFFFFF && t.cx.r.aflags == 0x10) | _ => false) = true := by decide +kernel
/-- A division by zero gives −1 and sets NV (R127). -/
theorem test_div_zero : (match exec (.divs 3 4 6 0 false) (task regs) with
    | .next t => (t.cx.r.rg 3 == 0xFFFFFFFFFFFFFFFF && t.cx.r.aflags == 0x01) | _ => false) = true := by decide +kernel

/-! ## Control flow (R113 to R122) -/

theorem meets_branch : (∃ c off, branch (.bnz 4 (-4)) (task regs) = some (c, off) ∧ c) ∧ (∃ c off, branch (.bz 4 6) (task regs) = some (c, off) ∧ ¬ c) ∧
    (∃ c off, branch (.bpall 0 6) (task regs) = some (c, off) ∧ c) :=
  ⟨⟨_, _, rfl, by decide +kernel⟩, ⟨_, _, rfl, by decide +kernel⟩, ⟨_, _, rfl, by decide +kernel⟩⟩
theorem meets_calls : (onSystem 2 regs).targetBad (onSystem 2 regs).cur ((onSystem 2 regs).rs 9) = none ∧
    (onSystem 2 regs).targetBad (onSystem 2 regs).cur ((onSystem 2 regs).rs 31) = none ∧ TrapsHere (task regs) ∧
    Instr.jr 0 ∈ [Instr.callr 0, .jr 0] ∧ ∃ c, (task regs).targetBad (task regs).cur ((task regs).rs 0) = some c ∧ c / 256 ≠ 0x0F :=
  ⟨by decide +kernel, by decide +kernel, task_traps regs, by decide +kernel, _, rfl, by decide +kernel⟩
theorem meets_loops :
    (loopCount (.loop 1 9 11) (task regs) = some (1, 16777215, 11, true) ∧ (task regs).cx.r.looping 1 = false) ∧
    (loopCount (.loopi 1 0 11) (task regs) = some (1, 0, 11, false)) ∧
    (let s := task { regs with frames := [⟨1, 0x1010, 0x1020⟩], lc := [(1, 2)] }
     loopCount (.loop 1 4 11) s = some (1, 5, 11, false) ∧ s.cx.r.looping 1 = true) := by decide +kernel
theorem meets_loopBreak : (task regs).cx.r.looping (2 : BitVec 2).toNat = false ∧
    (let s := task { regs with frames := [⟨3, 0x1018, 0x101C⟩, ⟨1, 0x1010, 0x1020⟩, ⟨0, 0x1000, 0x1030⟩] }
     s.cx.r.frames = [⟨3, 0x1018, 0x101C⟩] ++ ⟨1, 0x1010, 0x1020⟩ :: [⟨0, 0x1000, 0x1030⟩] ∧ ∀ g ∈ [(⟨3, 0x1018, 0x101C⟩ : Frame)], g.lc ≠ (1 : BitVec 2).toNat) := by
  decide +kernel
theorem meets_loopEnd : (∀ n ∈ [1, 2], let s := task { regs with frames := [⟨3, 0x1018, 0x101C⟩, ⟨1, 0x1010, 0x1000⟩], lc := [(1, n)] }
    s.cx.r.frames = [⟨3, 0x1018, 0x101C⟩] ++ ⟨1, 0x1010, 0x1000⟩ :: [] ∧ (0x1000 : Word) = s.iss.baddr ∧
    (∀ g ∈ [(⟨3, 0x1018, 0x101C⟩ : Frame)], g.last ≠ s.iss.baddr) ∧ 0 < SMap.get 0 s.cx.r.lc 1) := by decide +kernel

/-! ## Vectors and predicates -/

/-- As `task`, with rows 4 and 5 of the vector file of context 0 at 1.0 and 2.0 in lane 0, in the V slot. -/
def vectors : State :=
  let s := inSlot 2 (task regs (fun c => { c with t := { c.t with vb := true } }) (fun c => { c with vfile := [(256, 0x3F800000), (320, 0x40000000)] }))
  { s with iss := { s.iss with latV := [(256, 0x3F800000), (320, 0x40000000)], syncV := [(256, 0x3F800000), (320, 0x40000000)] } }

theorem meets_lanewise : (∃ f, laneForm (.vaddF 0 6 4 5) vectors = some (6, f)) ∧ (∃ f, laneForm (.vfma 0 6 4 5) vectors = some (6, f)) ∧
    ∃ f, laneForm (.vmov 0xC3 4) vectors = some (0xC3, f) := ⟨⟨_, rfl⟩, ⟨_, rfl⟩, ⟨_, rfl⟩⟩
theorem meets_predicates : (∃ v f, predForm (.vcmpLt 0 0 4 5) vectors = some (0, v, f)) ∧ ∃ v f, predForm (.pand 15 1 2) vectors = some (15, v, f) :=
  ⟨⟨_, _, rfl⟩, ⟨_, _, rfl⟩⟩
theorem meets_counts : ¬ ((30 : BitVec 5) = 30 ∧ BitVec.ofNat 64 ((List.range vectors.lanes).filter
    (fun i => (vectors.iss.lat.rp (0 : BitVec 4).toNat).getLsbD i && (vectors.iss.mask vectors.iss.slot).getLsbD i)).length <
      ({ vectors with cores := [(0, {})] } : State).cx.r.slim) := by decide +kernel
theorem meets_reductions : (∃ op, reduction (.vredsum 0 6 4) = some (6, 4, 0x80000000, op)) ∧
    (∃ k : Int, Instr.vexpoNt8 6 4 = .vexpoNt8 6 4 ∧ k = 4 ∨ Instr.vexpoNt8 6 4 = .vexpoNt6 6 4 ∧ k = 2) := ⟨⟨_, rfl⟩, 4, .inl ⟨rfl, rfl⟩⟩
theorem meets_laneMoves : (vectors.iss.mask vectors.iss.slot).getLsbD ((vectors.ra 0).toNat % 64) = true ∧
    ¬ ((3 : BitVec 5) = 30 ∧ (laneAt vectors 4 0).setWidth 64 < vectors.cx.r.slim) ∧
    (let s := { vectors with iss := { vectors.iss with head := 0x04000004 } }; (s.iss.mask s.iss.slot).getLsbD ((s.ra 0).toNat % 64) = false) := by decide +kernel

/-- 1.0 + 2.0 = 3.0 in lane 0 (R139). -/
theorem test_vadd : (match exec (.vaddF 0 6 4 5) vectors with | .next t => SMap.get 0 t.co.vfile 384 | _ => 0) = 0x40400000 := by decide +kernel
/-- 1.0 < 2.0 sets bit 0 alone of p1; lanes of zeros are equal (R143). -/
theorem test_vcmp : (match exec (.vcmpLt 0 1 4 5) vectors with | .next t => t.cx.r.rp 1 | _ => 0) = 1 := by decide +kernel
/-- The sum over a row with 1.0 in lane 0 and zeros elsewhere is 1.0 (R79, R147). -/
theorem test_vredsum : (match exec (.vredsum 0 6 4) vectors with | .next t => SMap.get 0 t.co.vfile 384 | _ => 0) = 0x3F800000 := by decide +kernel

/-! ## The array -/

/-- As `task`, in the M slot, with read port q0 walking one row of 128 bytes of nt8 that ends where the scratchpad ends. -/
def arrayTask : State :=
  inSlot 4 (task { regs with ports := [(0, { shape := { w0 := 0xFF0000001FFF80, w1 := 0x0B, w2 := 1, w4 := 128 }, bound := true })] })

theorem meets_arrayRows : (∃ win op, arrayForm (.wload 0 0x0b 0) arrayTask = some (win, some (0, 0x0b, 1), true, op) ∧ win = none) ∧
    arrayTask.mrowsBad (arrayTask.iss.lat.port (0 : BitVec 3).toNat) 0x0b 1 = none ∧
    ∃ c, ({ arrayTask with iss := { arrayTask.iss with lat := { regs with ports := [(0, { shape := { w0 := 0xFF0000001FFF81, w1 := 0x0B, w2 := 1, w4 := 128 }, bound := true })] } } } :
      State).mrowsBad { shape := { w0 := 0xFF0000001FFF81, w1 := 0x0B, w2 := 1, w4 := 128 }, bound := true } 0x0b 1 = some c :=
  ⟨⟨_, _, rfl, rfl⟩, by decide +kernel, _, rfl⟩
theorem meets_arrayQueue : (∃ port ok op, arrayForm .wswap arrayTask = some (none, port, ok, op) ∧ ok = true ∧ port = none) ∧
    (∃ ok op, arrayForm (.accclr 0x3c0 0x3f) arrayTask = some (some (960, 64), none, ok, op) ∧ ok = true) ∧ InWindow arrayTask (960, 64) ∧
    arrayTask.co.queue.length < 4 := ⟨⟨_, _, _, rfl, by decide +kernel, rfl⟩, ⟨_, _, rfl, by decide +kernel⟩, by unfold InWindow; decide +kernel, by decide +kernel⟩
theorem meets_arrayChecks :
    (let s := inSlot 4 (task regs (fun c => { c with t := { acn := 15 } }))
     (∃ port ok op, arrayForm (.accclr 0x3c0 0) s = some (some (960, 1), port, ok, op)) ∧ ¬ InWindow s (960, 1) ∧ TrapsHere s) :=
  ⟨⟨_, _, _, rfl⟩, by unfold InWindow; decide +kernel, ⟨rfl, (by decide : bit (0 : Word) 1 = false)⟩⟩
theorem meets_arrayFormats : ∃ p c ok op win, arrayForm (.mrunMac 0 0x0c 0 0) (inSlot 4 (task regs)) = some (win, some (p, 0x0c, c), ok, op) ∧ ok = false :=
  ⟨_, _, _, _, _, rfl, by decide +kernel⟩
theorem meets_arrayDequeue : ((task regs).core 0).queue = [] ∧
    (((task regs id (fun c => { c with queue := [⟨0, .accclr 1023 1⟩, ⟨0, .wswap true⟩] })).core 0).queue = ⟨0, .accclr 1023 1⟩ :: [⟨0, .wswap true⟩]) ∧
    (((task regs id (fun c => { c with latch1 := { cols := List.replicate 64 ([], []) } })).core 0).latch 1).cols.length = 64 := by decide +kernel

/-- `accclr` of row 1023 clears its columns and no other row's (R169). -/
theorem test_accclr : (match exec (.arrayDequeue 0) (task regs id (fun c => { c with acc := [(1023 * 64, 5), (1022 * 64 + 63, 6)], queue := [⟨0, .accclr 1023 1⟩] })) with
    | .next t => ((t.core 0).accAt 1023 0, (t.core 0).accAt 1022 63) | _ => (9, 9)) = (0, 6) := by decide +kernel

/-! ## Tasks and exceptions -/

/-- The state after an instruction that answers a next state. -/
def after (i : Instr) (s : State) : State := match exec i s with | .next t => t | _ => s

/-- A trigger that names the counters of task 0 of context 0 of core 0. -/
def trigger : Trigger := { ks := .task 0 0 0, owner := (0, 0), pred := {}, trc := {} }

theorem meets_taskEnd : ((task regs).die (coreDie (task regs).cur.core)).namesSet (.task (coreDie (task regs).cur.core) (task regs).cx.t.job (task regs).cx.t.trc.tid) = false ∧
    (let s := withDie { trigs := [trigger], sets := (List.range 31).map (fun n => (n, { used := true, back := true })) } (task regs)
     (s.die 0).namesSet (.task 0 0 0) = true ∧ ∃ n, n < 32 ∧ s.setLive 0 n = false) ∧
    (let s := withDie { trigs := [trigger], sets := (List.range 32).map (fun n => (n, { used := true, back := true })) } (task regs)
     (s.die 0).namesSet (.task 0 0 0) = true ∧ ∀ n, n < 32 → s.setLive 0 n = true) :=
  ⟨by decide +kernel, ⟨by decide +kernel, 31, by decide +kernel⟩, by decide +kernel, by decide +kernel⟩

/-- A flow of one stage whose sub-queue has one free slot. -/
def oneFlow : Flow := { job := 0, flow := 0, fprio := 1, pre := true, stages := [{ acn := 16, acb := 0, sprio := 2, stk := 4, acz := true, vb := false, entry := 0x2000, cap := 1 }] }
/-- A task whose g4 addresses 64 bytes of zeros in its scratchpad, on a die with that flow. -/
def poster : State := withDie { flows := [oneFlow], subqs := [{ job := 0, flow := 0, stg := 0, cl := 0, cap := 1 }] } (task { regs with g := [(4, 0xFF0000001FFFC0)] })

/-- The record that it posts to stage 0. -/
def aPost : TaskRec := { orig := 2, inl := List.replicate 4 0 }

theorem meets_posts :
    let els : List (Nat × Word × Xl) := [(0, 0xFF0000001FFFC0, ⟨.scratch, homeScratch 0 0x1FFFC0, 0, 0⟩)]
    let u := poster.freshen els
    (∃ g0, (poster.die 0).stageOf 0 0 (0 : BitVec 3).toNat = some g0) ∧ poster.access .rd 64 false 64 [(0, poster.rs 4)] = .ok els ∧ u.missing 64 els = none ∧
    wordsOf 8 (u.readAt poster.cur.core ⟨.scratch, homeScratch 0 0x1FFFC0, 0, 0⟩ 64) = List.replicate 8 0 ∧
    (u.settle els).homeClusterOf 0 = .ok 0 ∧ ((poster.die 0).subq 0 0 0 0).full = false ∧ (poster.die 0).spilled 0 0 0 0 = false ∧
    (poster.die 0).entryWaits poster.cycle 0 aPost (coreLocal poster.cur.core * 2 + poster.cur.ctx) = false ∧
    poster.iss.postDone = false ∧ poster.iss.posting = none ∧ (((u.settle els).releaseCore poster.cur.core 2).publish poster.cur.core 2).unacked poster.cur.core 2 = false ∧
    (poster.die 0).namesSet (.task 0 0 0) = false :=
  ⟨⟨_, rfl⟩, rfl, by decide +kernel, by decide +kernel, rfl, by decide +kernel, by decide +kernel, by decide +kernel, by decide +kernel, by decide +kernel, by decide +kernel, by decide +kernel⟩
/-- The same where no detached set is free and a trigger names the task's counters. -/
theorem meets_postsThatWait :
    let s := withDie { poster.die 0 with trigs := [trigger], sets := (List.range 32).map (fun n => (n, { used := true, back := true })) } poster
    let els : List (Nat × Word × Xl) := [(0, 0xFF0000001FFFC0, ⟨.scratch, homeScratch 0 0x1FFFC0, 0, 0⟩)]
    let u := s.freshen els
    (∃ g0, (s.die 0).stageOf 0 0 (0 : BitVec 3).toNat = some g0) ∧ s.access .rd 64 false 64 [(0, s.rs 4)] = .ok els ∧ u.missing 64 els = none ∧
    wordsOf 8 (u.readAt s.cur.core ⟨.scratch, homeScratch 0 0x1FFFC0, 0, 0⟩ 64) = List.replicate 8 0 ∧
    (u.settle els).homeClusterOf 0 = .ok 0 ∧ ((s.die 0).subq 0 0 0 0).full = false ∧ (s.die 0).spilled 0 0 0 0 = false ∧
    (s.die 0).entryWaits s.cycle 0 aPost (coreLocal s.cur.core * 2 + s.cur.ctx) = false ∧
    s.iss.postDone = false ∧ s.iss.posting = none ∧ (((u.settle els).releaseCore s.cur.core 2).publish s.cur.core 2).unacked s.cur.core 2 = false ∧
    (s.die 0).namesSet (.task 0 0 0) = true ∧ ∀ n, n < 32 → s.setLive 0 n = true :=
  ⟨⟨_, rfl⟩, rfl, by decide +kernel, by decide +kernel, rfl, by decide +kernel, by decide +kernel, by decide +kernel, by decide +kernel, by decide +kernel, by decide +kernel, by decide +kernel,
    by decide +kernel⟩

theorem meets_softwareTraps : ((Instr.trap 0x42 = .trap 0x42 ∧ 0x1000 = 0x1000) ∨ (Instr.trap 0x42 = .sysc 0x42 ∧ 0x1000 = 0x1100)) ∧ TrapsHere (task regs) ∧
    (task regs).cx.pend = [] ∧ (task regs (fun c => { c with pend := [{ dst := 8, vc := 0, seq := 0, off := 0, len := 8, signed := true, g := 3 }] })).cx.pend ≠ [] ∧ (onSystem 1 regs).cx.pend = [] ∧ (onSystem 1 regs).cx.y.level ≠ 0 ∧
    isSystem (onSystem 1 regs).cur.core = true ∧ ¬ (0x1000 = 0x1000 ∧ (onSystem 1 regs).cx.y.level = 1 ∧ 0x100 ≤ (0xFF : BitVec 16).toNat ∧ (0xFF : BitVec 16).toNat ≤ 0x1FF) :=
  ⟨.inl ⟨rfl, rfl⟩, task_traps regs, by decide +kernel, by decide +kernel, by decide +kernel, by decide +kernel, by decide +kernel, by decide +kernel⟩
theorem meets_rootServices : (let s := onSystem 1 { regs with g := [(1, 0x80000000)] }
    isSystem s.cur.core = true ∧ s.cx.y.level = 1 ∧ s.cx.pend = [] ∧ 0x100 ≤ (0x1FF : BitVec 16).toNat ∧ (0x1FF : BitVec 16).toNat ≤ 0x1FF ∧ (0x1FF : BitVec 16) ≠ 0x100 ∧ KeygenMalformed (s.cx.r.rg 1)) ∧
    (let s := onSystem 1 { regs with g := [(1, 0x200003FF), (2, BitVec.ofNat 64 (winScratch + 0x1FFFC0))] }
     isSystem s.cur.core = true ∧ s.cx.y.level = 1 ∧ s.cx.pend = [] ∧ ¬ KeygenMalformed (s.cx.r.rg 1) ∧ 0x1FFFC0 % 64 = 0 ∧ 0x1FFFC0 + 64 ≤ 2 ^ 21 ∧ s.cx.y.splo * 4096 ≤ 0x1FFFC0 ∧
     0x1FFFC0 + 64 ≤ s.cx.y.sphi * 4096 ∧ s.cx.r.rg 2 = BitVec.ofNat 64 (winScratch + 0x1FFFC0)) := by
  unfold KeygenMalformed; decide +kernel

/-- `jr g9` to an address that is not canonical, with TREC at the last record that the scratchpad holds. -/
def faulting : State :=
  let s := task regs (fun c => { c with y := { c.y with trec := BitVec.ofNat 64 (winScratch + 0x1FF800) } })
  { s with iss := { s.iss with words := [0x911], head := 0x101 } }

theorem meets_faultRecord : TrapsHere faulting ∧ faulting.iss.push = [] ∧ faulting.targetBad faulting.cur (faulting.rs 9) = some 0x0101 ∧ 0x1FF800 % 64 = 0 ∧
    0x1FF800 + 2048 ≤ 2 ^ 21 ∧ faulting.cx.y.splo * 4096 ≤ 0x1FF800 ∧ 0x1FF800 + 2048 ≤ faulting.cx.y.sphi * 4096 ∧
    faulting.cx.y.trec = BitVec.ofNat 64 (winScratch + 0x1FF800) ∧ 0x0101 < 0xF00 ∧ faulting.cur.ctx ≤ 1 ∧ faulting.iss.slot = 0 ∧
    faulting.iss.head.getLsbD 0 = true ∧ faulting.iss.cmask.getLsbD 0 = false ∧ faulting.iss.word 0 = 0x11#32 ||| ((9 : BitVec 5).setWidth 32 <<< 8) :=
  ⟨⟨rfl, (by decide : bit (0 : Word) 1 = false)⟩, by decide +kernel⟩
/-- A record whose word 1 holds these bytes, the rest zero. -/
def recorded (present complete valid : Byte) (kind : Byte := 0) : State :=
  { task regs with mem := ([(0x1009, kind), (0x100D, present), (0x100E, complete), (0x100F, valid)].map (fun e => (homeScratch 0 e.1, e.2))).filter (fun e => e.2 != 0) }
theorem meets_trapReturn :
    (let s := recorded 1 0 0x80
     (match s.getVa s.xc (vaOf s.cx.y.trec) 2048 with
      | .ok b => recordBad b == false && (wordOf (slice b 8 8)).extractLsb' 48 8 != (wordOf (slice b 8 8)).extractLsb' 40 8 | .error _ => false) = true) ∧
    (let s := recorded 1 1 0x80
     (match s.getVa s.xc (vaOf s.cx.y.trec) 2048 with
      | .ok b => recordBad b == false && (wordOf (slice b 8 8)).extractLsb' 48 8 == (wordOf (slice b 8 8)).extractLsb' 40 8 &&
          (wordOf (slice b 8 8)).extractLsb' 40 8 != 0 | .error _ => false) = true) ∧
    (let s := recorded 1 0 0x80 1
     (match s.getVa s.xc (vaOf s.cx.y.trec) 2048 with
      | .ok b => recordBad b == false && (wordOf (slice b 8 8)).extractLsb' 48 8 == 0 && (wordOf (slice b 8 8)).extractLsb' 8 8 == 1 | .error _ => false) = true) := by
  decide +kernel
theorem meets_trapReturnRefused :
    (let s := task regs; TrapsHere s ∧ (match s.getVa s.xc (vaOf s.cx.y.trec) 2048 with | .ok b => recordBad b | .error _ => false) = true) ∧
    (let s := task regs (fun c => { c with y := { c.y with level := 1 } })
     s.cx.y.level = 1 ∧ isSystem s.cur.core = false ∧ (match s.getVa s.xc (vaOf s.cx.y.trec) 2048 with | .ok b => recordBad b | .error _ => false) = true) :=
  ⟨⟨task_traps regs, by decide +kernel⟩, by decide +kernel⟩
theorem meets_rootReturn : (isSystem (onSystem 2 regs).cur.core = true ∧ (onSystem 2 regs).cx.y.level = 2) ∧
    (isSystem (onSystem 1 regs).cur.core = true ∧ (onSystem 1 regs).cx.y.level ≠ 2 ∧ (onSystem 1 regs).cx.y.level ≠ 0) ∧ TrapsHere (task regs) :=
  ⟨by decide +kernel, by decide +kernel, task_traps regs⟩

/-! ## Control registers and instructions of the monitor -/

theorem meets_taskRegisters : (9 : BitVec 12).toNat ≤ 9 ∧ Fits (task regs) 30 (userRegister (task regs) 4) ∧ Fits (task regs) 3 (userRegister (task regs) 9) :=
  ⟨by decide, by unfold Fits; decide +kernel, by unfold Fits; decide +kernel⟩
theorem meets_systemRegisters : (∃ f, csrrsForm (.csrrsW 3 4 0x10C) (onSystem 2 regs) = some (3, 0x10C, f)) ∧ 0x100 ≤ (0x10C : BitVec 12).toNat ∧
    (0x10C : BitVec 12).toNat ≤ 0x10C ∧ ¬ (((0x10C : BitVec 12) = 0x10C ∧ isSystem (onSystem 2 regs).cur.core = false) ∨
      (((0x10C : BitVec 12) = 0x100 ∨ (0x10C : BitVec 12) = 0x10A ∨ (0x10C : BitVec 12) = 0x10B) ∧ (onSystem 2 regs).cx.y.level ≠ 2)) ∧
    Fits (onSystem 2 regs) 3 (systemRegister (onSystem 2 regs) 0x10C) ∧ isSystem (task regs).cur.core = false ∧ TrapsHere (task regs) :=
  ⟨⟨_, rfl⟩, by decide, by decide, by decide +kernel, by unfold Fits; decide +kernel, by decide +kernel, task_traps regs⟩
theorem meets_monitorWrites : (∃ f, csrrsForm (.csrrsS 3 4 5) (onSystem 1 regs) = some (3, 5, f)) ∧ (5 : BitVec 12).toNat ≤ 5 ∧ (5 : BitVec 12) ≠ 3 ∧
    ¬ ((3 : BitVec 5) = 30 ∧ userRegister (onSystem 1 regs) 5 < regs.slim) := ⟨⟨_, rfl⟩, by decide, by decide, by decide +kernel⟩
theorem meets_systemInstructions : systemCoreForm (.scrub 3 4) = some 3 ∧ isSystem (task regs).cur.core = false ∧ TrapsHere (task regs) ∧
    (task regs (fun c => { c with y := { c.y with level := 1 } })).cx.y.level ≠ 0 := ⟨rfl, by decide +kernel, task_traps regs, by decide +kernel⟩

theorem meets_invalidations : isSystem (onSystem 1 regs).cur.core = true ∧
    ((onSystem 1 regs).shootdown (coreDie 64) ((onSystem 1 regs).ra 5).toNat (some (((onSystem 1 regs).ra 4).toNat % 2 ^ 56))).1 = true ∧
    ((onSystem 1 regs).shootdown (coreDie 64) 7 none).1 = true ∧ Fits (onSystem 1 regs) 3 0 :=
  ⟨by decide +kernel, by decide +kernel, by decide +kernel, by unfold Fits; decide +kernel⟩
theorem meets_settled : Settled (onSystem 1 regs) 0 := by
  refine ⟨rfl, rfl, fun _ _ => rfl, fun k _ => ?_⟩
  have h : (onSystem 1 regs).core k = (onSystem 1 regs).core 64 ∨ (onSystem 1 regs).core k = Core.init k := by
    unfold onSystem State.core; simp only [SMap.get]; split <;> simp_all
  rcases h with h | h <;> rw [h]
  · refine ⟨fun l hl => absurd hl List.not_mem_nil, rfl, fun x => ?_⟩
    unfold Core.ctx; split <;> exact ⟨rfl, fun i hi => absurd hi (by simp [onSystem, State.core, SMap.get])⟩
  · refine ⟨fun l hl => absurd hl (by unfold Core.init; split <;> exact List.not_mem_nil), by unfold Core.init; split <;> rfl, fun x => ?_⟩
    unfold Core.ctx Core.init; split <;> split <;> exact ⟨rfl, fun i hi => absurd hi (by simp)⟩
theorem meets_scrub : (∀ n : Nat, n ≤ 5 → Fits (onSystem 1 regs) 3 (BitVec.ofNat 64 n)) ∧
    ((onSystem 1 regs).ra 4).toNat / 64 % 8 = 0 % 8 ∧ ((onSystem 1 regs).core 5).c0.run = .free ∧ ((onSystem 1 regs).core 5).c1.run = .free ∧
    ((onSystem 1 { regs with g := [(4, 0x40)] }).ra 4).toNat / 64 % 8 ≠ 0 % 8 ∧ (onSystem 1 regs).awakeCl (coreCluster 5) = true ∧
    ({ onSystem 1 regs with clusters := [(0, { power := .p1 })] } : State).awakeCl (coreCluster 5) = false ∧
    (let s : State := { onSystem 1 regs with cores := [(5, { c1 := { run := .stopped } }), (64, (onSystem 1 regs).core 64)] }; ¬ ((s.core 5).c0.run = .free ∧ (s.core 5).c1.run = .free)) :=
  ⟨fun _ _ h => absurd h.1 (by decide), by decide +kernel⟩

/-- A system core whose core 5 holds a stopped context, with a default context key in slot 1 of the die. -/
def saver : State := withDie { keys := [(1, { v := true, kind := 1, dflt := true, job := 0 })] }
  { onSystem 1 { regs with g := [(4, 0xFF000000100000), (5, 5)] } with
    cores := [(5, { c0 := { run := .stopped, y := { sphi := 512, trec := 0xFF000000001000 } } }), (64, (onSystem 1 { regs with g := [(4, 0xFF000000100000), (5, 5)] }).core 64)] }

theorem meets_imageRefusals : isSystem saver.cur.core = true ∧ (saver.ra 5).toNat / 64 % 8 = 0 % 8 ∧ (saver.ctxAt ⟨5, 0⟩).run = .stopped ∧
    ((saver.core 5).c0.run ≠ .free ∨ (saver.core 5).c1.run ≠ .free) ∧ saver.awakeCl (coreCluster 5) = true ∧
    ({ saver with clusters := [(0, { power := .p2, size := 24 })] } : State).awakeCl (coreCluster 5) = false ∧ (saver.ctxAt ⟨6, 0⟩).run ≠ .stopped ∧ ((onSystem 1 { regs with g := [(5, 0x1FF)] }).ra 5).toNat / 64 % 8 ≠ 0 % 8 ∧
    saver.targetOf (saver.ra 5) ((saver.ra 5).toNat / 512 % 2) = some ⟨5, 0⟩ ∧ (∃ key, (saver.die 0).ctxKey 0 (coreId 5 0) = some key) ∧
    saver.eaBad (saver.ra 4) (imgLen false 0 ((saver.ctxAt ⟨5, 0⟩).splen 0)) .wr = none ∧ ∃ u, saver.quiet ⟨5, 0⟩ = (true, u) :=
  ⟨by decide +kernel, by decide +kernel, by decide +kernel, by decide +kernel, by decide +kernel, by decide +kernel, by decide +kernel, by decide +kernel, by decide +kernel, ⟨_, rfl⟩,
    by decide +kernel, _, rfl⟩

theorem meets_keyLoad : (∀ n : Nat, n ≤ 5 → Fits saver 3 (BitVec.ofNat 64 n)) ∧ ((1024 : Nat) ≤ ((onSystem 1 { regs with g := [(5, 1024)] }).ra 5).toNat) ∧
    (let s := withDie { keys := [(1023, { v := true, job := 1 })] } (onSystem 1 { regs with g := [(5, 1023)] })
     s.ra 4 = 0 ∧ 0 < (s.ra 5).toNat ∧ (s.ra 5).toNat < 1024 ∧ s.keyInUse 0 (SMap.get {} (s.die 0).keys 1023) = false) ∧
    (saver.ra 0 = 0 ∧ saver.ra 5 = 5 ∧ saver.keyInUse 0 (SMap.get {} (saver.die 0).keys 5) = true) ∧
    (saver.ra 4 ≠ 0 ∧ (saver.ra 4).toNat % 64 = 0 ∧ saver.eaBad (saver.ra 4) 64 .rd = none ∧ (SMap.get {} (saver.die 0).keys 1).v = true) :=
  ⟨fun _ _ h => absurd h.1 (by decide), by decide +kernel⟩
theorem meets_waitForEvent : ((onSystem 1 regs id (fun c => { c with evt := 9, evtmask := 8 })).co.evt &&& (onSystem 1 regs id (fun c => { c with evt := 9, evtmask := 8 })).co.evtmask ≠ 0) ∧
    (onSystem 1 regs id (fun c => { c with evt := 1, evtmask := 8 })).co.evt &&& (onSystem 1 regs id (fun c => { c with evt := 1, evtmask := 8 })).co.evtmask = 0 := by decide +kernel
/-- A switch of job 3 out and job 4 in that context 0 of the system core of die 0 runs over dies 8 and 0. -/
def aSwitch : Switch := { job := 3, phase := .gather, dies := [8, 0], coord := 0, desc := [0xC000001000030000, 0, 0, 0, 0x101], answers := [(0, 0), (8, 0)] }
/-- Its `gsw` as it is executed again. -/
def switching (w : Switch) : State := withDie { sw := [w] } { saver with iss := { saver.iss with att := true } }
theorem meets_switch : saver.iss.att = false ∧ gswBad 0 (wordsOf 8 (saver.span (vaOf (saver.ra 4)) 64)) = true ∧ (∀ w ∈ (saver.die 0).sw, w.isOf 0 0 = false) ∧
    (∀ w ∈ [aSwitch, { aSwitch with phase := .closed, status := 5 }], (switching w).iss.att = true ∧ ((switching w).die 0).sw.find? (·.isOf 0 0) = some w ∧
      ((switching w).die 0).window.length + w.answers.length < 256) ∧
    (aSwitch.dies.length ≤ aSwitch.answers.length ∧ aSwitch.answers.filter (fun e => e.2 != 0) = []) ∧
    ([(0, 0), (8, 5)] : List (Nat × Nat)).filter (fun e => e.2 != 0) ≠ [] ∧ swIn aSwitch.desc = true ∧ swIn ([0x8000000000030000] : List Word) = false ∧
    tokenOrder 0 (dieSet (aSwitch.desc.drop 4)) = [8, 0] := by decide +kernel
/-- A descriptor at g4 that switches job 0 out of partition 0 of die 0, whose area has 400 units. -/
def switcher : State := withDie { parts := [(0, { w0 := 0x8000000000000000 })] }
  { onSystem 1 { regs with g := [(4, 0xFF000000100000)] } with
    mem := ([0x8000000000000000, 0x100000, 400, 0, 1, 0, 0, 0].flatMap (fun (w : Word) => bytesOf 8 w.toNat)).zipIdx.filterMap (fun e =>
      if e.1 = 0 then none else some (homeScratch 64 0x100000 + e.2, e.1)) }
theorem meets_switchStarts :
    let ws := wordsOf 8 (switcher.span (vaOf (switcher.ra 4)) 64)
    switcher.iss.att = false ∧ (switcher.ra 4).toNat % 64 = 0 ∧ (switcher.eaBad (switcher.ra 4) 64 .rd).isNone = true ∧ gswBad 0 ws = false ∧ dieSet (ws.drop 4) = [0] ∧
    tokenOrder 0 [0] = [0] ∧ (switcher.die 0).window.length + 1 ≤ 256 ∧ (wd ws 0).getLsbD 63 = true ∧ (wd ws 0).getLsbD 62 = false ∧ switcher.outCheck 0 0 0 ((wd ws 2).extractLsb' 0 32).toNat 1 = 0 ∧ (switcher.die 0).sw = [] := by
  decide +kernel
/-! ## Loads, stores, shapes, ports -/

/-- Pages of the core: ordinary at 0x1000, a device at 0x2000, memory behind MMIO at 0x3000, a remote window of die 8 at 0x4000, a multicast window of
communicator 2 at 0x5000, a Drift page of region 7 at 0x6000. -/
def paged (c : Core) : Core :=
  { c with tlb := [⟨0, 1, 12, .ordinary, 0, 0, 0, true, true, false, false⟩, ⟨0, 2, 12, .mmio, 0, 0, 0, true, true, false, false⟩,
                   ⟨0, 3, 12, .mmio, 0x2100000000000, 0, 0, true, true, false, false⟩, ⟨0, 4, 12, .remote, 0, 8, 9, true, true, false, false⟩,
                   ⟨0, 5, 12, .mcast, 0, 2, 0, true, true, false, false⟩, ⟨0, 6, 12, .drift, 0, 0, 7, true, true, false, false⟩] }
/-- Registers with g4 to g8 at the ends of the scratchpad and of these pages. -/
def ends : Regs := { g := [(4, 0xFF0000001FFFF8), (5, 0x1FF8), (6, 0x2FF8), (7, 0x3FF8), (8, 0x4FC0), (10, 0xFF0000001FFFC0), (11, 0x1FC0)], slim := 0xFF000000001000 }
/-- A task over these pages; the first granule of the memory is shared. -/
def mapped (r : Regs := ends) : State := withDie { sealm := [(0, 0xFFF)] } (task r id paged)

theorem meets_loads : loadForm (.ldS64 3 4 0) = some (true, 8, 3, 4, 0) ∧
    mapped.checked 4 .rd 8 true 8 [(0, effective mapped 4 0 8)] = .ok [(0, 0xFF0000001FFFF8, ⟨.scratch, homeScratch 0 0x1FFFF8, 0, 0⟩)] ∧
    mapped.checked 5 .rd 8 true 8 [(0, effective mapped 5 0 8)] = .ok [(0, 0x1FF8, ⟨.ordinary, 0xFF8, 0, 0⟩)] ∧
    mapped.checked 6 .rd 8 true 8 [(0, effective mapped 6 0 8)] = .ok [(0, 0x2FF8, ⟨.mmio, 0xFF8, 0, 0⟩)] ∧
    mapped.checked 7 .rd 8 true 8 [(0, effective mapped 7 0 8)] = .ok [(0, 0x3FF8, ⟨.mmio, 0x2100000000FF8, 0, 0⟩)] ∧
    (∀ e ∈ [(0, 0xFF0000001FFFF8, (⟨.scratch, homeScratch 0 0x1FFFF8, 0, 0⟩ : Xl)), (0, 0x1FF8, ⟨.ordinary, 0xFF8, 0, 0⟩), (0, 0x2FF8, ⟨.mmio, 0xFF8, 0, 0⟩),
        (0, 0x3FF8, ⟨.mmio, 0x2100000000FF8, 0, 0⟩)], (mapped.freshen [e]).missing 8 [e] = none) ∧
    isHostMem 0x2100000000FF8 = true ∧ isHostMem 0xFF8 = false ∧ ∀ v, Fits mapped 3 v :=
  ⟨rfl, rfl, rfl, rfl, rfl, by decide +kernel, by decide +kernel, by decide +kernel, fun _ h => absurd h.1 (by decide)⟩
theorem meets_stores : storeForm (.st64 3 4 0) = some (8, 3, 4, 0) ∧
    mapped.checked 4 .wr 8 true 8 [(0, effective mapped 4 0 8)] = .ok [(0, 0xFF0000001FFFF8, ⟨.scratch, homeScratch 0 0x1FFFF8, 0, 0⟩)] ∧
    mapped.checked 7 .wr 8 true 8 [(0, effective mapped 7 0 8)] = .ok [(0, 0x3FF8, ⟨.mmio, 0x2100000000FF8, 0, 0⟩)] ∧
    TargetsAgree mapped [(0, 0xFF0000001FFFF8, ⟨.scratch, homeScratch 0 0x1FFFF8, 0, 0⟩)] ∧ Roomy mapped ∧
    (let s := { mapped with iss := { mapped.iss with acks := 1 } }
     ∃ els, s.checked 8 .wr 8 true 8 [(0, effective mapped 8 0 8)] = .ok els ∧ TargetsAgree s els ∧ (els.map (fun e => isRemote e.2.2.loc)) = [true]) :=
  ⟨rfl, rfl, rfl, ⟨rfl, by decide +kernel⟩, by unfold Roomy; decide +kernel, _, rfl, ⟨rfl, by decide +kernel⟩, by decide +kernel⟩
/-- The same in the L slot with lanes of zeros and the base of a row at the end of the scratchpad. -/
def rowAtEnd : State := inSlot 5 (mapped { ends with g := [(4, 0xFF0000001FFF80)] })
theorem meets_vectorTransfers : (∃ f, vectorLoad (.vld 3 4 0) rowAtEnd = some (3, 4, f) ∧
      (match rowAtEnd.checked 4 .rd 4 false 4 (elements rowAtEnd 3 f) with | .ok els => (rowAtEnd.freshen els).missing 4 els == none && els.length == 32 | .error _ => false) = true) ∧
    (∃ f, vectorStore (.vscat 3 4 5 0) rowAtEnd = some (3, 4, f) ∧
      (match rowAtEnd.checked 4 .wr 4 false 4 (elements rowAtEnd 3 f) with | .ok els => els.all (fun e => !isRemote e.2.2.loc) && els.length == 32 | .error _ => false) = true) ∧ rowAtEnd.iss.resp = none :=
  ⟨⟨_, rfl, by decide +kernel⟩, ⟨_, rfl, by decide +kernel⟩, rfl⟩
theorem meets_failedAccesses :
    (let s := mapped { ends with g := [(4, 0xFF000000200000), (30, 0xFF000000000FF8), (5, 0x1001)] }
     memoryForm (.ldS8 3 4 0) s = some (.rd, 1, true, 1, 4, [(0, 0xFF000000200000)]) ∧ s.checked 4 .rd 1 true 1 [(0, 0xFF000000200000)] = .error (0x0403, 0xFF000000200000) ∧
     TrapsHere s ∧ 0x0403 / 256 ≠ 0x0F ∧ memoryForm (.st64 3 30 0) s = some (.wr, 8, true, 8, 30, [(0, 0xFF000000000FF8)]) ∧ (0xFF000000000FF8 : Word) < s.cx.r.slim ∧
     memoryForm (.st16 3 5 0) s = some (.wr, 2, true, 2, 5, [(0, 0x1001)]) ∧
     ([(0, 0x1001)] : List (Nat × Word)).find? (fun e => decide (e.2.toNat % 2 ≠ 0)) = some (0, 0x1001)) :=
  ⟨rfl, rfl, ⟨rfl, (by decide : bit (0 : Word) 1 = false)⟩, by decide, rfl, by decide +kernel, rfl, by decide +kernel⟩
theorem meets_noElements : (let s := { rowAtEnd with iss := { rowAtEnd.iss with head := 0x20000020 } }
    (∃ f, vectorLoad (.vld 3 4 0) s = some (3, 4, f) ∧ elements s 3 f = []) ∧ memoryForm (.vld 3 4 0) s = some (.rd, 4, false, 4, 4, [])) :=
  ⟨⟨_, rfl, by decide +kernel⟩, by decide +kernel⟩
theorem meets_shapeMoves : mapped.checked 10 .rd 64 false 64 [(0, effective mapped 10 0 64)] = .ok [(0, 0xFF0000001FFFC0, ⟨.scratch, homeScratch 0 0x1FFFC0, 0, 0⟩)] ∧
    mapped.checked 11 .wr 64 false 64 [(0, effective mapped 11 0 64)] = .ok [(0, 0x1FC0, ⟨.ordinary, 0xFC0, 0, 0⟩)] ∧
    (∀ e ∈ [(0, 0xFF0000001FFFC0, (⟨.scratch, homeScratch 0 0x1FFFC0, 0, 0⟩ : Xl)), (0, 0x1FC0, ⟨.ordinary, 0xFC0, 0, 0⟩)], (mapped.freshen [e]).missing 64 [e] = none) ∧
    TargetsAgree mapped [(0, 0x1FC0, ⟨.ordinary, 0xFC0, 0, 0⟩)] ∧ shapeField 0x14 = some (7, 0, 32) ∧ shapeField 0x0F = some (5, 32, 32) ∧ shapeField 0x1F = some (7, 0, 64) :=
  ⟨rfl, rfl, by decide +kernel, ⟨rfl, by decide +kernel⟩, by decide, by decide, by decide⟩
/-- `hset` of EXT0 (code 8) with 0x1_0000_0007 keeps EXT1 and takes the low 32 bits (R186). -/
theorem test_hset : ((after (.hset 2 5 8) (task { g := [(5, 0x100000007)], h := [(2, { w2 := 0x0000000900000003 })] })).cx.r.rh 2).w2 = 0x0000000900000007 := by decide +kernel
/-- `st.64` to the last doubleword of the scratchpad, little-endian. -/
theorem test_store : ((after (.st64 9 4 0) (mapped { ends with g := [(4, 0xFF0000001FFFF8), (9, 0x0102030405060708)] })).bytesAt (homeScratch 0 0x1FFFF8) 8) = [8, 7, 6, 5, 4, 3, 2, 1] := by
  decide +kernel

theorem meets_accumulatorRows : (let s := task { regs with g := [(4, 1023), (5, 1024)] }
    (0 ≤ ((s.ra 4).toNat : Int) + (0 : BitVec 12).toInt ∧ ((s.ra 4).toNat : Int) + (0 : BitVec 12).toInt < 1024 ∧ InWindow s (1023, 1)) ∧
    ¬ (0 ≤ ((s.ra 5).toNat : Int) + (0 : BitVec 12).toInt ∧ ((s.ra 5).toNat : Int) + (0 : BitVec 12).toInt < 1024) ∧ TrapsHere s) :=
  ⟨by unfold InWindow; decide +kernel, by decide +kernel, task_traps _⟩
theorem meets_ports : ((true = true) → (3 : BitVec 3).toNat ≤ 3) ∧
    (let s := task { h := [(0, { w0 := 0x200000000000000 }), (1, { w1 := 0x0B, w2 := 2 }), (2, { w7 := 0x100000000 })], ports := [(3, { bound := true, shape := { w2 := 2 } })] }
     (s.iss.lat.rh 1).malformed = false ∧ (s.iss.lat.rh 1).w0.getLsbD 57 = false ∧ (s.iss.lat.rh 2).malformed = true ∧ (s.iss.lat.rh 0).w0.getLsbD 57 = true ∧ TrapsHere s ∧
     (s.cx.r.port (portNamed false 3)).bound = true ∧ (s.cx.r.port (portNamed true 3)).bound = false) :=
  ⟨fun _ => by decide, by decide +kernel, by decide +kernel, by decide +kernel, by decide +kernel, task_traps _, by decide +kernel, by decide +kernel⟩
/-- `padv` by 2 rows of a walk of 2 ends it with no exhausted bit; by one row more it is set (R183). -/
theorem test_padv : (let s := task { ports := [(3, { bound := true, shape := { w2 := 2 } })] }
    (((after (.padv false 3 0 2) s).cx.r.port 3).pos, ((after (.padv false 3 0 2) s).cx.r.port 3).exh, ((after (.padv false 3 0 3) s).cx.r.port 3).exh)) = (2, false, true) := by decide +kernel
theorem meets_addresses : Fits (task regs) 30 (effective (task regs) 9 0 1) ∧ mapped.xlateEa mapped.xc (effective mapped 11 0 64 &&& ~~~(63 : Word)) .rd = .ok ⟨.ordinary, 0xFC0, 0, 0⟩ ∧
    mapped.poisoned (0xFC0 / 64 * 64) 64 = false ∧
    (∃ x, mapped.xlateEa mapped.xc (effective mapped 8 0 64 &&& ~~~(63 : Word)) .rd = .ok x ∧ x.rc = .remote) :=
  ⟨by unfold Fits; decide +kernel, rfl, by decide +kernel, _, rfl, rfl⟩

/-! ## Engines, counters, tables -/

/-- The nonzero bytes of words at a location, as memory holds them. -/
def cells (a : Nat) (ws : List Word) : List Host.Cell :=
  ((ws.flatMap (fun w => bytesOf 8 w.toNat)).zipIdx).filterMap (fun e => if e.1 = 0 then none else some (a + e.2, e.1))
/-- `mapped` in the X slot with shapes h0 (four f32 words of scratchpad), h1 (the same, writable), h2 (four words of the multicast window, writable), a
malformed h3, and these words in the last 128 bytes of the scratchpad, which g4 addresses. -/
def engineTask (ws : List Word) : State :=
  { mapped { g := [(4, 0xFF0000001FFF80)], h := [(0, { w0 := 0xFF000000000000, w1 := 0x0A, w2 := 4, w4 := 4 }),
      (1, { w0 := 0x1FF000000001000, w1 := 0x0A, w2 := 4, w4 := 4 }), (2, { w0 := 0x100000000005000, w1 := 0x0A, w2 := 4, w4 := 4 }), (3, { w7 := 0x100000000 })] } with
    mem := cells (homeScratch 0 0x1FFF80) ws }
/-- A copy of h0 to h1. -/
def aCard : Card := cardOf (engineTask []) .copy ((engineTask []).iss.sync.rh 0) ((engineTask []).iss.sync.rh 1) {} 0 3 0 true true false

theorem meets_cards :
    (∃ op a b c f, cardForm (.xcopy 0 1 3 0 true true false) (engineTask []) = some (op, a, b, c, f, 3, 0, true, true, false) ∧
      (engineTask []).cardBad (engineTask []).xc (cardOf (engineTask []) op a b c f 3 0 true true false) = none) ∧ (engineTask []).co.cards.length < 512 ∧
    (let s : State := { engineTask [] with cores := [(0, { (engineTask []).core 0 with cards := List.replicate 512 aCard })] }
     512 ≤ s.co.cards.length ∧ s.cardBad s.xc aCard = none) ∧
    (∃ op a b c f, cardForm (.xcopy 0 3 3 0 true true false) (engineTask []) = some (op, a, b, c, f, 3, 0, true, true, false) ∧
      (engineTask []).cardBad (engineTask []).xc (cardOf (engineTask []) op a b c f 3 0 true true false) ≠ none) ∧ TrapsHere (engineTask []) :=
  ⟨⟨_, _, _, _, _, rfl, by decide +kernel⟩, by decide +kernel, by decide +kernel, ⟨_, _, _, _, _, rfl, by decide +kernel⟩, ⟨rfl, (by decide : bit (0 : Word) 1 = false)⟩⟩
theorem meets_counters : (∃ v, counterForm (.kinc 31 4 false) (task regs) = some (31, v)) ∧ (∃ c, waitForm (.kwaitGe 0 6 false) (task regs) = some c ∧ c.1) ∧
    (∃ c, waitForm (.kwaitGe 0 4 false) (task regs) = some c ∧ ¬ c.1) ∧ ∃ c, waitForm .xsync (task regs) = some c ∧ c.1 :=
  ⟨⟨_, rfl⟩, ⟨_, rfl, by decide +kernel⟩, ⟨_, rfl, by decide +kernel⟩, _, rfl, by decide +kernel⟩
/-- `kinc` wraps (R204). -/
theorem test_kinc : (after (.kinc 31 4 false) (task { g := [(4, 5)], k := [(31, 0xFFFFFFFE)] })).cx.r.rk 31 = 3 := by decide +kernel

/-- A trigger record: k1 ≥ 0 held at once, add 5 to k7; and one with a reserved bit. -/
def trigWords : List Word := [0, 0x101, 0, 0, 0, 0, 0x500000702]
theorem meets_triggers : (match (engineTask trigWords).entryBytes ((engineTask trigWords).rs 4) 128 with
      | .ok bs => ((Pred.parse ((wordsOf 16 bs).take 8) [1, 2]).map (·.act)) == some 2 | .error _ => false) = true ∧
    (((engineTask trigWords).die 0).trigs.filter (fun t => t.owner == (0, 0) && t.fired.isNone)).length < 64 ∧ TrapsHere (engineTask [0, 0, 0, 0, 0, 0, 0x2, 1]) ∧
    (match (engineTask [0, 0, 0, 0, 0, 0, 0x2, 1]).entryBytes ((engineTask []).rs 4) 128 with
      | .ok bs => (Pred.parse ((wordsOf 16 bs).take 8) [1, 2]).isNone | .error _ => false) = true ∧
    (let s : State := { withDie { kdirty := true, trigs := [trigger] } (task regs) with fresh := 5 }
     (s.dies.map (·.1)).Pairwise (· < ·) ∧ (s.die 0).kdirty = true ∧ trigger.fired = none ∧ ∃ m, s.kset trigger.ks = some m ∧ trigger.pred.holds m = true) :=
  ⟨by decide +kernel, by decide +kernel, ⟨rfl, (by decide : bit (0 : Word) 1 = false)⟩, by decide +kernel, by decide +kernel, by decide +kernel, rfl, _, rfl,
    by decide +kernel⟩

/-- A communicator of dies 0 and 8 with a window of 64 KiB. -/
def pairComm : Comm := { words := [0x8000020000000001, 0x02000001, 0, 0, 0x10000, 0, 0, 0, 0x0800] }
/-- A task that posts an unmatched `wr` of h0 to h2 on pair 0 of that communicator. -/
def poster2 : State :=
  let s := engineTask [0, 0, 0, 0, 0, 0, 0, 0, 0x8000000200000000, 1]
  { s with dies := [(0, { s.die 0 with comms := [(2, pairComm)] })] }
theorem meets_collectives :
    (match poster2.entryBytes (poster2.rs 4) 128 with
     | .error _ => false
     | .ok bs =>
       let ws := wordsOf 16 bs
       let h := wd ws 8
       h.toNat / 2 ^ 48 % 1024 == 0 && h.toNat / 2 ^ 32 % 256 == 2 && h.toNat % 16 == 0 && ((Pred.parse (ws.take 8) [0, 1, 2]).map (·.act)) == some 0 &&
         poster2.qphBad h 0 == false && workBad ws pairComm.n == false && collShapesBad ws (poster2.iss.sync.rh 0) (poster2.iss.sync.rh 2) pairComm.n == false) = true ∧
    (poster2.iss.sync.rh 0).cardBad = false ∧ (poster2.iss.sync.rh 2).cardBad = false ∧ (poster2.iss.sync.rh 2).wr = true ∧
    ((List.range 4).all (fun n => [(poster2.iss.sync.rh 0).elemAddr n, (poster2.iss.sync.rh 0).elemAddr n + 3].all (fun a =>
      match poster2.xlate poster2.xc a.toNat .rd with | .ok x => x.rc == .scratch | .error _ => false)) = true ∧ (poster2.iss.sync.rh 0).count = 4) ∧ (poster2.iss.sync.rh 2).footprint = some (0x5000, 0x500F) ∧
    (∀ a : Int, 0x5000 ≤ a → a ≤ 0x500F → ∃ x, poster2.xlate poster2.xc a.toNat .wr = .ok x ∧ x.rc = .mcast ∧ x.aux = 2 ∧
      x.loc + (min 0x500F (a - a % 4096 + 4095) - a).toNat < pairComm.size) ∧
    (SMap.get {} (poster2.comm 0 2).qps 0).entries.length < 64 :=
  ⟨by decide +kernel, by decide +kernel, by decide +kernel, by decide +kernel, by decide +kernel, by decide +kernel,
    fun a h1 h2 => by interval_cases a <;> exact ⟨_, rfl, rfl, rfl, by decide +kernel⟩, by decide +kernel⟩
theorem meets_abort : (let s : State := { poster2 with iss := { poster2.iss with sync := { g := [(4, 0x8000000200000000)] } } }
    (4 : BitVec 5) ≠ 0 ∧ s.qphBad (s.rs 4) 0 = false ∧ (s.rs 4).toNat / 2 ^ 48 % 1024 = 0) := by decide +kernel

/-- A program with table 0: exact, four entries at most, key of one byte, 16 registers; counters 0 to 15 in stage 0 with a threshold of 2 on the first 4. -/
def aProgram : Program :=
  { job := 0, states := [], tables := [(0, { desc := [0x0000000300000008, 0x0000001000000000] })], carr := [0x0000000000001001], cnt := [],
    slots := [[0x0000000000000041, 0x0000000300000002, 0, 0]], rings := [], counts := [] }
/-- An image that the table takes: V, a key of one byte, no primitives. -/
def tableTask (ws : List Word) : State :=
  let s := engineTask ws
  { s with dies := [(0, { s.die 0 with progs := [aProgram] })] }
theorem inTurn_table (ws : List Word) : InTurn (tableTask ws) := by
  intro p h
  refine ⟨fun u hu => ?_, by simp [tableTask, withDie, task, engineTask, mapped, State.die, SMap.get, coreDie, Die.overtaken]⟩
  simp [tableTask, withDie, task, engineTask, mapped, State.die, SMap.get, coreDie, Die.progOf, State.cx, State.ctxAt, State.core, Core.ctx, aProgram] at h
  simp [← h] at hu
theorem meets_tables : (match (tableTask [0x8000000000000000, 0x11]).tableImage 4 0 with | .ok (_, tab, _) => tab.entries.length < tab.cap | .error _ => false) = true ∧
    InTurn (tableTask [0x8000000000000000, 0x11]) ∧ (tableTask [0x8000000000000000, 0x11]).asleep (tableClusters (tableTask [0x8000000000000000, 0x11])) = false ∧
    (let s : State := { tableTask [0x8000000000000000, 0x11] with clusters := [(0, { power := .p1 })] }; s.asleep (tableClusters s) = true) ∧
    ¬ InTurn (let s := tableTask [0x8000000000000000, 0x11]; { s with dies := [(0, { s.die 0 with progs := [{ aProgram with touched := some (0, 9) }] })] }) := by
  exact ⟨by decide +kernel, inTurn_table _, by decide +kernel, by decide +kernel, fun h => absurd ((h _ rfl).1 _ rfl (by decide +kernel)) (by decide +kernel)⟩
theorem meets_tableRegisters : (∃ f, registerForm (.mtregAdd 3 4 0 false) = some (3, 4, 0, false, false, f)) ∧ (∃ f, registerForm (.mtregAdd 3 4 0 true) = some (3, 4, 0, true, true, f)) ∧
    (match (tableTask [15, 1]).tableReq 4 0 32 32 with | .ok (_, tab, p) => tab.nreg == 16 && carrV (p.arr 0) && carrN (p.arr 0) == 16 | .error _ => false) = true ∧
    wordOf ((tableTask [15, 1]).bytesAt (homeScratch 0 0x1FFF80) 8) = 15 ∧ InTurn (tableTask [15, 1]) ∧ (tableTask [15, 1]).asleep (tableClusters (tableTask [15, 1])) = false ∧ (tableTask [16, 1]).asleep (tableClusters (tableTask [16, 1])) = false ∧ TrapsHere (tableTask [16, 1]) ∧ InTurn (tableTask [16, 1]) ∧ wordOf ((tableTask [16, 1]).bytesAt (homeScratch 0 0x1FFF80) 8) = 16 :=
  ⟨⟨_, rfl⟩, ⟨_, rfl⟩, by decide +kernel, by decide +kernel, inTurn_table _, by decide +kernel, by decide +kernel, ⟨rfl, (by decide : bit (0 : Word) 1 = false)⟩, inTurn_table _, by decide +kernel⟩

/-! ## Atomics, fences, phasers, Drift -/

theorem meets_atomics : atomicForm (.amoAdd 4 3 2 true false false) = some (.add, 4, 3, 0, 2, true, false, false, false) ∧
    mapped.iss.amoOld = none ∧ (mapped.rs 4).toNat % 8 = 0 ∧ mapped.amoTarget (mapped.rs 4) 8 = .ok ⟨.scratch, homeScratch 0 0x1FFFF8, 0, 0⟩ ∧
    mapped.amoTarget (mapped.rs 5) 8 = .ok ⟨.ordinary, 0xFF8, 0, 0⟩ ∧ NothingInFlight mapped 0xFF8 8 ∧ (∀ l ∈ mapped.co.dcache, l.loc / 64 ≠ 0xFF8 / 64) ∧
    Released mapped ∧ Drained mapped ∧ mapped.unacked mapped.cur.core 2 = false ∧ ∀ v, Fits mapped 3 v :=
  ⟨rfl, rfl, by decide +kernel, rfl, rfl, ⟨fun _ w h => absurd h List.not_mem_nil, fun d w h => by
    have e : (mapped.die d).station = [] := by unfold mapped withDie State.die; simp only [SMap.get]; split <;> rfl
    rw [e] at h; cases h⟩, by decide +kernel, fun _ h => absurd h List.not_mem_nil,
    ⟨fun _ h => absurd h List.not_mem_nil, fun _ h => absurd h List.not_mem_nil⟩, by decide +kernel, fun _ h => absurd h.1 (by decide)⟩
theorem meets_remoteAtomic : (let s := { mapped with iss := { mapped.iss with resp := some (.data [1, 0, 0, 0, 0, 0, 0, 0]) } }
    s.amoTarget (s.rs 8) 8 = .ok ⟨.remote, remKey 8 9 0xFC0, 8, 9⟩ ∧ s.iss.resp = some (.data [1, 0, 0, 0, 0, 0, 0, 0])) := ⟨rfl, rfl⟩
theorem meets_atomicChecks : atomicForm (.amoCas 30 3 2 2 false false false) = some (.cas, 30, 3, 2, 2, false, false, false, false) := rfl
theorem meets_atomicAcquires : (let s := { mapped with iss := { mapped.iss with amoOld := some 7 } }
    s.iss.amoOld = some 7 ∧ atomicForm (.amoAdd 4 3 2 true false true) = some (.add, 4, 3, 0, 2, true, false, false, true) ∧ Acked s 2 (fun _ => false)) :=
  ⟨rfl, rfl, fun _ h => absurd h List.not_mem_nil, fun _ h => absurd h List.not_mem_nil, fun _ h => absurd h List.not_mem_nil, fun _ h => absurd h List.not_mem_nil⟩
theorem meets_atomicFailures : TrapsHere mapped ∧ (let s := mapped { g := [(4, 0xFF000000200000), (30, 0xFF000000000FFC), (5, 0x1001)], slim := 0xFF000000001000 }
    (s.rs 30 < s.cx.r.slim) ∧ (s.rs 5).toNat % 4 ≠ 0 ∧ s.amoTarget (s.rs 4) 4 = .error (0x0403, 0xFF000000200000) ∧ 0x0403 / 256 ≠ 0x0F) :=
  ⟨⟨rfl, (by decide : bit (0 : Word) 1 = false)⟩, by decide +kernel, by decide +kernel, rfl, by decide⟩
/-- `amo.min` of −1 and 1 keeps −1, `amo.min.z` takes 1 (R220). -/
theorem test_amoMin : (let s := { mapped { g := [(4, 0xFF0000001FFFF8), (3, 1)] } with mem := cells (homeScratch 0 0x1FFFF8) [0xFFFFFFFFFFFFFFFF] }
    ((after (.amoMin 4 3 2 true false false false) s).bytesAt (homeScratch 0 0x1FFFF8) 1, (after (.amoMin 4 3 2 true true false false) s).bytesAt (homeScratch 0 0x1FFFF8) 1)) =
    ([0xFF], [1]) := by decide +kernel

/-- `mapped` in the Y slot, with g4 at the last 128 bytes of the scratchpad. -/
def vectorAtomics : State := inSlot 7 (mapped { ends with g := [(4, 0xFF0000001FFF80), (5, 0xFF0000001FFF82)] })
theorem meets_vectorAtomics : vectorAtomic (.vamoAdd 4 3 2 false false false) = some (.add, 4, 3, 2, false, false, false, false) := rfl
theorem meets_vectorAtomicLanes : Enabled vectorAtomics 31 ∧ (vectorAtomics.rs 4).toNat % 4 = 0 ∧ (vectorAtomics.rs 5).toNat % 4 ≠ 0 ∧ TrapsHere vectorAtomics ∧
    (∀ l, l < 32 → vectorAtomics.amoTarget (vectorAtomics.rs 4 + BitVec.ofNat 64 (4 * l)) 4 = .ok ⟨.scratch, homeScratch 0 (0x1FFF80 + 4 * l), 0, 0⟩) ∧
    (let s := { vectorAtomics with iss := { vectorAtomics.iss with head := 0x80000080 } }; ∀ l, l < 64 → (s.iss.mask s.iss.slot).getLsbD l = false) :=
  ⟨by unfold Enabled; decide +kernel, by decide +kernel, by decide +kernel, ⟨rfl, (by decide : bit (0 : Word) 1 = false)⟩, by
    intro l hl; have h : ∀ n : Fin 32, (match vectorAtomics.amoTarget (vectorAtomics.rs 4 + BitVec.ofNat 64 (4 * n.val)) 4 with
      | .ok x => x == ⟨.scratch, homeScratch 0 (0x1FFF80 + 4 * n.val), 0, 0⟩ | .error _ => false) = true := by decide +kernel
    specialize h ⟨l, hl⟩; revert h; split
    · rename_i x hx; intro h; simp only [beq_iff_eq] at h; simp only [hx, h]
    · simp, by decide +kernel⟩
/-- A write-back to die `d` for which core 0 awaits the answer. -/
def awaiting (d : Nat) : Replay :=
  { pkt := { op := 2, job := 0, offs := 0, steer := false, vc := 2, seq := 0, dst := d, src := 0, rkey := 9, payload := [] }, origin := (2, 0, 0) }
theorem acked_mapped (sc : Nat) (wb : Line → Bool) : Acked mapped sc wb :=
  ⟨fun _ h => absurd h List.not_mem_nil, fun _ h => absurd h List.not_mem_nil, fun _ h => absurd h List.not_mem_nil, fun _ h => absurd h List.not_mem_nil⟩
theorem meets_fences : (∀ wb : Bool, Acked mapped (4 : BitVec 3).toNat (fun _ => wb)) ∧
    (let s := withDie { window := [awaiting 8] } (task regs); Acked s 2 (fun _ => true) ∧
     ∃ r ∈ (s.die (coreDie s.cur.core)).window, r.origin.1 = 2 ∧ r.origin.2.1 = s.cur.core ∧ 3 ≤ (3 : BitVec 3).toNat) ∧
    (let s := withDie { window := [awaiting 0] } (task regs);
     ∃ r ∈ (s.die (coreDie s.cur.core)).window, r.origin.1 = 2 ∧ r.origin.2.1 = s.cur.core ∧ (2 : BitVec 3).toNat = 2 ∧ r.pkt.dst = coreDie s.cur.core) :=
  ⟨fun _ => acked_mapped _ _, ⟨⟨fun _ h => absurd h List.not_mem_nil, fun _ h => absurd h List.not_mem_nil, fun _ h => absurd h List.not_mem_nil,
    by decide +kernel⟩, by decide +kernel⟩, by decide +kernel⟩

/-- A die with a phaser in phase 0xFFFF, whose member on core 0, handle 3, has not signalled, and that handle. -/
def phased (mode : Nat) (m : BitVec 16) : State :=
  withDie { phasers := [{ obj := 1, scope := 2, job := 0, p := 0xFFFF, members := [⟨0, 3, mode, m, none⟩] }] }
    (task { g := [(9, 0x2000000000000001), (7, 0xFFFE), (4, 0x1000), (5, 64)] } id (fun c => { c with handles := [(3, 0xA000000000000001 ||| (BitVec.ofNat 64 mode <<< 58))] }))
theorem meets_handles (mode : Fin 3) : MemberOf (phased mode 0xFFFF) 3 [0, 1, 2] { obj := 1, scope := 2, job := 0, p := 0xFFFF, members := [⟨0, 3, mode, 0xFFFF, none⟩] } ⟨0, 3, mode, 0xFFFF, none⟩ := by
  unfold MemberOf; revert mode; decide +kernel
theorem meets_binds : (phased 2 0).handleBad 3 = false ∧ (phased 2 0).handleBad 4 = true ∧ ((phased 2 0).rs 4).toNat % 64 = 0 ∧ ((phased 2 0).rs 5).toNat % 64 = 0 ∧
    (phased 2 0).rs 5 ≠ 0 ∧ ((phased 2 0).rs 5).toNat ≤ 2 ^ 40 ∧ (phased 2 0).cx.r.binds.length < 16 ∧ ((phased 2 0).rs 7).toNat % 64 ≠ 0 ∧
    16 ≤ ((task { regs with binds := List.replicate 16 ⟨0, 64, 3⟩ }).cx.r.binds).length := by decide +kernel
/-- The table of a task holds a region once (R225). -/
theorem test_bind : ((after (.bind 4 5 3) (after (.bind 4 5 3) (phased 2 0))).cx.r.binds) = [⟨0x1000, 64, 3⟩] := by decide +kernel
theorem meets_registrations :
    (let s := phased 2 0xFFFF
     (SMap.get 0 s.co.handles (4 : BitVec 6).toNat).getLsbD 63 = false ∧ (s.rs 9).getLsbD 63 = false ∧ (s.rs 9).toNat / 2 ^ 58 % 4 = 0 ∧ (s.rs 9).toNat / 2 ^ 60 % 8 = 2 ∧
     (s.rs 9).toNat / 2 ^ 48 % 1024 = 0 ∧ (s.phaser ((s.rs 9).toNat % 2 ^ 48)).map (fun f => (f.job, f.scope)) = some (0, 2) ∧ inScope 2 s.cur.core 1 = true ∧ (s.rs 9).toNat / 2 ^ 60 % 8 ≤ 4 ∧
     ((s.phaser 1).map (·.members.length)) = some 1 ∧ Here s { obj := 1, scope := 2, job := 0, p := 0xFFFF, members := [⟨0, 3, 2, 0xFFFF, none⟩] } ∧
     (SMap.get 0 s.co.handles (3 : BitVec 6).toNat).getLsbD 63 = true) ∧ TrapsHere (phased 2 0xFFFF) :=
  ⟨by unfold Here; decide +kernel, ⟨rfl, (by decide : bit (0 : Word) 1 = false)⟩⟩
theorem meets_signals : (∀ wb, Acked (phased 2 0xFFFF) 2 wb) ∧
    Here (phased 2 0xFFFF) { obj := 1, scope := 2, job := 0, p := 0xFFFF, members := [⟨0, 3, 2, 0xFFFF, none⟩] } ∧ (phased 2 0xFFFF).iss.phase = none ∧
    (phased 2 0xFFFF).iss.target = none ∧ reached 0xFFFF (((phased 2 0).rs 7).setWidth 16) ∧ ¬ reached 0xFFFF (((phased 2 0).rs 0).setWidth 16) ∧ ¬ reached 0xFFFF 0 :=
  ⟨fun _ => ⟨fun _ h => absurd h List.not_mem_nil, fun _ h => absurd h List.not_mem_nil, fun _ h => absurd h List.not_mem_nil, fun _ h => absurd h List.not_mem_nil⟩,
    by unfold Here; decide +kernel, rfl, rfl, by unfold reached; decide⟩
/-- A member that signalled for target 0 before a save, at a phaser in phase 0xFFFF. -/
theorem meets_owedSignal : (let m : Member := ⟨0, 3, 2, 0, some (0, 0)⟩
    let f : Phaser := { obj := 1, scope := 2, job := 0, p := 0xFFFF, members := [m] }
    let s := withDie { phasers := [f] } (phased 2 0)
    MemberOf s 3 [2] f m ∧ Here s f ∧ m.owed = some (s.cx.t.trc.tid, 0) ∧ ¬ reached f.p 0) := by
  refine ⟨by unfold MemberOf; decide +kernel, by unfold Here; decide +kernel, by decide +kernel, by unfold reached; decide⟩
/-- A task whose handle 3, in a mode, and whose g9 name a phaser on die 8, with the answer that its request has had and how far it has come. -/
def farTask (mode sy : Nat) (r : Option Resp) (phase : Option Nat := none) (d : Die := {}) : State :=
  let s := task { g := [(9, 0x2000080000000000)] } id (fun c => { c with handles := [(3, 0xA000080000000000 ||| (BitVec.ofNat 64 mode <<< 58))] })
  withDie d { s with iss := { s.iss with sy := sy, resp := r, phase := phase } }
theorem meets_farPhasers : FarGood (farTask 0 0 none) (.preg 9 4 2) 4 ((farTask 0 0 none).rs 9) ∧ FarGood (farTask 0 0 none) (.pdrop 3) 3 (SMap.get 0 (farTask 0 0 none).co.handles 3) ∧
    FarGood (farTask 0 0 none) (.psig 3) 3 (SMap.get 0 (farTask 0 0 none).co.handles 3) ∧ FarGood (farTask 1 0 none) (.pwait 4 3) 3 (SMap.get 0 (farTask 1 0 none).co.handles 3) ∧
    FarGood (farTask 2 0 none) (.psw 3) 3 (SMap.get 0 (farTask 2 0 none).co.handles 3) ∧
    FarGood (farTask 2 0 none) (.pqueryPhase 6 3) 3 (SMap.get 0 (farTask 2 0 none).co.handles 3) :=
  ⟨⟨by decide +kernel, by decide +kernel, by dsimp only; decide +kernel⟩, ⟨by decide +kernel, by decide +kernel, by dsimp only; decide +kernel⟩,
    ⟨by decide +kernel, by decide +kernel, by dsimp only; decide +kernel⟩, ⟨by decide +kernel, by decide +kernel, by dsimp only; decide +kernel⟩,
    ⟨by decide +kernel, by decide +kernel, by dsimp only; decide +kernel⟩, ⟨by decide +kernel, by decide +kernel, by dsimp only; decide +kernel⟩⟩
theorem meets_farRequests : (∀ i ∈ [Instr.preg 9 4 2, .pdrop 3, .psig 3, .pwait 4 3, .psw 3, .pqueryPhase 6 3], (farAsks i (farTask 2 0 none)).isSome = true) ∧
    ((farTask 2 0 none).die 0).window.length < 256 ∧ (farTask 2 0 none).iss.resp = none ∧ (farTask 2 0 none).iss.sy = 0 ∧ (farTask 2 0 none).iss.phase = none :=
  ⟨by decide +kernel, by decide +kernel, rfl, rfl, rfl⟩
theorem meets_farRequestsHeld : 256 ≤ ((farTask 2 0 none none { window := List.replicate 256 (awaiting 8) }).die 0).window.length := by decide +kernel
theorem meets_farAnswers : (farTask 2 1 (some (.sync 0 0))).iss.resp = some (.sync 0 0) ∧ (farTask 2 1 (some (.sync 0 0x10000))).iss.sy = 1 ∧
    (0 : Word).extractLsb' 16 16 = (0 : Word).extractLsb' 0 16 ∧ (0x10000 : Word).extractLsb' 16 16 ≠ (0x10000 : Word).extractLsb' 0 16 ∧
    (farTask 2 2 (some (.sync 0 0))).iss.sy = 2 ∧ (farTask 2 3 (some (.sync 0 0)) (some 0x80000000000)).iss.phase = some 0x80000000000 ∧
    (farTask 2 1 none).unacked 0 2 = false ∧ TrapsHere (farTask 0 1 (some (.sync 1 0))) :=
  ⟨rfl, rfl, by decide +kernel, by decide +kernel, rfl, rfl, by decide +kernel, ⟨rfl, (by decide : bit (0 : Word) 1 = false)⟩⟩
theorem meets_farReleases : Drained (farTask 2 1 none) ∧ (∀ l ∈ (farTask 2 1 none).co.dcache, (farTask 2 1 none).bound 3 l = true → l.dirty = 0) :=
  ⟨⟨fun _ h => absurd h List.not_mem_nil, fun _ h => absurd h List.not_mem_nil⟩, fun _ h => absurd h List.not_mem_nil⟩
/-- The same with the context attached at the phaser for target 0, which has been met or not. -/
theorem meets_attached : ∀ b : Bool, (let s := phased 2 0
    let f : Phaser := { obj := 1, scope := 2, job := 0, p := 0, waits := [{ core := 0, ctx := 0, target := 0, met := b }] }
    let u : State := withDie { phasers := [f] } { s with iss := { s.iss with phase := some 1 } }
    u.iss.phase = some 1 ∧ u.phaser 1 = some f ∧ ((∃ w ∈ f.waits, w.core = u.cur.core ∧ w.ctx = u.cur.ctx ∧ w.met = true) ↔ b = true)) := by decide +kernel
/-- The phase that wraps: the only signalling member signals 0xFFFF and the phase becomes 0 (R227, the worked example of R231). -/
theorem test_psig : (((after (.psig 3) (phased 0 0xFFFF)).phaser 1).map (·.p)) = some 0 := by decide +kernel
theorem meets_queries : (∀ v, Fits (phased 2 0xFFFF) 6 v) ∧ (SMap.get 0 (phased 2 0).co.handles (4 : BitVec 6).toNat).getLsbD 63 = false ∧ TrapsHere (phased 2 0) :=
  ⟨fun _ h => absurd h.1 (by decide), by decide +kernel, ⟨rfl, (by decide : bit (0 : Word) 1 = false)⟩⟩

theorem meets_addressWaits : (∀ w ∈ mapped.watches, ¬ (w.core = mapped.cur.core ∧ w.ctx = mapped.cur.ctx)) ∧ (mapped.rs 4).toNat % 8 = 0 ∧
    (mapped.xlElem .rd 8 (mapped.rs 4)).toOption = some ⟨.scratch, homeScratch 0 0x1FFFF8, 0, 0⟩ ∧ mapped.poisoned (homeScratch 0 0x1FFFF8) 8 = false ∧
    wordOf (mapped.bytesAt (homeScratch 0 0x1FFFF8) 8) ≠ mapped.rs 5 ∧ wordOf (mapped.bytesAt (homeScratch 0 0x1FFFF8) 8) = mapped.rs 0 ∧
    (let s : State := { mapped with watches := (List.range 64).map (fun n => { cluster := 0, core := 1 + n % 7, ctx := 0, addr := 0, val := 0 }) }
     64 ≤ (s.watches.filter (fun w => w.cluster == coreCluster s.cur.core)).length) ∧ ∀ v, Fits mapped 3 v :=
  ⟨fun _ h => absurd h List.not_mem_nil, by decide +kernel, by decide +kernel, by decide +kernel, by decide +kernel, by decide +kernel, by decide +kernel, fun _ h => absurd h.1 (by decide)⟩
theorem meets_watched : ∀ b : Bool, (let s : State := { mapped with watches := [{ cluster := 0, core := 0, ctx := 0, addr := 0, val := 0, fired := b }] }
    s.watches.find? (fun w => w.core == s.cur.core && w.ctx == s.cur.ctx) = some { cluster := 0, core := 0, ctx := 0, addr := 0, val := 0, fired := b }) := by decide +kernel

/-- `mapped` with g8 at the Drift page and g6 at a mode that names the tag. -/
def drifter : State := mapped { g := [(8, 0x6000), (6, 1)] }
theorem meets_drift : driftForm (.tdep 8 4 6 1) = some (2, false, 8, 4, 6, 1) ∧ driftForm (.ttakePark 8 4 6 4) = some (1, true, 8, 4, 6, 4) ∧ drifter.iss.resp = none ∧
    drifter.iss.sent = false ∧ (∀ a : Fin 3, (drifter.xlateEa drifter.xc (drifter.rs 8) (if a.val = 0 then .rd else if a.val = 1 then .at else .wr)).toOption =
      some ⟨.drift, 0, 0, 7⟩) ∧ (drifter.rs 6).toNat % 4 = 1 ∧ Released drifter ∧ Drained drifter ∧
    drifter.unacked drifter.cur.core 1 = false ∧ (drifter.die (coreDie drifter.cur.core)).window.length < 256 ∧ (∀ sc, Acked drifter sc (fun _ => false)) ∧
    (let s := { drifter with iss := { drifter.iss with sent := true, resp := some (.driftFault 6) } }; TrapsHere s ∧ (6 : Nat) < 256) ∧ TrapsHere drifter ∧ ∀ v, Fits drifter 6 v :=
  ⟨rfl, rfl, rfl, rfl, by decide +kernel, by decide +kernel, fun _ h => absurd h List.not_mem_nil,
    ⟨fun _ h => absurd h List.not_mem_nil, fun _ h => absurd h List.not_mem_nil⟩, by decide +kernel, by decide +kernel,
    fun _ => ⟨fun _ h => absurd h List.not_mem_nil, fun _ h => absurd h List.not_mem_nil, fun _ h => absurd h List.not_mem_nil, fun _ h => absurd h List.not_mem_nil⟩,
    ⟨⟨rfl, (by decide : bit (0 : Word) 1 = false)⟩, by decide⟩, ⟨rfl, (by decide : bit (0 : Word) 1 = false)⟩,
    fun _ h => absurd h.1 (by decide)⟩
/-- A copy's answer with status 0 puts the tuple in its row and the status in its register (R234). -/
theorem test_driftAnswer : (let s := { drifter with iss := { drifter.iss with sent := true, resp := some (.drift 0 [0x0000000200000001]) } }
    let t := after (.tcopy 8 4 6 1) s; (t.cx.r.rg 6, SMap.get 0 t.co.vfile 256, SMap.get 0 t.co.vfile 257)) = (0, 1, 2) := by decide +kernel

/-! ## The dispatcher -/

theorem some_of {α : Type} {o : Option α} {p : α → Bool} (h : o.any p = true) : ∃ a, o = some a ∧ p a = true := by
  cases o with
  | none => simp at h
  | some a => exact ⟨a, rfl, by simpa using h⟩

/-- Die 0 with a queue of four packets whose last is in front, holding these words; one partition of cluster 0 with job 0 and the flow above. -/
def launcher (ws : List Word) (q : UserQ := { base := 0x1000, size := 4, widx := 4, ridx := 3, status := 1 }) : State :=
  { cores := [(64, paged (Core.init 64))], mem := cells 0xC0 ws,
    dies := [(0, { sealm := [(0, 0xFFF)], users := [(3, q)], parts := [(0, { w0 := 0x8000000000000000, w1 := 0xFF })], flows := [oneFlow],
                   subqs := [{ job := 0, flow := 0, stg := 0, cl := 0, cap := 1 }] })] }
def launchWords : List Word := [1, 0, 0, 0, 0, 0, 0, 0]
theorem packetReady (ws : List Word) (h : ws.length = 8) (h1 : packetBad ((launcher ws).die 0) 0 ws = false) (h2 : (wd ws 0).getLsbD 9 = false)
    (h3 : ((launcher ws).unitXl ((queueOf (launcher ws) 0 3).xc 0) 0x10C0 .rd).any
      (fun x => x.rc != .remote && ws == wordsOf 8 ((launcher ws).dieBytes 0 x.loc 64)) = true) : PacketReady (launcher ws) 0 3 ws := by
  obtain ⟨x, hx, hb⟩ := some_of h3
  rw [Bool.and_eq_true, bne_iff_ne, beq_iff_eq] at hb
  exact ⟨(by decide : (1 : Word) &&& 0xE = 0), (by decide : (3 : Word) < 4), rfl, h, fun _ hl => absurd hl List.not_mem_nil,
    .inr ⟨rfl, rfl, rfl, x, hx, hb⟩, h1, fun _ _ hl => absurd hl List.not_mem_nil, h2⟩
theorem meets_queueWrites : ((launcher []).die 0).users.has 3 = true ∧ (4 : Word) ≤ (queueOf (launcher []) 0 3).widx ∧
    ((queueOf (launcher []) 0 3).widx < 7 ∧ (7 : Word).toNat ≤ (queueOf (launcher []) 0 3).ridx.toNat + (queueOf (launcher []) 0 3).size.toNat) ∧
    (queueOf (launcher []) 0 3).ridx.toNat + (queueOf (launcher []) 0 3).size.toNat < (8 : Word).toNat := by decide +kernel
theorem meets_haltClears : (let u : UserQ := { size := 4, ridx := 3, widx := 8, status := 6 }
    ((launcher [] u).die 0).users.has 3 = true ∧ u.status &&& 8 &&& 0xE = 0 ∧ u.status &&& 2 &&& 0xE ≠ 0 ∧ u.status &&& 0xE &&& ~~~(2 : Word) ≠ 0 ∧ u.status &&& 0xE &&& ~~~(6 : Word) = 0 ∧
      u.ridx.toNat + u.size.toNat < u.widx.toNat) := by decide +kernel
theorem meets_packets : PacketReady (launcher launchWords) 0 3 launchWords ∧ PacketReady (launcher [2]) 0 3 [2, 0, 0, 0, 0, 0, 0, 0] ∧
    (launcher launchWords).unitXl ((queueOf (launcher launchWords) 0 3).xc 0) (frontVa (queueOf (launcher launchWords) 0 3)) .wr = some ⟨.ordinary, 0xC0, 0, 0⟩ ∧ ((launcher launchWords).die 0).actionsDue = false ∧
    StationClear (launcher launchWords) 0 0xC0 1 ∧ bits (wd launchWords 0) 7 0 = 1 ∧
    ((launcher launchWords).die 0).clOf 0 = [0] ∧ (((launcher launchWords).die 0).subq 0 0 0 0).recs.length + pktTotal launchWords ≤ (((launcher launchWords).die 0).subq 0 0 0 0).size ∧
    ((launcher launchWords).die 0).spilled 0 0 0 0 = false := by
  refine ⟨packetReady launchWords rfl (by decide +kernel) (by decide +kernel) (by decide +kernel), ?_, by decide +kernel, by decide +kernel,
    fun _ hw => absurd hw List.not_mem_nil, by decide +kernel⟩
  exact packetReady [2, 0, 0, 0, 0, 0, 0, 0] rfl (by decide +kernel) (by decide +kernel) (by decide +kernel)
def ended (a : Word) : LivePkt := { idx := 2, pkt := [1, 0, 0, 0, a, 7, 0, 0], tasks := 1, consumed := true, done := 1 }
/-- A queue whose packet stands read already, behind one that waits for its tasks (R31). -/
theorem meets_readPackets : (let s := launcher [] { base := 0x1000, size := 4, widx := 4, ridx := 3, status := 1, live := [ended 0],
                                                                  got := some (launchWords.flatMap (fun w => bytesOf 8 w.toNat)) }
    ∃ bs, (queueOf s 0 3).got = some bs ∧ launchWords = wordsOf 8 bs ∧ ∀ l ∈ (queueOf s 0 3).live, l.idx = 3 → l.consumed = true) :=
  ⟨_, rfl, by decide +kernel, by decide +kernel⟩
theorem meets_completions (a : Word) : (queueOf (launcher [] { live := [ended a] }) 0 3).live.find? (fun l => l.idx == 2 && l.consumed && l.tasks ≤ l.done) = some (ended a) ∧
    ((launcher [] { live := [ended a] }).die 0).halted (queueOf (launcher [] { live := [ended a] }) 0 3).job = false ∧
    ({ sw := [{ job := 0, phase := .quiesced }] } : Die).halted 0 = true ∧ (wd (ended a).pkt 0).getLsbD 10 = false ∧ bits (wd (ended 0).pkt 4) 55 0 = 0 ∧ bits (wd (ended 0x1000).pkt 4) 55 0 ≠ 0 ∧
    (launcher [] { live := [ended 0x1000] }).unitXl ((queueOf (launcher [] { live := [ended 0x1000] }) 0 3).xc 0) 0x1000 .wr = some ⟨.ordinary, 0, 0, 0⟩ ∧
    StationClear (launcher [] { live := [ended 0x1000] }) 0 0 8 ∧
    (launcher [] { live := [ended 0x2000000] }).unitXl ((queueOf (launcher [] { live := [ended 0x2000000] }) 0 3).xc 0) 0x2000000 .wr = none :=
  ⟨rfl, rfl, by decide +kernel, (by decide : BitVec.getLsbD (1 : Word) 10 = false), by decide +kernel, by decide +kernel, by decide +kernel, fun _ hw => absurd hw List.not_mem_nil, by decide +kernel⟩
/-- The launch of one task writes its record and takes the packet (R31). -/
theorem test_launch : (let t := after (.launch 0 3) (launcher launchWords); (((t.die 0).subq 0 0 0 0).recs.length, t.byte 0xC0, (queueOf t 0 3).ridx)) = (1, 0, 4) := by decide +kernel

/-- Die 0 whose sub-queue of cluster `cl` holds one record, at cycle `n`. -/
def queued (cl starve : Nat) (n : Word := 0) : State :=
  { cores := [(0, {}), (64, Core.init 64)], cycle := n,
    dies := [(0, { parts := [(0, { w0 := 0x8000000000000000, w1 := 0xFFFFFFFFFFFFFFFF })],
                   flows := [{ oneFlow with stages := [{ acn := 1, acb := 0, sprio := 2, stk := 4, acz := false, vb := false, entry := 0x2000, cap := 1, starve := starve }] }],
                   subqs := [{ job := 0, flow := 0, stg := 0, cl := cl, cap := 1, recs := [{ inl := [1, 2, 3, 4] }] }] })] }
theorem meets_grants : (queued 0 0).servedLater ⟨0, 0⟩ = false ∧ (queued 0 0).servedLater ⟨0, 1⟩ = true ∧ (queued 0 0).grantable ⟨0, 1⟩ = some (0, 0) ∧ (queued 0 0).grantable ⟨0, 0⟩ = some (0, 0) ∧
    Grantable (queued 0 0) 0 { job := 0, flow := 0, stg := 0, cl := 0, cap := 1, recs := [{ inl := [1, 2, 3, 4] }] } { inl := [1, 2, 3, 4] } []
      { acn := 1, acb := 0, sprio := 2, stk := 4, acz := false, vb := false, entry := 0x2000, cap := 1, starve := 0 } ∧
    (queued 0 0).forced 0 0 0 = none ∧ (queued 0 0).candidate 0 0 0 0 = some { job := 0, flow := 0, stg := 0, cl := 0, cap := 1, recs := [{ inl := [1, 2, 3, 4] }] } ∧
    (queued 0 768).forced 0 0 0 = some { job := 0, flow := 0, stg := 0, cl := 0, cap := 1, recs := [{ inl := [1, 2, 3, 4] }] } ∧ (task {}).freeFor ⟨0, 0⟩ = none ∧
    (let s : State := { queued 0 0 with clusters := [(0, { power := .p1 })] }; s.freeFor ⟨0, 0⟩ = some (0, 0) ∧ s.awakeCl (coreCluster 0) = false ∧ s.pickFor ⟨0, 0⟩ 0 ≠ none) ∧
    ({ queued 0 0 with cores := [(0, { tenant := some 0 }), (64, Core.init 64)] } : State).grantable ⟨0, 0⟩ = some (0, 0) ∧
    ({ queued 0 0 with cores := [(0, { tenant := some 1 }), (64, Core.init 64)] } : State).grantable ⟨0, 0⟩ = none :=
  ⟨by decide +kernel, by decide +kernel, by decide +kernel, by decide +kernel, by unfold Grantable; decide +kernel, by decide +kernel⟩
theorem meets_steals : (let q : SubQ := { job := 0, flow := 0, stg := 0, cl := 7, cap := 1, recs := [{ inl := [1, 2, 3, 4] }] }
    (queued 7 0 3600).forced 0 0 0 = none ∧ (queued 7 0 3600).candidate 0 0 0 0 = none ∧ (∀ j, 1 ≤ j → j < 7 → (queued 7 0 3600).candidate 0 0 0 ((0 + j) % 8) = none) ∧
    (queued 7 0 3600).candidate 0 0 0 ((0 + 7) % 8) = some q ∧ (queued 7 0 3600).servedLater ⟨0, 0⟩ = false ∧ 3600 ≤ ((queued 7 0 3600).cycle - ((queued 7 0 3600).core 0).idleSince).toNat ∧
    ((queued 7 0 3599).cycle - ((queued 7 0 3599).core 0).idleSince).toNat < 3600) := by
  refine ⟨by decide +kernel, by decide +kernel, fun j h1 h2 => ?_, by decide +kernel⟩
  have h : ∀ n : Fin 7, 1 ≤ n.val → (queued 7 0 3600).candidate 0 0 0 ((0 + n.val) % 8) = none := by decide +kernel
  exact h ⟨j, h2⟩ h1
theorem meets_launchSequence : (let s := after (.dispatchGrant 0 0) (queued 0 0); (s.ctxAt ⟨0, 0⟩).run = .granted ∧ (s.die 0).halted 0 = false ∧ (s.core 0).keyed = none ∧ ({ keyed := some 0 } : Core).keyed = some 0 ∧
    (s.ctxAt ⟨0, 0⟩).t.trc.resume = none ∧ ((s.die 0).stageOf 0 0 0).isSome = true ∧ (s.ctxAt ⟨0, 0⟩).t.trc.inl.length = 4) := by decide +kernel
/-- The launched task runs at its entry with its stack pointer below four words of INL (R17, R39). -/
theorem test_launchSequence : (let s := after (.launchSequence 0 0) (after (.dispatchGrant 0 0) (queued 0 0))
    ((s.ctxAt ⟨0, 0⟩).run, (s.ctxAt ⟨0, 0⟩).r.pc, (s.ctxAt ⟨0, 0⟩).r.rg 30, s.byte (homeScratch 0 (0x200000 - 8)))) = (.running, 0x2000, 0xFF0000001FFFE0, 4) := by
  decide +kernel

/-- A full sub-queue whose one running task is blocked posting to it, with a pool of `pool` chunks. -/
def blocked (pool : Nat) : State :=
  { cores := [(0, { c0 := { run := .running, held := some { blocked := some (0, 0) } } })],
    dies := [(0, { parts := [(0, { w0 := 0x8000000000000000, w1 := 0xFF, pool := pool })], flows := [oneFlow],
                   subqs := [{ job := 0, flow := 0, stg := 0, cl := 0, cap := 1, recs := [{}] }] })] }
theorem meets_growth : ∀ n ∈ [0, 1], ((blocked n).die 0).flows = [oneFlow] ∧ ((blocked n).die 0).halted 0 = false ∧
    (blocked n).growPick 0 0 0 = some { job := 0, flow := 0, stg := 0, cl := 0, cap := 1, recs := [{}] } ∧ ((blocked n).die 0).pool 0 = n := by decide +kernel
/-- A running task of FPRIO 1 that may be pre-empted, and a record of a flow of FPRIO 3 that waits; a save area with its last slot free. -/
def crowded : State :=
  { cores := [(0, { c0 := { run := .running, t := { pre := true, fprio := 1, acn := 16, trc := { inl := [1, 2, 3, 4] } }, y := { sphi := 512 } } })],
    dies := [(0, { parts := [(0, { w0 := 0x8000000000000000, w1 := 1, save := 0x8000000000000000, used := List.range 127 })],
                   flows := [oneFlow, { oneFlow with flow := 1, fprio := 3, stages := [{ acn := 16, acb := 0, sprio := 2, stk := 4, acz := true, vb := false, entry := 0x2000, cap := 1 }] }],
                   subqs := [{ job := 0, flow := 1, stg := 0, cl := 0, cap := 1, recs := [{}] }], keys := [(1, { v := true, kind := 1, dflt := true, job := 0 })] })] }
theorem meets_preemption :
    crowded.waitingPrio 0 { w0 := 0x8000000000000000, w1 := 1, save := 0x8000000000000000, used := List.range 127 } 0 = some 3 ∧
    crowded.victim 0 { w0 := 0x8000000000000000, w1 := 1, save := 0x8000000000000000, used := List.range 127 } 0 3 = some ⟨0, 0⟩ ∧ crowded.savable ⟨0, 0⟩ = true ∧
    127 ∉ List.range 127 ∧ (∀ n, n < 127 → n ∈ List.range 127) ∧ ((crowded.die 0).ctxKey 0 (coreId 0 0)).isSome = true ∧
    (match (crowded.pushHeld ⟨0, 0⟩).quiet ⟨0, 0⟩ with
     | (true, s₁) => (s₁.ctxAt ⟨0, 0⟩).bfaults == [] && (s₁.detach ⟨0, 0⟩ true false).any (fun s₂ =>
         ((s₂.withdrawAll ⟨0, 0⟩).saveImage ⟨0, 0⟩ ((s₂.withdrawAll ⟨0, 0⟩).saveRecord ⟨0, 0⟩ false)).any (fun e => (e.1.ctxAt ⟨0, 0⟩).bfaults == []))
     | _ => false) = true :=
  ⟨by decide +kernel, by decide +kernel, by decide +kernel, by decide, fun n h => List.mem_range.mpr h, by decide +kernel, by decide +kernel⟩
theorem meets_coreBits : (let p : Part := { w0 := 0, w1 := 0xFF, w3 := 0 }
    let d : Die := { parts := [(0, p)] }
    ({ p with w1 := p.w1 ||| (1#64 <<< 7) } : Part).clusters.length = p.clusters.length ∧
    ¬ (({ p with w1 := p.w1 ||| (1#64 <<< 63) } : Part).clusters.length = p.clusters.length ∨ d.queueFits p 0 ({ p with w1 := p.w1 ||| (1#64 <<< 63) } : Part).clusters.length [] = true)) := by
  decide +kernel

/-! ## Engines, triggers and collectives on their own -/

/-- `engineTask` with these cards on its core. -/
def running (cs : List Card) : State := { engineTask [] with cores := [(0, { (engineTask []).core 0 with cards := cs })] }
/-- The card at its last element, to the scratchpad and to an ordinary page. -/
def lastOf (dst : Shape) : Card := { aCard with pos := 3, dst := dst }
def toPage : Shape := { w0 := 0x100000000001000, w1 := 0x0A, w2 := 4, w4 := 4 }
theorem meets_cardRuns : ∀ dst ∈ [aCard.dst, toPage],
    (running [lastOf dst]).co.cards.find? (fun c => c.id == 0) = some (lastOf dst) ∧ ((running [lastOf dst]).core 0).cardBlocked (lastOf dst) = false ∧
    ((running [lastOf dst]).die 0).halted 0 = false ∧ (lastOf dst).failed = none ∧ (lastOf dst).waiting = none ∧ (lastOf dst).pos < (lastOf dst).total ∧
    (lastOf dst).words = [] ∧ (lastOf dst).indexed = false ∧
    (match (running [lastOf dst]).cardIndex 0 { lastOf dst with started := true } with | .ok c => c == { lastOf dst with started := true } | .error _ => false) = true ∧
    (lastOf dst).src.rmt = false ∧ (lastOf dst).dst.rmt = false ∧
    (match (running [lastOf dst]).cardSource 0 { lastOf dst with started := true } 3 with | .ok b => b.length == (lastOf dst).size | .error _ => false) = true ∧
    (match (running [lastOf dst]).engBytes 0 { lastOf dst with started := true } .wr false ((lastOf dst).dstAddr 3) (lastOf dst).size with
     | .ok ts => decide (ts.map (·.loc)).Nodup && (ts.all (fun x => !isRemote x.loc && !(running [lastOf dst]).poisoned x.loc 1)) && (ts.all (2 ^ 61 ≤ ·.loc) || ts.all (·.loc < 2 ^ 61)) | .error _ => false) = true ∧
    (∀ i, i < (lastOf dst).size → ({ lastOf dst with started := true, pos := (lastOf dst).pos + 1 } : Card).later ((((lastOf dst).dstAddr (lastOf dst).pos).toNat + i) / 4) = false) := by
  decide +kernel
theorem meets_cardHeld : (let c := { aCard with id := 1, ord := true }
    (running [aCard, c]).co.cards.find? (fun c => c.id == 1) = some c ∧ ((running [aCard, c]).core 0).cardBlocked c = true) := by decide +kernel
theorem meets_cardEnds : ∀ c ∈ [{ aCard with pos := 4 }, { aCard with pos := 4, cw := some 0xFF0000001FFFF8 }, { aCard with pos := 1, failed := some (2, 0x1000) }],
    (running [c]).co.cards.find? (fun c => c.id == 0) = some c ∧ (∀ d ∈ (running [c]).co.cards, d.id = 0 → d = c) ∧ ((running [c]).core 0).cardBlocked c = false ∧
    ((running [c]).die 0).halted 0 = false ∧ c.waiting = none ∧ c.words = [] ∧ Rising (running [c]).cores ∧ (c.failed ≠ none ∨ c.total ≤ c.pos) ∧ (running [c]).cardOutstanding 0 c = false ∧
    ((running [c]).cluster 0).buffer = [] ∧ ((running [c]).die 0).station = [] ∧ (running [c]).whereIs 0 c.job c.tid = some ⟨0, 0⟩ ∧
    (((running [c]).xlSpan (c.xc 0) .wr 8 0xFF0000001FFFF8).map (fun y => decide (2 ^ 61 ≤ y.loc))).toOption = some true := by unfold Rising; decide +kernel
/-- A copy of one word moves it (R195). -/
theorem test_copy : (let s := { running [lastOf aCard.dst] with mem := cells (homeScratch 0 8) [0x0000000700000000] }
    (after (.engineJobStart 0 0 1) s).bytesAt (homeScratch 0 0x100C) 4) = [7, 0, 0, 0] := by decide +kernel

/-- A trigger of the task of core 0 that has fired: an add of 5 to k7, or a launch. -/
def firing (act : Nat) : Trigger := { trigger with fired := some 3, pred := { act := act, add := 5, kt := 7 }, trc := { inl := [1, 2, 3, 4] } }
/-- The same of a detached set, due later. -/
def firingSet : Trigger := { firing 2 with ks := .detached 0 4, fired := some 4 }
def armed (act : Nat) : State :=
  withDie { trigs := [firingSet, trigger, firing act], flows := [oneFlow], subqs := [{ job := 0, flow := 0, stg := 0, cl := 0, cap := 1 }] } (task regs)
theorem meets_firedTriggers : ∀ act ∈ [1, 2], ActsNext (armed act) 0 [firingSet, trigger] (firing act) [] ∧
    (firing act).pred.act = act ∧ (firing act).ks = .task 0 0 0 ∧ (armed act).whereIs 0 0 0 = some ⟨0, 0⟩ ∧ (((armed act).die 0).subq 0 0 0 0).full = false ∧
    ((armed act).die 0).spilled 0 0 0 0 = false := by unfold ActsNext; decide +kernel
theorem meets_firedInSet : ActsNext (withDie { trigs := [trigger, firingSet, firingSet] } (task regs)) 0 [trigger] firingSet [firingSet] ∧ firingSet.pred.act = 2 := by
  unfold ActsNext; decide +kernel
theorem meets_noTriggers : ∀ t ∈ ((withDie { trigs := [trigger] } (task regs)).die 0).trigs, t.fired = none ∨ ((withDie { trigs := [trigger] } (task regs)).die 0).halted t.trc.job = true := by
  decide +kernel
/-- The add reaches the counter (R209). -/
theorem test_trigger : ((after (.triggerFire 0) (armed 2)).ctxAt ⟨0, 0⟩).r.rk 7 = 5 := by decide +kernel

/-- A `wr` of four words, unmatched, to rank 1 of the communicator of dies 0 and 8. -/
def entry (phase : CPhase) (pos : Nat) (ver : Nat := 1) : CEntry :=
  { no := 3, core := 0, ctx := 0, tid := 0, job := 0, asid := 0, ptroot := 0, splo := 0, sphi := 512, slim := 0, lvl := 0, ks := .task 0 0 0,
    src := { w0 := 0xFF000000000000, w1 := 0x0A, w2 := 4, w4 := 4 }, dst := { w0 := 0x100000000005000, w1 := 0x0A, w2 := 4, w4 := 4 }, pred := {}, op := 1,
    dest := 1, root := 1, sync := false, grid := false, eba := false, eb := 0, ebaddr := 0, reca := 0, ken := true, out := true, k := 5, ver := ver, held := true, phase := phase, pos := pos }
def posted (e : CEntry) (f : Comm → Comm := id) : State :=
  let s := engineTask []
  { s with dies := [(0, { s.die 0 with comms := [(2, f { pairComm with qps := [(0, { entries := [e] })] })] }), (8, { comms := [(2, pairComm)] })] }
/-- The same as matched reductions of SEQ 0 whose header every member has, and whose only block is whole. -/
def reducing (phase : CPhase) (pos : Nat) : CEntry := { entry phase pos with op := 2, seq := some 0, src := { w0 := 0xFF000000000000, w1 := 0x0A, w2 := 4, w4 := 4 } }
def allHere (c : Comm) : Comm :=
  { c with heads := [(0, 0, 0, (reducing .started 0).header, 3), (0, 0, 1, (reducing .started 0).header, 9)], maxima := [(0, 0, 0, [0]), (0, 0, 1, [0])],
           partials := [{ qp := 0, seq := 0, block := 0, from_ := [0, 1], eb := 127, pois := false, ovf := false, q := [] }] }
/-- The same with cluster 0 of die 0 asleep. -/
def dozing (e : CEntry) : State := { posted e with clusters := [(0, { power := .p1 })] }
theorem meets_entryStarts : (∀ e ∈ [entry .queued 0, { entry .queued 0 with seq := some 1 }],
      let s := posted e (fun c => { c with dead := [(0, 0, 6)], heads := [(0, 1, 1, e.header, 9)] })
      (entriesAt s 0 2 0).find? (fun e => e.phase == .queued) = some e ∧ (entriesAt s 0 2 0).find? (fun x => x.no == 3) = some e ∧ (s.comm 0 2).draining = none ∧
      (s.die 0).halted 0 = false ∧ (s.comm 0 2).valid = true ∧ 1 = (s.comm 0 2).ver ∧ (s.comm 0 2).n ≠ 1 ∧ (s.comm 0 2).parked = [] ∧ e.op = 1 ∧ e.held = true ∧
      (∀ d ∈ (s.comm 0 2).dead, d.1 = 0 → e.seq ≠ some d.2.1) ∧ (s.comm 0 2).members.Nodup ∧
      ∀ h ∈ (s.comm 0 2).heads, h.1 = 0 → h.2.1 = e.tag → h.2.2.2.1 = e.header) ∧
    (posted (entry .queued 0)).asleep (entry .queued 0).cls = false ∧ (dozing (entry .queued 0)).asleep (entry .queued 0).cls = true ∧
    (entriesAt (dozing (entry .queued 0)) 0 2 0).find? (fun e => e.phase == .queued) = some (entry .queued 0) ∧ (posted (entry .queued 0 2)).asleep (entry .queued 0 2).cls = false ∧
    (entriesAt (posted (entry .queued 0 2)) 0 2 0).find? (fun e => e.phase == .queued) = some (entry .queued 0 2) ∧ 2 ≠ ((posted (entry .queued 0 2)).comm 0 2).ver ∧
    (entriesAt (posted { entry .queued 0 with held := false }) 0 2 0).find? (fun e => e.phase == .queued) = some { entry .queued 0 with held := false } := by decide +kernel
/-- A chunk begun of which one packet is left. -/
def begun : CEntry := { entry .started 4 with queue := [(8, 0, 0x5000, List.replicate 16 0)] }
theorem meets_chunks : (∀ e ∈ [entry .started 0, begun],
      (let s := posted e
       let q : QPair := { entries := [e] }
       (s.die 0).comms = [(2, s.comm 0 2)] ∧ (s.comm 0 2).qps = [(0, q)] ∧ q.entries.find? (s.chunkReady 0 2 0) = some e ∧ (∀ x ∈ q.entries, x.no = e.no → x = e) ∧
       (s.die 0).halted 0 = false ∧ (s.comm 0 2).draining = none ∧ s.roomFor 0 2 8 1 = true)) ∧
    begun.queue ≠ [] ∧ (entry .started 0).queue = [] ∧
    (match (posted (entry .started 0)).beginChunk 0 2 0 (entry .started 0) with | .ok e => e.queue.map (fun p => (p.1, p.2.1, p.2.2.2.length)) == [(8, 0, 16)] | .error _ => false) = true ∧
    (match (posted (reducing .started 0) allHere).beginChunk 0 2 0 (reducing .started 0) with | .ok e => e.queue.length == 1 | .error _ => false) = true := by decide +kernel
theorem meets_entryEnds : (∀ s ∈ [posted (entry .started 4), posted (entry .aborted 2), posted (reducing .started 4) allHere],
    ((entriesAt s 0 2 0).find? (s.locally 0 2 0)).isSome = true ∧ (s.comm 0 2).parked = [] ∧ s.whereIs 0 0 0 = some ⟨0, 0⟩ ∧
      (∀ x ∈ entriesAt s 0 2 0, x.stuck = true → x.op ≠ 2) ∧ s.asleep (entry .started 4).cls = false) ∧
    ((entriesAt (dozing (entry .started 4)) 0 2 0).find? ((dozing (entry .started 4)).locally 0 2 0)) = some (entry .started 4) ∧
    (dozing (entry .started 4)).asleep (entry .started 4).cls = true := by
  decide +kernel
/-- The outstanding counter of a locally complete entry falls by one (R296). -/
theorem test_entryEnds : ((after (.entryLocalCompletion 0 2 0) (posted (entry .started 4))).ctxAt ⟨0, 0⟩).r.rk 5 = 0xFFFFFFFF := by decide +kernel

/-- Dies 0 and 8 with a proposal of die 0 for members 0 and 8, version 2, of which die 0 still awaits these acknowledgements. -/
def proposed (owed : List Nat) : State :=
  { dies := [0, 8].map (fun d => (d, { comms := [(2, { pairComm with draining := some ([0, 8], 2), proposer := d == 0, owed := if d = 0 then owed else [] })] })) }
theorem meets_agreements : (let c := (proposed []).comm 0 2
    c.draining = some ([0, 8], 2) ∧ (c.members ++ [0, 8].filter (fun d => !c.members.contains d)) = [0, 8] ∧ [0, 8].Nodup ∧ c.proposer = true ∧ c.owed = [] ∧
    (∀ d ∈ [0, 8], (∀ r ∈ ((proposed []).die d).window, ¬ (r.origin.1 = 3 ∧ r.origin.2.1 / 16 = 2)) ∧
      ∀ q ∈ ((proposed []).comm d 2).qps, ∀ e ∈ q.2.entries, e.queue = []) ∧
    (proposed []).slotsUsed ≤ 256 ∧ ((proposed [8]).comm 0 2).owed ≠ []) := by decide +kernel
theorem meets_proposals : (let s := posted (entry .started 0)
    (s.comm 0 2).valid = true ∧ (s.comm 0 2).draining = none ∧ (s.comm 0 2).members.find? (fun d => [8, 0].contains d) = some 0 ∧ [8, 0].length ≤ 256 ∧
    (s.die 0).window.length + 1 ≤ 256 ∧ (s.comm 0 2).members.find? (fun d => [8].contains d) ≠ some 0 ∧ (s.comm 0 2).proposer = false) ∧
    (let c := (proposed [8]).comm 0 2
     c.proposer = true ∧ c.draining = some ([0, 8], c.ver + 1) ∧ c.valid = true ∧ c.members.find? (fun d => [0, 8].contains d) = some 0 ∧
     c.owed.filter (fun d => !((proposed [8]).die 0).window.any (fun r => r.origin == (6, 2, 0) && r.pkt.dst == d)) = [8]) := by decide +kernel
/-! ## The packet pipeline and the slices -/

/-- A steered write of die 1 to die 0, and the frame on subport 0 that carries it under its own tag. -/
def steered : Packet := { op := 2, job := 0, offs := 0, steer := true, vc := 2, seq := 0, dst := 0, src := 1, rkey := 0, payload := [1, 2, 3, 4] }
def linkKey : BitVec 256 := 0x77
/-- A frame with this ciphertext and a tag made from its own. -/
def frameWith (head : Word) (p : Packet) (cipher : List Byte) (tag : BitVec 128 → BitVec 128) : EthFrame :=
  { etherType := 0x88B5, head := head, counter := 0, cipher := cipher, packet := p,
    tag := tag (Config.gcmTag linkKey (linkIv 0 (4 + 0) 0) (bytesOf 8 head.toNat ++ bytesOf 8 0) cipher) }
def frameOf (head : Word) (p : Packet) (tag : BitVec 128 → BitVec 128) : EthFrame :=
  frameWith head p (Config.gcmCrypt linkKey (linkIv 0 (4 + 0) 0) p.bytes) tag
/-- Die 0 with that key on subport 0. -/
def ethState : State := withDie { etherType := 0x88B5, linkKeys := [(4, linkKey)], comms := [(2, pairComm)] } (task regs)
/-- The same, closed to job 0. -/
def closedEth : State := withDie { etherType := 0x88B5, linkKeys := [(4, linkKey)], closed := [0] } (task regs)
theorem frame_size (n : Word) (p : Packet) (h : p.bytes.length ≤ 4300) : (frameOf n p id).size ≤ 4352 := by
  have e : (frameOf n p id).cipher.length = p.bytes.length := by simp [frameOf, frameWith, Config.gcmCrypt]
  show 12 + 0 + 2 + 16 + (frameOf n p id).cipher.length + 16 + 4 ≤ 4352
  omega
theorem meets_frames : (frameOf 1 steered id).etherType = (ethState.die 0).etherType ∧ SMap.get 0 (ethState.die 0).linkKeys (4 + 0) = linkKey ∧
    (ethState.fifo 0 + (frameOf 1 steered id).cipher.length ≤ 2097152 ∧ (ethState.net.filter (fun p => p.at_ == 0 && decide (4 ≤ p.ing) && decide (p.ing < 8))).length < 512) ∧
    (frameOf 1 steered id).size ≤ 4352 ∧ 0 < (ethState.die 0).subports ∧ (ethState.die 0).subports ≤ 1 ∧ (frameOf 2 steered id).head ≠ 1 ∧ 0x800 ≠ (ethState.die 0).etherType := by
  have h : (Config.gcmCrypt linkKey (linkIv 0 (4 + 0) 0) steered.bytes).length = steered.bytes.length := by simp [Config.gcmCrypt]
  refine ⟨rfl, rfl, ⟨?_, by decide +kernel⟩, frame_size _ _ (by decide +kernel), by decide +kernel, by decide +kernel, by decide +kernel, by decide +kernel⟩
  show ethState.fifo 0 + (Config.gcmCrypt linkKey (linkIv 0 (4 + 0) 0) steered.bytes).length ≤ 2097152
  rw [h]; decide +kernel
/-- Its packet comes from outside, from a station, or from an egress queue, and is steered to the die, goes on, or is late. -/
theorem meets_framePackets : ComesOffTheWire ethState ethState steered steered ∧
    ComesOffTheWire { ethState with net := [{ steered with at_ := 1, out := 4 }] } { ethState with net := [] ++ [] } steered { steered with at_ := 1, out := 4 } ∧
    ComesOffTheWire (withDie { egress := [(steered, 0)] } (task regs)) ((withDie { egress := [(steered, 0)] } (task regs)).modDie 0 (fun d => { d with egress := [] })) steered steered ∧
    (ethState.die 0).closed = [] ∧ steered.steer = true ∧ steered.request = true ∧
    (let q : Packet := { steered with ing := 4, turned := 0 }
     FirstOf (fun q => q.out == 8) (ethState.stand 0 4 { steered with turned := 0 }) [] q [] ∧ Claims.Expected ethState 0 q) ∧
    (∀ q ∈ ethState.stand 0 4 { steered with dst := 9 }, q.out = 8 → steered.steer = false) ∧
    steered.job ∈ (closedEth.die 0).closed ∧ (closedEth.die 0).late.length < 4096 ∧ ComesOffTheWire closedEth closedEth steered steered := by
  have o : ∀ s : State, s.net = [] → (∀ d ∈ s.dies, d.2.egress = []) → ComesOffTheWire s s steered steered := fun s h1 h2 =>
    .inr (.inl ⟨by simp [h1], fun d hd => by simp [h2 d hd], rfl, rfl⟩)
  refine ⟨o _ rfl (by decide +kernel), .inl ⟨[], [], by unfold FirstOf; decide +kernel, rfl⟩,
    .inr (.inr ⟨by decide +kernel, 0, _, [], [], [], 0, [], ⟨rfl, by decide +kernel⟩, rfl, ⟨rfl, by decide +kernel⟩, rfl⟩), by decide +kernel, rfl, by decide +kernel,
    by unfold FirstOf Claims.Expected; decide +kernel, by decide +kernel, by decide +kernel, by decide +kernel, o _ rfl (by decide +kernel)⟩
theorem meets_framePlain (p : Packet) : (let f := frameOf 1 p id
    Config.gcmCrypt (linkKey) (linkIv 0 (4 + 0) f.counter.toNat) f.cipher = f.packet.bytes) := Config.gcmCrypt_gcmCrypt _ _ _
theorem meets_frameOther : (let f := frameWith 1 steered [] id
    Config.gcmCrypt (linkKey) (linkIv 0 (4 + 0) f.counter.toNat) f.cipher ≠ f.packet.bytes) := by
  intro f h
  have : ([] : List Byte) = steered.bytes := h
  exact absurd this (by decide +kernel)
theorem meets_frameTag (n : Word) : (let f := frameOf n steered id
    Config.gcmTag (linkKey) (linkIv 0 (4 + 0) f.counter.toNat) (bytesOf 8 f.head.toNat ++ bytesOf 8 f.counter.toNat) f.cipher = f.tag) := rfl
theorem meets_frameBad : (let f := frameOf 1 steered (· + 1)
    Config.gcmTag (linkKey) (linkIv 0 (4 + 0) f.counter.toNat) (bytesOf 8 f.head.toNat ++ bytesOf 8 f.counter.toNat) f.cipher ≠ f.tag) := by
  intro f h
  have : (0 : BitVec 128) = 1 := by
    have h' : f.tag = Config.gcmTag (linkKey) (linkIv 0 (4 + 0) f.counter.toNat) (bytesOf 8 f.head.toNat ++ bytesOf 8 f.counter.toNat) f.cipher + 1 := rfl
    rw [← h] at h'
    have := congrArg (· - Config.gcmTag (linkKey) (linkIv 0 (4 + 0) f.counter.toNat) (bytesOf 8 f.head.toNat ++ bytesOf 8 f.counter.toNat) f.cipher) h'
    simp [BitVec.add_comm] at this
  exact absurd this (by decide)
theorem meets_frameNoRoom (n : Nat) (h : 2097152 < n) : ¬ (ethState.fifo 0 + (frameWith 1 steered (List.replicate n 0) id).cipher.length ≤ 2097152) := by
  simp only [frameWith, List.length_replicate]; omega

/-- A packet in lane 0, of a job whose program has these parse states. -/
def inLane (pos : Nat) (d : Disp := {}) : PPkt := { pkt := steered, aseq := 0, lane := 0, pos := pos, ing := 0, disp := d }
def progWith (states : List (List Word)) : Program :=
  { job := 0, states := states, tables := [], carr := [], cnt := [], slots := [], rings := [[0x100000006 * 0 + 0x0000000100000000]], counts := [] }
def laned (g : Option Program) (p : PPkt) : State := withDie { lane0 := [p], progs := g.toList, comms := [(2, pairComm)] } { task regs with cycle := 1 }
/-- The state that goes to accept at once (R259: DEF = 0x40), and one that rejects. -/
def accepting : Program := progWith [[0x20000000000]]
def rejecting : Program := progWith [[0x20800000000]]
theorem meets_lanes : ∀ g ∈ [none, some accepting, some rejecting],
    FirstOf (fun p => p.pos != 16) (((laned g (inLane 0)).die 0).laneQ 0) [] (inLane 0) [] ∧ ((laned g (inLane 0)).die 0).stalled = false ∧
    ((laned g (inLane 0)).die 0).halted 0 = false ∧ ((laned g (inLane 0)).die 0).progOf 0 = g ∧
    (laned g (inLane 0)).laneWaits 0 0 (inLane 0) (·.pos != 16) = false ∧ (inLane 0).plain 0 = false ∧ (inLane 0).phv = [] ∧ (∀ h ∈ g.toList, (laned g (inLane 0)).asleep (h.tableCls 0) = false) := by unfold FirstOf; decide +kernel
/-- Lane 1 waits for a packet of lane 0 that entered with its own, and lane 0 for a table instruction of the cycle; a frame in transit is plain. -/
theorem meets_laneWaits : (let s := withDie { lane0 := [inLane 0], lane1 := [{ inLane 0 with lane := 1 }] } (task regs)
      FirstOf (fun p => p.pos != 16) ((s.die 0).laneQ 1) [] { inLane 0 with lane := 1 } [] ∧ s.laneWaits 0 1 { inLane 0 with lane := 1 } (·.pos != 16) = true ∧
      (s.cycle - (inLane 0).entered).toInt ≤ 0 ∧ (1 : Nat) ≠ 0 ∧ ∃ q ∈ (s.die 0).lane0, q.entered = (inLane 0).entered ∧ q.pos ≠ 16) ∧
    (laned (some { accepting with touched := some (1, 1) }) (inLane 16)).laneWaits 0 0 (inLane 16) (fun _ => true) = true ∧
    ({ inLane 16 with pkt := { steered with dst := 9 } } : PPkt).plain 0 = true ∧
    ({ inLane 16 with pkt := { steered with op := 6, out := 9 } } : PPkt).plain 0 = true ∧
    (let s : State := { laned (some { accepting with tables := [(0, { desc := [8] })] }) (inLane 0) with clusters := [(0, { power := .p2 })] }
     s.asleep (Program.tableCls { accepting with tables := [(0, { desc := [8] })] } 0) = true) := by unfold FirstOf; decide +kernel
theorem meets_parses : parseFrom rejecting.states (inLane 0).pkt.payload 32 0 0 (padTo 512 (phvMeta (inLane 0) 0)) [] = none ∧
    (parseFrom accepting.states (inLane 0).pkt.payload 32 0 0 (padTo 512 (phvMeta (inLane 0) 0)) []).isSome = true := by decide +kernel
theorem meets_dispositions : ∀ d ∈ ([{ drop := true }, {}, { targets := [(false, 3)] }, { targets := [(true, 1)] }] : List Disp),
    ((laned (some accepting) (inLane 16 d)).die 0).laneQ 0 = [inLane 16 d] ∧ ((laned (some accepting) (inLane 16 d)).die 0).stalled = false ∧
    ((laned (some accepting) (inLane 16 d)).die 0).progOf 0 = some accepting ∧ (inLane 16 d).absDone = false ∧ (inLane 16 d).tdone = 0 ∧
    ((laned (some accepting) (inLane 16 d)).die 0).window.length < 256 ∧ (laned (some accepting) (inLane 16 d)).laneWaits 0 0 (inLane 16 d) (fun _ => true) = false ∧
    (inLane 16 d).plain 0 = false ∧ (laned (some accepting) (inLane 16 d)).asleep (accepting.dispCls 0 (inLane 16 d)) = false := by decide +kernel
/-- A slot set of 64-byte slots with threshold 1, flow 0, stage 0, of the counters from 0. -/
def slotSet (thr : Word) : List Word := [0x0D, thr, 0]
def absorbing (thr : Word) : Program := { accepting with slots := [slotSet thr], carr := [0x101] }
def absorbed : PPkt := { inLane 16 { absorb := some (0, 0, 0, false) } with phv := [] }
def absorbState (thr : Word) : State :=
  withDie { lane0 := [absorbed], progs := [absorbing thr], flows := [oneFlow], subqs := [{ job := 0, flow := 0, stg := 0, cl := 0, cap := 1 }] } { task regs with cycle := 1 }
theorem meets_absorbsCrossing : ((absorbState 1).die 0).laneQ 0 = [absorbed] ∧ absorbed.disp.targets = [] ∧ absorbed.disp.punt = none ∧
    ((absorbState 1).die 0).progOf 0 = some (absorbing 1) ∧ ssV (slotSet 1) = true ∧ (0 : Nat) ≤ ssNslot (slotSet 1) ∧
    0 + (absorbed.deparse.drop (ofBytes (slice absorbed.phv 20 2))).length ≤ 2 ^ ssLog (slotSet 1) ∧
    (absorbing 1).setFor (ssCstg (slotSet 1)) (ssCbase (slotSet 1) + 0) = some (slotSet 1) ∧
    (((absorbState 1).die 0).subq 0 (ssFlow (slotSet 1)) (ssStg (slotSet 1)) (carrCl ((absorbing 1).arr (ssCstg (slotSet 1))))).full = false ∧
    ((absorbState 1).die 0).spilled 0 (ssFlow (slotSet 1)) (ssStg (slotSet 1)) (carrCl ((absorbing 1).arr (ssCstg (slotSet 1)))) = false := by
  refine ⟨?_, ?_, ?_, ?_, ?_, ?_, ?_, ?_, ?_, ?_⟩ <;> decide +kernel
/-- It waits for its cluster, and for a record that was written later in its cycle. -/
theorem meets_absorbsLater : (absorbState 1).asleep ((absorbing 1).dispCls 0 absorbed) = false ∧ ((absorbState 1).die 0).overtaken (absorbState 1).cycle 0 = false ∧
    (absorbState 1).laneWaits 0 0 absorbed (fun _ => true) = false ∧ absorbed.plain 0 = false ∧ (absorbing 1).job = 0 ∧
    ({ absorbState 1 with clusters := [(0, { power := .p2 })] } : State).asleep ((absorbing 1).dispCls 0 absorbed) = true ∧
    ((withDie { subqs := [{ job := 0, flow := 0, stg := 0, cl := 0, cap := 1, wrote := some (1, 9) }] } { task regs with cycle := 1 }).die 0).overtaken 1 0 = true := by decide +kernel
theorem meets_absorbsBelow : ((absorbState 5).die 0).laneQ 0 = [absorbed] ∧ absorbed.disp.targets = [] ∧ absorbed.disp.punt = none ∧
    ((absorbState 5).die 0).progOf 0 = some (absorbing 5) ∧ ssV (slotSet 5) = true ∧ (0 : Nat) ≤ ssNslot (slotSet 5) ∧
    0 + (absorbed.deparse.drop (ofBytes (slice absorbed.phv 20 2))).length ≤ 2 ^ ssLog (slotSet 5) ∧
    (absorbing 5).setFor (ssCstg (slotSet 5)) (ssCbase (slotSet 5) + 0) = some (slotSet 5) ∧
    (((absorbState 5).die 0).subq 0 (ssFlow (slotSet 5)) (ssStg (slotSet 5)) (carrCl ((absorbing 5).arr (ssCstg (slotSet 5))))).full = false ∧
    ((absorbState 5).die 0).spilled 0 (ssFlow (slotSet 5)) (ssStg (slotSet 5)) (carrCl ((absorbing 5).arr (ssCstg (slotSet 5)))) = false := by
  refine ⟨?_, ?_, ?_, ?_, ?_, ?_, ?_, ?_, ?_, ?_⟩ <;> decide +kernel
theorem meets_punts : (let p := { inLane 16 { punt := some 0 } with phv := padTo 512 [] }
    ((laned (some accepting) p).die 0).laneQ 0 = [p] ∧ p.phv.length = 512 ∧ p.disp.absorb = none ∧ p.disp.targets = [] ∧
    (∀ wi ∈ [(0 : Nat), 1], let w := wd (accepting.rings.getD 0 []) 0
      let s := { laned (some accepting) p with mem := cells (homeCluster 0 1) (if wi = 0 then [] else [BitVec.ofNat 64 wi]) }
      ofBytes (s.bytesAt (homeCluster 0 (bits w 63 32 + 8)) 8) ≤ ofBytes (s.bytesAt (homeCluster 0 (bits w 63 32)) 8) ∧
      (ofBytes (s.bytesAt (homeCluster 0 (bits w 63 32)) 8) - ofBytes (s.bytesAt (homeCluster 0 (bits w 63 32 + 8)) 8) < bits w 23 8 + 1 ↔ wi = 0) ∧ wi + 1 < 2 ^ 64 ∧
      s.poisoned (homeCluster 0 (bits w 63 32)) 16 = false ∧ s.asleep (accepting.dispCls 0 p) = false ∧
      ({ s with poison := [homeCluster 0 (bits w 63 32)] } : State).poisoned (homeCluster 0 (bits w 63 32)) 16 = true)) := by
  decide +kernel

/-- A request at the head of the inbox of slice 0, in a region of four tuples that holds one or is full. -/
def dreq (kind : Nat) (park : Bool) : DReq :=
  { kind := kind, park := park, rgn := 0, job := 0, tuple := [1, 2, 3, 4, 5, 6, 7, 8], mode := 1, core := 0, ctx := 0, scope := 0 }
def slice1 (r : DReq) (held parked : List DReq) (n : Nat) : Slice :=
  { inbox := [r], tuples := held.map (fun r => ⟨0, r.tuple, 0⟩) ++ (List.range n).map (fun i => ⟨0, [9, 9, 9, 9, 9, 9, 9, 9], i⟩), age := 9, parked := parked }
def sliced (sl : Slice) (v : Bool := true) : State :=
  withDie { driftR := [(0, [if v then 0x8000000000000003 else 0])], slices := [(0, sl)] } (task regs)
theorem meets_sliceRequests : (∀ k ∈ [0, 1, 2], ((sliced (slice1 (dreq k false) [] [] 0) false).die 0).noRegion (dreq k false) = true ∧
      ((sliced (slice1 (dreq k true) [] [] 0)).die 0).noRegion (dreq k true) = false ∧ SMap.get ({} : Slice) ((sliced (slice1 (dreq k true) [] [] 0)).die 0).slices 0 = slice1 (dreq k true) [] [] 0) ∧
    FirstOf (fun u => u.rgn == 0 && tupleMatch (dreq 1 false).tuple 1 u.words) (slice1 (dreq 1 false) [dreq 1 false] [] 1).tuples [] ⟨0, (dreq 1 false).tuple, 0⟩ [⟨0, [9, 9, 9, 9, 9, 9, 9, 9], 0⟩] ∧
    (∀ u ∈ (slice1 (dreq 1 true) [] [] 2).tuples, (u.rgn == 0 && tupleMatch (dreq 1 true).tuple 1 u.words) = false) ∧
    bits (wd (SMap.get [] ((sliced (slice1 (dreq 2 true) [] [] 4)).die 0).driftR 0) 0) 19 0 + 1 ≤ ((slice1 (dreq 2 true) [] [] 4).tuples.filter (fun t => t.rgn == 0)).length ∧
    FirstOf (fun q => q.rgn == 0 && q.kind != 2 && tupleMatch q.tuple q.mode (dreq 2 true).tuple) (parkOrder (slice1 (dreq 2 true) [] [dreq 1 true] 0).parked) [] (dreq 1 true) [] := by
  unfold FirstOf; decide +kernel
theorem meets_sliceWithdraws : (slice1 (dreq 1 true) [] [{ dreq 1 true with pnum := 4 }] 0).parked.find? (fun r => r.pnum.toNat == 4) = some { dreq 1 true with pnum := 4 } ∧
    ∀ r ∈ (slice1 (dreq 1 true) [] [] 0).parked, r.pnum.toNat ≠ 4 := by decide +kernel
/-- A request that reaches die 0 from core 0 of die 8, and the reply of slice 0 of die 0 to the bundle of core 0 that waits for it. -/
def askOf (k : Nat) : Packet := (dreq k true).packet 0
def saying : Packet := { driftSays { dreq 0 false with fseq := 5 } 0 0 (.drift 0 [1, 2, 3, 4, 5, 6, 7, 8]) with seq := 0 }
theorem meets_sliceArrivals : (∀ k ∈ [0, 1, 2], let s := { sliced {} with net := [askOf k] }
      OnlyOne s 0 (fun q => driftAsks q = true) [] (askOf k) [] ∧ Claims.Expected s 0 (askOf k) ∧ (s.die 0).sliceFor (driftReq (askOf k)) = 1 ∧
      (SMap.get {} (s.die 0).slices 1).inbox = [] ∧ (driftReq (askOf k)).kind = k ∧ (askOf k).rkey = 0) ∧
    (let p : Packet := { askOf 1 with rkey := 5 }
     let s := { sliced {} with net := [p] }
     OnlyOne s 0 (fun q => driftAsks q = true) [] p [] ∧ Claims.Expected s 0 p ∧ (s.die 0).sliceFor (driftReq p) = 1 ∧ p.rkey ≠ 0 ∧
     s.keyCheck 0 p.rkey p.job p.offs 64 .at = .error 3) := by
  unfold OnlyOne Claims.Come Claims.Expected; decide +kernel
theorem meets_driftReplies : (let s : State := { sliced { outbox := [(dreq 0 false, .drift 1 [])] } with cores := [(0, { c0 := { held := some { sent := true } } })] }
    (SMap.get ({} : Slice) (s.die 0).slices 0).outbox = [(dreq 0 false, .drift 1 [])] ∧ (∀ q ∈ s.net, ¬ Claims.DriftReplyTo 0 q) ∧ (s.die 0).window.length < 256) ∧
    (let s : State := { sliced {} with net := [saying], cores := [(0, { c0 := { held := some { sent := true, req := some (0, 6, 5) } } })] }
     OnlyOne s 0 (Claims.DriftReplyTo 0) [] saying [] ∧ Claims.Expected s 0 saying ∧ bits (wordOf (saying.payload.take 8)) 41 38 = 0 ∧
     bits (wordOf (saying.payload.take 8)) 34 29 = 0 ∧ bits (wordOf (saying.payload.take 8)) 28 28 = 0 ∧
     (s.ctxAt ⟨0, 0⟩).held = some { sent := true, req := some (0, 6, 5) } ∧ some (saying.src, 6, bits (wordOf (saying.payload.take 8)) 27 16) = some (0, 6, 5)) := by
  unfold OnlyOne Claims.Come Claims.Expected Claims.DriftReplyTo; decide +kernel

/-- A phaser at phase 2 of whose members one is an agent beyond the cores of the model, and one core 5 of die 8 on handle 3. -/
def farPhaser : Phaser :=
  { obj := 0, job := 0, scope := 4, p := 2, members := [{ core := 2 ^ 20, h := 0, mode := 0, m := 2 }, { core := 8 * 128 + 5, h := 3, mode := 0, m := 2 }] }
theorem meets_syncEngines : (let s := withDie { phasers := [farPhaser] } (task regs)
    s.phaser 0 = some farPhaser ∧ (0 : Nat) / 2 ^ 40 % 256 = 0 ∧ farPhaser.members.length < 65535 ∧ farPhaser.p.toNat = 2 ∧ (∀ w ∈ farPhaser.waits, w.fseq = none) ∧
    (∀ q ∈ s.net, q.op = 9 → ¬ Claims.Come 0 q) ∧
    FirstOf (fun x => x.core == 2 ^ 20 && x.mode == 0 && x.m.toNat == 2) farPhaser.members [] { core := 2 ^ 20, h := 0, mode := 0, m := 2 }
      [{ core := 8 * 128 + 5, h := 3, mode := 0, m := 2 }]) := by
  unfold FirstOf Claims.Come; decide +kernel
/-- Requests of core 5 of die 8 for that phaser: a registration on handle 4, a drop, a query, a signal, a wait that is met and one that is not. -/
def asking (op h target : Nat) : Packet :=
  { op := 9, job := 0, offs := 0, steer := false, vc := 6, seq := 0, dst := 0, src := 8, rkey := 0, at_ := 0,
    payload := bytesOf 8 (op + h * 2 ^ 10 + 5 * 2 ^ 16 + 4 * 2 ^ 24 + target * 2 ^ 27) ++ bytesOf 8 0 ++ bytesOf 8 0 }
theorem meets_syncRequests : ∀ x ∈ [(1, 4, 0), (2, 3, 0), (3, 3, 0), (4, 3, 0), (5, 3, 2), (5, 3, 3)],
    let p := asking x.1 x.2.1 x.2.2
    let s : State := { withDie { phasers := [farPhaser] } (task regs) with net := [p] }
    let w (i : Nat) : Word := wordOf (slice p.payload (8 * i) 8)
    OnlyOne s 0 (fun q => q.op = 9) [] p [] ∧ Claims.Expected s 0 p ∧ p.payload.length = 24 ∧ p.rkey = 0 ∧ (s.die 0).window.length < 256 ∧ bits (w 1) 47 0 = 0 ∧
    objDie 0 = 0 ∧ s.phaser 0 = some farPhaser ∧ bits (w 0) 7 0 = x.1 ∧ bits (w 0) 22 16 = 5 ∧ bits (w 0) 15 10 = x.2.1 ∧ bits (w 0) 42 27 = x.2.2 ∧
    farPhaser.job = p.job ∧ farPhaser.scope = bits (w 0) 26 24 ∧ inScope farPhaser.scope (8 * 128 + 5) 0 = true ∧
    (0 ≤ (farPhaser.p - BitVec.ofNat 16 2).toInt) ∧ (farPhaser.p - BitVec.ofNat 16 3).toInt < 0 ∧
    farPhaser.members.find? (fun m => m.core == 8 * 128 + 5 && m.h == 3) = some { core := 8 * 128 + 5, h := 3, mode := 0, m := 2 } := by
  unfold OnlyOne Claims.Come Claims.Expected; decide +kernel
/-- A reply of die 8 to the bundle of context 1 of core 5 of die 0. -/
def telling : Packet := syncTell 8 5 1 (8 * 2 ^ 40) 0 7 0 9
theorem meets_syncReplies : ∀ i ∈ ([{ req := some (8, 6, 7) }, { phase := some (8 * 2 ^ 40) }] : List Iss),
    let s : State := { withDie {} (task regs) with net := [telling], cores := [(5, { c1 := { held := some i } })] }
    let w (i : Nat) : Word := wordOf (slice telling.payload (8 * i) 8)
    OnlyOne s 0 (fun q => q.op = 9) [] telling [] ∧ Claims.Expected s 0 telling ∧ telling.payload.length ≠ 24 ∧ bits (w 1) 47 0 = 8 * 2 ^ 40 ∧
    bits (w 0) 26 20 = 5 ∧ bits (w 0) 27 27 = 1 ∧ (s.ctxAt ⟨5, 1⟩).held = some i ∧
    (i.req = some (telling.src, 6, bits (w 0) 19 8) ∨ (i.req = none ∧ i.phase = some (8 * 2 ^ 40) ∧ i.resp = none)) := by
  unfold OnlyOne Claims.Come Claims.Expected; decide +kernel
/-! ## Caches and walkers on their own, the fabric -/

/-- A line with all its bytes dirty, and a core that holds it. -/
def fullLine (loc : Nat) : Line := { loc := loc, tags := [(0, 0)], job := 0, bytes := List.replicate 64 7, valid := BitVec.allOnes 64, dirty := BitVec.allOnes 64 }
def withLine (loc : Nat) : State := task regs id (fun c => { c with dcache := [fullLine loc] })
def sysLine (loc : Nat) : State := onSystem 2 regs id (fun c => { c with dcache := [fullLine loc] })
theorem meets_evictions : ∀ a ∈ [0x1000, remKey 8 1 64, 0x200000001000], ((withLine a).core 0).dcache.filter (fun m => m.loc / 64 == a / 64) = [fullLine a] ∧
    ((sysLine a).core 64).dcache.filter (fun m => m.loc / 64 == a / 64) = [fullLine a] ∧ (fullLine a).loc % 64 = 0 ∧ isSystem 0 = false ∧ isSystem 64 = true ∧
    (a = 0x1000 → ∀ i, i < 64 → passesStation 0 (a + i) = false) ∧ (a ≠ 0x1000 → ∀ i, i < 64 → passesStation 0 (a + i) = true) := by decide +kernel
/-- Two writes in the buffer of cluster 0 and at the station of die 0, to these homes. -/
def buffered (a b : Nat) (w : List Replay := []) : State :=
  { withDie { station := [⟨a, [1], 0, 0, 0⟩, ⟨b, [2, 3], 0, 0, 0⟩], window := w } (task regs) with clusters := [(0, { buffer := [⟨a, [1], 0, 0, 0⟩, ⟨b, [2, 3], 0, 0, 0⟩] })] }
theorem meets_drains : ∀ b ∈ [2, remKey 8 1 64, 0x200000000000], ((buffered 1 b).cluster (0 * 8 + 0)).buffer[1]? = some ⟨b, [2, 3], 0, 0, 0⟩ ∧
    (∀ o ∈ ((buffered 1 b).cluster (0 * 8 + 0)).buffer.take 1, o.meets ⟨b, [2, 3], 0, 0, 0⟩ = false) ∧ ((buffered 1 b).die 0).station[1]? = some ⟨b, [2, 3], 0, 0, 0⟩ ∧
    (∀ o ∈ ((buffered 1 b).die 0).station.take 1, o.meets ⟨b, [2, 3], 0, 0, 0⟩ = false) ∧ passesStation 0 b = (b != 2) ∧ isRemote b = (b == remKey 8 1 64) ∧
    ((buffered 1 b).die 0).window.length < 256 ∧ ∃ o ∈ ((buffered b b).cluster (0 * 8 + 0)).buffer.take 1, o.meets ⟨b, [2, 3], 0, 0, 0⟩ = true := by decide +kernel
theorem meets_drainWaits (w : List Replay) (h : 256 ≤ w.length) : 256 ≤ ((buffered 1 (remKey 8 1 64) w).die 0).window.length := h

/-- A table at PTROOT 0 whose first entry leads to a 1 GiB page at 0; nothing stands at the second. -/
def walked : State := { task regs with mem := cells 0 [0x1003] ++ cells 0x1000 [5] }
theorem meets_walks : (walked.ctxAt ⟨0, 0⟩).run ≠ .free ∧ canonical 0x1234 = true ∧ vaOf 0x1234 < 2 ^ 55 ∧ walked.tlbHit (walked.xctxAt ⟨0, 0⟩) (vaOf 0x1234) = none ∧
    (∃ e seen, walked.pageWalk (walked.xctxAt ⟨0, 0⟩) (vaOf 0x1234) = .ok (e, seen)) ∧
    (∃ c, walked.pageWalk (walked.xctxAt ⟨0, 0⟩) (vaOf 0x8000000000) = .error c) :=
  ⟨by decide +kernel, by decide +kernel, by decide +kernel, by decide +kernel, ⟨_, _, rfl⟩, ⟨_, rfl⟩⟩

/-- Code in a mapped section at 0x1000, with this tag for its first block. -/
def codeAt (tag : BitVec 64) : Section := { va := 0x1000, size := 0x1000, heads := [], tags := [(8, tag)] }
def codeIn (tag : BitVec 64) : Segment := { job := 0, monitor := false, va := 0, size := 0x10000, splo := 0, sphi := 0, mapno := 1, segid := 0, code := [codeAt tag] }
def coded (tag : BitVec 64) (blocks : List IBlock := []) (segs : List Segment := [codeIn tag]) : State :=
  withDie { sealm := [(0, 0xFFF)], segs := segs }
    (task regs id (fun c => { c with icache := blocks, tlb := [⟨0, 1, 12, .ordinary, 0, 0, 0, true, false, true, false⟩] }))
def itsTag : BitVec 64 := blockTag 0 1 0x1000 ((coded 0).bytesAt 0 512)
theorem meets_fills : ((coded itsTag).ctxAt ⟨0, 0⟩).run = .running ∧ ((coded itsTag).ctxAt ⟨0, 0⟩).y.level ≠ 2 ∧
    (match (coded itsTag).fetchXl ⟨0, 0⟩ 0x1000 with | .ok x => x == ⟨.ordinary, 0, 0, 0⟩ | .error _ => false) = true ∧
    ((coded itsTag).sectionAt ⟨0, 0⟩ (vaOf 0x1000)).map (fun r => (r.1.mapno, r.2.va, r.2.tags.map (·.1))) = some (1, 0x1000, [8]) ∧
    ((coded itsTag).blockAt 0 ((coded itsTag).xctxAt ⟨0, 0⟩).asid (vaOf 0x1000)).isNone = true ∧
    (match (coded itsTag).fetchXl ⟨0, 0⟩ 0x3000 with | .ok _ => false | .error _ => true) = true := by decide +kernel
/-- A block that stands in the cache already, code in no section, and a cache that is full. -/
theorem meets_otherFills (n : Nat) (h : 128 ≤ n) : ((coded 0 [⟨0, 0x1000, []⟩]).blockAt 0 ((coded 0 [⟨0, 0x1000, []⟩]).xctxAt ⟨0, 0⟩).asid (vaOf 0x1000)).isSome = true ∧
    ((coded 0 [⟨0, 0x1000, []⟩]).sectionAt ⟨0, 0⟩ (vaOf 0x1000)).isSome = true ∧ ((coded 0 [] []).sectionAt ⟨0, 0⟩ (vaOf 0x1000)).isNone = true ∧
    (match (coded 0 [] []).fetchXl ⟨0, 0⟩ 0x1000 with | .ok _ => true | .error _ => false) = true ∧
    128 ≤ ((coded 0 (List.replicate n ⟨1, 0x1000, []⟩)).core 0).icache.length :=
  ⟨by decide +kernel, by decide +kernel, by decide +kernel, by decide +kernel, by rw [show ((coded 0 (List.replicate n ⟨1, 0x1000, []⟩)).core 0).icache = List.replicate n ⟨1, 0x1000, []⟩ from rfl]; simpa using h⟩
theorem meets_tagOf (tag : BitVec 64) : SMap.get 0 (codeAt tag).tags (vaOf 0x1000 / 512 * 512 / 512) = tag := by
  rw [(by decide +kernel : vaOf 0x1000 / 512 * 512 / 512 = 8)]; simp [codeAt, SMap.get]
theorem meets_goodTag : (coded itsTag).poisoned 0 512 = false ∧
    blockTag (((coded itsTag).die 0).fetchKey 0) 1 0x1000 ((coded itsTag).bytesAt 0 512) = itsTag := ⟨by decide +kernel, rfl⟩
theorem meets_badTag : itsTag ≠ itsTag + 1 := by
  intro h
  have := congrArg (· - itsTag) h
  simp at this

/-- Requests of die 1 to die 0, which names its first 4 KiB under remote key 1. -/
def request (op vc : Nat) (payload : List Byte) (rkey : Nat := 1) : Packet :=
  { op := op, job := 0, offs := 0xFC0, steer := false, vc := vc, seq := 0, dst := 0, src := 1, rkey := rkey, rlen := if op = 1 then 64 else 0, payload := payload }
def carrying (p : Packet) (d : Die := {}) : State :=
  { withDie { d with regions := [(1, [0xF000000000000000, 0, 0x1000])], comms := [(2, pairComm)] } (task regs) with net := [p] }
/-- An atomic add of 5 to a 64-bit word (R382). -/
def amoPayload : List Byte := bytesOf 8 0x101 ++ bytesOf 8 5 ++ bytesOf 8 0 ++ bytesOf 8 0
theorem meets_requests : ∀ p ∈ [request 1 0 [], request 1 0 [] 2, request 2 0 (List.replicate 64 1), request 2 0 [1] 2, request 3 0 amoPayload, request 3 0 amoPayload 2, steered, { steered with rkey := 2 }],
    Claims.Expected (carrying p) 0 p ∧ p.request = true ∧ Claims.FirstIn (carrying p) p.op 1 0 p.vc [] p [] ∧ ((carrying p).die 0).stalled = false := by
  unfold Claims.Expected Claims.FirstIn FirstOf; decide +kernel
theorem meets_keys : (∀ a ∈ [Acc.rd, .wr, .at], (carrying (request 1 0 [])).keyCheck 0 1 0 0xFC0 64 a = .ok 0xFC0 ∧
      (match (carrying (request 1 0 [])).keyCheck 0 2 0 0xFC0 64 a with | .ok _ => false | .error k => k == 3) = true) ∧
    (carrying (request 1 0 [])).poisoned 0xFC0 64 = false ∧ AmoOp.ofCode (ofBytes (slice amoPayload 0 8) % 256) = some .add := by
  refine ⟨?_, by decide +kernel, by decide +kernel⟩
  intro a h
  simp only [List.mem_cons, List.not_mem_nil, or_false] at h
  rcases h with rfl | rfl | rfl <;> exact ⟨rfl, rfl⟩
theorem meets_inFlight : NothingInFlight (carrying (request 3 0 amoPayload)) 0xFC0 8 :=
  ⟨fun _ w h => absurd h (List.not_mem_nil), fun d w h => by
    by_cases hd : d = 0
    · subst hd; exact absurd h (List.not_mem_nil)
    · have : (carrying (request 3 0 amoPayload)).die d = ({} : Die) := by
        show SMap.get ({} : Die) [(0, _)] d = {}
        simp [SMap.get, Ne.symm hd]
      rw [this] at h; exact absurd h (List.not_mem_nil)⟩
/-- A stalled pipeline: the head of lane 0 has a copy to send and the window is full. -/
theorem meets_stall (w : List Replay) (h : 256 ≤ w.length) :
    ((carrying steered { window := w, lane0 := [{ inLane 16 { targets := [(false, 3)] } with absDone := true }] }).die 0).stalled = true := by
  show (decide (w.length ≥ 256) && _) = true
  rw [decide_eq_true h]; rfl

theorem meets_turned (w : List Replay) (h : 256 ≤ w.length) : ∀ n ∈ [0, 1],
    (let p := { steered with turned := n }
     let s := carrying p { window := w, lane0 := [{ inLane 16 { targets := [(false, 3)] } with absDone := true }] }
     Claims.Expected s 0 p ∧ p.request = true ∧ Claims.FirstIn s 2 1 0 2 [] p [] ∧ p.steer = true ∧ (s.die 0).stalled = true) := by
  intro n hn
  have hs : (decide (w.length ≥ 256) && true) = true := by rw [decide_eq_true h]; rfl
  simp only [List.mem_cons, List.not_mem_nil, or_false] at hn
  rcases hn with rfl | rfl <;>
    exact ⟨⟨rfl, rfl, rfl, rfl, rfl, fun _ h => absurd h List.not_mem_nil⟩, rfl, ⟨⟨rfl, fun _ h => absurd h List.not_mem_nil, rfl⟩, rfl⟩, rfl, hs⟩
/-- A packet with a reserved bit of its opcode, or of an opcode that R383 does not assign. -/
def malformed (op : Nat) : Packet := { request op (if 0x20 ≤ op then 7 else 2) [1] 0 with src := 1, offs := 1, masks := [0], rlen := 3 }
theorem meets_malformed : ∀ op ∈ [1, 2, 3, 6, 7, 0x20, 0x21, 0x3F], (malformed op).bad = true ∧ (malformed op).request = true ∧ ((carrying (malformed op)).die 0).halted 0 = false ∧
    (malformed op).seq = SMap.get 0 ((carrying (malformed op)).die 0).seqIn ((malformed op).source * 8 + (malformed op).vc) ∧ (malformed op).steer = false ∧
    Claims.FirstIn (carrying (malformed op)) op 1 0 (malformed op).vc [] (malformed op) [] ∧ (assigned op = (op != 0x3F)) := by
  unfold Claims.FirstIn FirstOf; decide +kernel
/-- A write on a channel of no communicator of its job. -/
theorem meets_offChannel : (let p := request 2 3 [1]
    p.bad = false ∧ (carrying p).offChannel p = true ∧ p.request = true ∧ ((carrying p).die 0).closed = [] ∧ ((carrying p).die 0).deaf 0 = false ∧ ((carrying p).die 0).skipped = [] ∧
    Claims.FirstIn (carrying p) 2 1 0 3 [] p []) := by unfold Claims.FirstIn FirstOf; decide +kernel
theorem meets_refusedAtomics : (let s := { carrying (request 3 0 amoPayload) with poison := [0xFC0] }
     s.poisoned 0xFC0 8 = true ∧ s.poisoned 0xFC0 64 = true ∧ s.keyCheck 0 1 0 0xFC0 8 .at = .ok 0xFC0) := ⟨by decide +kernel, by decide +kernel, rfl⟩

/-- Communicator 2 of job 0 has dies 0 and 8; multicast and reduction packets from die 8, and from die 1, that is no member. -/
def collective (op src : Nat) (payload : List Byte) : Packet :=
  { op := op, job := 0, offs := 0, steer := false, vc := 2, seq := 0, dst := 0, src := src, rkey := 0x1002, masks := if op = 6 then [1] else [], payload := payload }
def sums (eb : Nat) : List Byte := bytesOf 8 eb ++ List.replicate 192 0
def partialOf (from_ : List Nat) : Partial := { qp := 0, seq := 0, block := 0, from_ := from_, eb := 5, pois := false, ovf := false, q := [] }
def gathering (p : Packet) (ps : List Partial) (es : List CEntry := []) (d : Die := { sealm := [(0, 0xFFF)] }) : State :=
  { withDie { d with comms := [(2, { pairComm with partials := ps, qps := [(0, { entries := es, seq := 1 })] })] } (task regs) with net := [p] }
/-- The entries of the collective of SEQ 0 on die 0: still queued, started, ended. -/
def reduction (phase : CPhase) : CEntry := { reducing phase 0 with dst := { w0 := 0x100000000005000, w1 := 0x0A, w2 := 4, w4 := 4 } }
theorem meets_collectivePackets : ∀ p ∈ [collective 6 1 [1], collective 7 1 [], collective 6 8 [1], collective 7 8 (sums 5)],
    let s := gathering p []
    Claims.Expected s 0 p ∧ p.request = true ∧ Claims.FirstIn s p.op p.src 0 2 [] p [] ∧ p.steer = false ∧
    (s.comm 0 2).valid = true ∧ (s.comm 0 2).members[1]? = some 8 ∧ 8 ∉ (s.comm 0 2).members.take 1 ∧ 1 ∉ (s.comm 0 2).members ∧
    s.sealOk 0 ((s.comm 0 2).home 0 0) = true ∧ s.sealOk 0 ((s.comm 0 2).stage 0) = true ∧
    (gathering p [] [] { sealm := [(0, 5)] }).sealOk 0 ((s.comm 0 2).home 0 0) = false ∧ (gathering p [] [] { sealm := [(0, 5)] }).sealOk 0 ((s.comm 0 2).stage 0) = false := by
  unfold Claims.Expected Claims.FirstIn FirstOf; decide +kernel
/-- A steered multicast write in the first turn and the second, and a pipeline that does not stall; one that does meets as for `WR`. -/
theorem meets_steeredMulticast : ∀ n ∈ [0, 1], (let p := { collective 6 8 [1] with steer := true, turned := n }
    Claims.Expected (gathering p []) 0 p ∧ p.request = true ∧ Claims.FirstIn (gathering p []) 6 8 0 2 [] p [] ∧ ((gathering p []).die 0).stalled = false) := by
  unfold Claims.Expected Claims.FirstIn FirstOf; decide +kernel
theorem meets_steeredStall (w : List Replay) (h : 256 ≤ w.length) :
    ((gathering { collective 6 8 [1] with steer := true } [] [] { window := w, lane0 := [{ inLane 16 { targets := [(false, 3)] } with absDone := true }] }).die 0).stalled = true := by
  show (decide (w.length ≥ 256) && _) = true
  rw [decide_eq_true h]; rfl
theorem meets_blocks : (sums 5).length = 200 ∧ ofBytes ((sums 5).take 8) % 256 = 5 ∧
    (∀ f ∈ [[0], [1]], ((gathering (collective 7 8 (sums 5)) [partialOf f]).comm 0 2).partials.find? (fun x => x.qp == 0 && x.seq == 0 && x.block == 0) = some (partialOf f)) ∧
    (partialOf [0]).eb = 5 ∧ 1 ∉ (partialOf [0]).from_ ∧ 1 ∈ (partialOf [1]).from_ ∧ (partialOf [1]).bad = false := by decide +kernel
/-- A block finds its collective not yet posted (and one long ended), queued, aborted, started. -/
theorem meets_holds : (let p := { collective 7 8 (sums 5) with rkey := 0x1002 + 2 * 2 ^ 13 }; ((gathering p []).comm 0 2).holds 0 (p.rkey / 2 ^ 13) = true) ∧
    ((gathering (collective 7 8 (sums 5)) []).comm 0 2).holds 0 0 = false ∧ ((gathering (collective 7 8 (sums 5)) [] [reduction .queued]).comm 0 2).holds 0 0 = true ∧
    (∀ f ∈ [CPhase.started, .aborted], let c := (gathering (collective 7 8 (sums 5)) [partialOf []] [reduction f]).comm 0 2
      c.holds 0 0 = false ∧ c.matched 0 0 = some (reduction f)) ∧
    (let c := (gathering (collective 7 8 (sums 5)) [] [reduction .started]).comm 0 2
     1 < c.n ∧ (∀ x ∈ c.partials, x.qp = 0 → x.seq = 0 → x.from_.length + 1 < c.n) ∧ (reduction .started).nch = 1 ∧ (reduction .started).inChunk 0 ≠ []) := by decide +kernel
/-- A communicator of three members, whose dies 0 and 8 have sent their blocks. -/
theorem meets_thirdBlock : (let c : Comm := { words := [0x8000020000000001, 0x02000002, 0, 0, 0x10000, 0, 0, 0, 0x010800], partials := [partialOf [0]], qps := [(0, { entries := [reduction .started], seq := 1 })] }
    c.n = 3 ∧ c.members[1]? = some 8 ∧ (∀ x ∈ c.partials, x.qp = 0 → x.seq = 0 → x.from_.length + 1 < c.n) ∧
    c.partials.find? (fun x => x.qp == 0 && x.seq == 0 && x.block == 0) = some (partialOf [0]) ∧ 1 ∉ (partialOf [0]).from_ ∧ c.matched 0 0 = some (reduction .started)) := by decide +kernel
theorem meets_goodBlocks (b : Nat) : ((gathering (collective 7 8 (sums 5)) [] [reduction .started]).comm 0 2).badBlock 0 (reduction .started) b = false := rfl

/-- An answer for a request of core 0, and what waits on it. -/
def answer (op : Nat) (payload : List Byte) : Packet :=
  { op := op, job := 0, offs := 0, steer := false, vc := 1, seq := 5, dst := 0, src := 1, rkey := 0, payload := payload, rvc := 0 }
def asked (op kind x : Nat) : Replay := { pkt := { request op 0 [] with dst := 1, src := 0, seq := 5 }, origin := (kind, 0, x) }
def answering (p : Packet) (r : Replay) (held : Option Iss) (pend : List Pend) : State :=
  { withDie { window := [r] } (task regs (fun c => { c with held := held, pend := pend })) with net := [p] }
def heldFor : Iss := { live := true, req := some (1, 0, 5), sent := true }
/-- A NACK's payload. -/
def refusal (reason : Nat) : List Byte := padTo 32 (bytesOf 4 reason)
theorem meets_answers : (∀ r ∈ [asked 3 0 0, asked 1 0 0, asked 8 0 0, asked 9 0 0, asked 1 1 0, asked 2 2 0, asked 6 3 0, asked 1 4 0, asked 2 5 0, asked 0x20 6 0, asked 1 7 0],
      ∀ p ∈ [answer 0x10 (bytesOf 8 7), answer 0x11 [], answer 0x12 (refusal 2), answer 0x12 (refusal 1), answer 0x12 (refusal 3), answer 0x12 (refusal 4)],
      let s := answering p r (some heldFor) []
      (s.die 0).closed = [] ∧ (s.die 0).deaf p.job = false ∧ p.bad = false ∧ Claims.Answers s 0 p r ∧ Claims.FirstIn s p.op 1 0 1 [] p [] ∧
      (s.ctxAt ⟨0, 0⟩).held = some heldFor ∧ Claims.AwaitsOf heldFor r ∧ (s.ctxAt ⟨0, 0⟩).pend = [] ∧ (s.core 0).dcache = []) ∧
    (∀ r ∈ [asked 2 2 0], (answering (answer 0x12 (refusal 2)) r none []).chargeTo 0 0 = some ⟨0, 0⟩ ∧ (answering (answer 0x12 (refusal 2)) r none []).chargeTo 1 0 = none) := by
  unfold Claims.Answers Claims.FirstIn Claims.AwaitsOf FirstOf; decide +kernel
/-- Pending registers: one that takes its value, one whose line holds a byte of the core's own, and g30, which would fall below SLIM. -/
theorem meets_pending : (∀ d ∈ ([⟨1, 0, 5, 0, 8, false, 4, 0, []⟩, ⟨1, 0, 5, 0, 8, false, 4, 0, [(0, 9)]⟩, ⟨1, 0, 5, 0, 8, true, 30, 0, []⟩] : List Pend),
      ((answering (answer 0x10 (bytesOf 8 7)) (asked 1 0 0) none [d]).ctxAt ⟨0, 0⟩).pend = [d] ∧
      (d.dst, d.vc, d.seq) = ((asked 1 0 0).pkt.dst, (asked 1 0 0).pkt.vc, (asked 1 0 0).pkt.seq)) ∧
    (BitVec.ofInt 64 (sext (ofBytes (slice (bytesOf 8 7) 0 8)) 64)) < ((answering (answer 0x10 (bytesOf 8 7)) (asked 1 0 0) none []).ctxAt ⟨0, 0⟩).r.slim := by decide +kernel
theorem meets_malformedAnswers : ∀ op ∈ [0x10, 0x11, 0x12], (let p := { answer op (refusal 2) with rlen := 1 }
    let s := answering p (asked 1 0 0) none []
    (s.die 0).closed = [] ∧ (s.die 0).deaf 0 = false ∧ p.bad = true ∧ Claims.FirstIn s op 1 0 1 [] p []) := by unfold Claims.FirstIn FirstOf; decide +kernel
/-- A user queue that waits for its packet, and lines that a fill meets: none, the line, a full cache, a request older than an invalidation. -/
theorem meets_queueAnswers : (let u : UserQ := { req := some (1, 0, 5) }
    let s : State := withDie { window := [asked 1 7 0], users := [(0, u)] } (task regs)
    queueOf s 0 0 = u ∧ u.req = some ((asked 1 7 0).pkt.dst, (asked 1 7 0).pkt.vc, (asked 1 7 0).pkt.seq)) := by decide +kernel
theorem meets_lineFills : (asked 1 0 0).stale = false ∧ (withLine 0x1000).lineAt 0 (Claims.remLoc (asked 1 0 0)) = none ∧ ((withLine 0x1000).core 0).dcache.length < 2048 ∧
    (withLine (Claims.remLoc (asked 1 0 0))).lineAt 0 (Claims.remLoc (asked 1 0 0)) ≠ none ∧ ({ asked 1 0 0 with stale := true } : Replay).stale = true := by decide +kernel
/-- A proposal of version 2 for dies 0 and 8 (R300). -/
theorem meets_proposalPackets : (let p := { request 0x20 7 (proposal 2 2 [0, 8]) 0 with src := 1 }
    Claims.Expected (carrying p) 0 p ∧ p.request = true ∧ Claims.FirstIn (carrying p) 0x20 1 0 7 [] p [] ∧ p.payload = proposal 2 2 [0, 8] ∧ ∀ d ∈ [0, 8], d < 256) := by
  unfold Claims.Expected Claims.FirstIn FirstOf; decide +kernel
/-- The tokens of a switch of which die 1 is the coordinator, at a die that has its own part in it. -/
theorem meets_tokens : ∀ kind ∈ [0, 1, 2, 3, 4, 5, 6, 7], (let p := { tokenPacket kind 1 0 0 1 0 [] with seq := 0 }
    let w := Switch.ofDesc (wordsOf 8 (p.payload.drop 8)) 1 0
    let s := carrying p { sw := [w] }
    Claims.Expected s 0 p ∧ p.request = true ∧ Claims.FirstIn s 0x21 1 0 7 [] p [] ∧ bits (wordOf (slice p.payload 0 8)) 7 0 = kind ∧ (s.die 0).window.length < 256 ∧
    (s.die 0).sw = [w] ∧ w.isOf 1 0 = true ∧ w.phase ≠ .opened) := by
  unfold Claims.Expected Claims.FirstIn FirstOf; decide +kernel
theorem meets_tokenHeld (w : List Replay) (h : 256 ≤ w.length) : (let p := tokenPacket 0 1 0 0 1 0 []
    let s := carrying p { window := w }
    Claims.Expected s 0 p ∧ Claims.FirstIn s 0x21 1 0 7 [] p [] ∧ 256 ≤ (s.die 0).window.length) :=
  ⟨⟨rfl, rfl, by decide +kernel, rfl, rfl, fun _ h => absurd h List.not_mem_nil⟩, ⟨⟨rfl, fun _ h => absurd h List.not_mem_nil, rfl⟩, rfl⟩, h⟩
/-- A request unanswered since cycle 0. -/
def unanswered (cycle : Word) (r : Replay) : State := { answering (answer 0x11 []) r (some heldFor) [] with cycle := cycle, net := [] }
theorem meets_timeouts (c : Word) : ((unanswered c (asked 1 0 0)).die 0).window.find? (fun e => e.pkt.dst == 1 && e.pkt.vc == 0 && e.pkt.seq == 5) = some (asked 1 0 0) ∧
    ((unanswered c (asked 1 0 0)).die 0).halted 0 = false ∧ (5 : Nat) < 4096 ∧ (asked 1 0 0).resendAt = none ∧ 2 ^ 20 ≤ ((0x100000 : Word) - (asked 1 0 0).sentAt).toNat ∧
    ((0xFFFFF : Word) - (asked 1 0 0).sentAt).toNat < 2 ^ 20 := ⟨rfl, rfl, by decide, rfl, by decide +kernel, by decide +kernel⟩
def resending (n : Nat) : Replay := { asked 1 0 0 with resends := n, resendAt := some 0x40 }
theorem meets_resends (n : Nat) :
    ((unanswered 0x40 (resending n)).die 0).window.find? (fun e => e.pkt.dst == 1 && e.pkt.vc == 0 && e.pkt.seq == 5) = some (resending n) ∧
    (resending n).resendAt = some 0x40 ∧ (0x40 : Word) ≤ (unanswered 0x40 (resending n)).cycle ∧
    ((unanswered 0x40 (resending n)).ctxAt ⟨0, 0⟩).held = some heldFor ∧ (resending n).origin = (0, 0, 0) := ⟨rfl, rfl, BitVec.le_refl _, rfl, rfl⟩

def ringKey : BitVec 256 := 0x55
/-- A frame on port 0 of die 0 whose flits 1 to 14 encrypt these bytes, with its own tag or another. -/
def linkFrame (n : Nat) (packets : List Packet) (plain : List Byte) (tag : BitVec 128 → BitVec 128) : LinkFrame :=
  let f : LinkFrame := { number := n, rtx := false, nak := false, ackf := 0, grants := [], packets := packets, flits := [], tag := 0 }
  let flits := f.head ++ Config.gcmCrypt ringKey (linkIv 0 0 n) plain
  { f with flits := flits, tag := tag (Config.gcmTag ringKey (linkIv 0 0 n) (flits.take 32) (flits.drop 32)) }
/-- A packet of die 7 that stands there to leave for die 0. -/
def crossing : Packet := { request 2 0 [] with src := 7, at_ := 7, out := 0 }
/-- Die 0 with this link on port 0, and die 7, which has sent `n` frames and holds that packet. -/
def linked (l : LinkDir) (n : Nat := 0) : State :=
  { withDie {} (task regs) with dies := [(0, { links := [(0, l)], linkKeys := [(0, ringKey)] }), (7, { links := [(1, { frame := n })] })], net := [crossing] }
/-- The bytes of the packet and, after them, the first byte of one that goes on in the next frame. -/
def spelled : List Byte := padTo 448 (crossing.bytes ++ [9])
theorem meets_linkFrames : (∀ l ∈ ([{}, { fails := 7 }] : List LinkDir), ((linked l).link 0 0).down = false ∧ ((linked l).link 0 0).discarding = false) ∧
    (linked {}).peer 0 0 = (7, 1) ∧ ((linked {}).link 7 1).again = [] ∧ ((linked {}).die 0).closed.contains crossing.job = false ∧
    (∀ e ∈ ([[], spelled] : List (List Byte)), (linkFrame 1 [crossing] e id).number = ((linked {}).link 0 0).lastGood + 1 ∧ (linkFrame 2 [crossing] e id).number ≠ ((linked {} 1).link 0 0).lastGood + 1) ∧
    ((linked { fails := 7 }).link 0 0).fails = 7 ∧ ((linked { down := true }).link 0 0).down = true := by decide +kernel
/-- Such a frame may be sent, whatever its flits are, with the packet that stands there or with none. -/
theorem meets_canSend (plain : List Byte) (tag : BitVec 128 → BitVec 128) : (linked {}).canSend 7 1 0 (linkFrame 1 [crossing] plain tag) = true ∧
    (linked {}).canSend 7 1 0 (linkFrame 1 [] plain tag) = true ∧ (linked {} 1).canSend 7 1 0 (linkFrame 2 [crossing] plain tag) = true ∧
    (linked { fails := 7 }).canSend 7 1 0 (linkFrame 1 [crossing] plain tag) = true ∧ (linked {}).canSend 7 1 0 (linkFrame 2 [crossing] plain tag) = false :=
  ⟨rfl, rfl, rfl, rfl, rfl⟩
theorem frame_rest (n : Nat) (packets : List Packet) (plain : List Byte) (tag : BitVec 128 → BitVec 128) (h : plain.length = 448) :
    frameRest ringKey (linkIv 0 0 n) (linkFrame n packets plain tag) [] =
      if plain.take (packets.flatMap Packet.bytes).length = packets.flatMap Packet.bytes then
        some (if ((plain.drop (packets.flatMap Packet.bytes).length).take 32).all (· == 0) then [] else plain.drop (packets.flatMap Packet.bytes).length) else none := by
  let f : LinkFrame := { number := n, rtx := false, nak := false, ackf := 0, grants := [], packets := packets, flits := [], tag := 0 }
  have hl : f.head.length = 32 := rfl
  have e : (linkFrame n packets plain tag).flits = f.head ++ Config.gcmCrypt ringKey (linkIv 0 0 n) plain := rfl
  have hh : (linkFrame n packets plain tag).head = f.head := rfl
  have hp : (linkFrame n packets plain tag).packets = packets := rfl
  have hg : (linkFrame n packets plain tag).grants = [] := rfl
  have hd : (linkFrame n packets plain tag).flits.drop 32 = Config.gcmCrypt ringKey (linkIv 0 0 n) plain := by rw [e, ← hl, List.drop_left]
  have ht : (linkFrame n packets plain tag).flits.take 32 = f.head := by rw [e, ← hl, List.take_left]
  have hn : (linkFrame n packets plain tag).flits.length = 480 := by rw [e, List.length_append, hl]; simp [Config.gcmCrypt, h]
  unfold frameRest
  simp only [hd, ht, hn, hh, hp, hg, Config.gcmCrypt_gcmCrypt, List.nil_append, List.length_nil]
  simp
theorem meets_flits : frameRest ringKey (linkIv 0 0 1) (linkFrame 1 [crossing] spelled id) [] = some (spelled.drop crossing.bytes.length) ∧
    frameRest ringKey (linkIv 0 0 1) (linkFrame 1 [] (padTo 448 []) id) [] = some [] ∧
    frameRest ringKey (linkIv 0 0 1) (linkFrame 1 [crossing] (padTo 448 []) id) [] = none :=
  ⟨by rw [frame_rest _ _ _ _ (by decide +kernel)]; decide +kernel, by rw [frame_rest _ _ _ _ (by decide +kernel)]; decide +kernel,
   by rw [frame_rest _ _ _ _ (by decide +kernel)]; decide +kernel⟩
theorem meets_linkTag (n : Nat) (ps : List Packet) (e : List Byte) : SMap.get 0 ((linked {}).die 0).linkKeys 0 = ringKey ∧ (let f := linkFrame n ps e id
    Config.gcmTag ringKey (linkIv 0 0 f.number) (f.flits.take 32) (f.flits.drop 32) = f.tag) := ⟨rfl, rfl⟩
theorem meets_linkTagBad (n : Nat) (ps : List Packet) (e : List Byte) : (let f := linkFrame n ps e (· + 1)
    Config.gcmTag ringKey (linkIv 0 0 f.number) (f.flits.take 32) (f.flits.drop 32) ≠ f.tag) := by
  intro f h
  have h' : f.tag = Config.gcmTag ringKey (linkIv 0 0 f.number) (f.flits.take 32) (f.flits.drop 32) + 1 := rfl
  rw [← h] at h'
  have := congrArg (· - Config.gcmTag ringKey (linkIv 0 0 f.number) (f.flits.take 32) (f.flits.drop 32)) h'
  simp [BitVec.add_comm] at this
/-- A link with a frame to send again, an answered one, and one that asks for it. -/
theorem meets_resentFrames : (let s : State := { linked {} with dies := [(0, { links := [(0, {})] }), (7, { links := [(1, { frame := 3, again := [[crossing]], rtx := true })] })] }
    (s.link 7 1).again = [[crossing]] ∧ s.canSend 7 1 0 { linkFrame 4 [crossing] [] id with rtx := true } = true) := ⟨rfl, rfl⟩
theorem meets_census : ((linked { flitsRx := 1024 }).link 0 0).down = false ∧ ((linked { flitsRx := 1024 }).link 0 0).censusAt + 1024 ≤ ((linked { flitsRx := 1024 }).link 0 0).flitsRx ∧
    ((linked { flitsRx := 1023 }).link 0 0).flitsRx < ((linked { flitsRx := 1023 }).link 0 0).censusAt + 1024 ∧
    (let c : Census := { flits := 5, entries := [⟨false, 0, 16⟩] }
     let s := { linked {} with dies := [(7, { links := [(1, { census := some c.bytes })] })] }
     (s.link (s.peer 0 0).1 (s.peer 0 0).2).census = some c.bytes ∧ c.entries = [⟨false, 0, 16⟩]) := by
  refine ⟨?_, ?_, ?_, ?_⟩ <;> decide +kernel
/-! ## The host ports, boot, power, registers -/

/-- A module's ports, one machine with them. -/
def hosted (m : Md) (d : Die := {}) : State := { withDie d (task regs) with mds := [(0, m)], cycle := 180000000 }
theorem meets_ownerLosses : ∀ o ∈ [1, 2], (o = 1 ∧ ((hosted { owner := o, down0 := some 0, down1 := some 0 }).md 0).down0 = some 0) ∨
    (o = 2 ∧ ((hosted { owner := o, down0 := some 0, down1 := some 0 }).md 0).down1 = some 0) := by decide +kernel
theorem meets_ownerKept : ((hosted {}).md 0).owner = 0 := by decide +kernel

/-- A request of port 0 to the page at 0x1000, which partition 0 shows. -/
def barReq (trusted : Bool) (off : Nat) (write : Option Word) (posted : Bool := true) : BarReq :=
  { port := 0, trusted := trusted, rid := 0, addr := 0x1000 + off, write := write, posted := posted }
def showing (page : BarPage) (priv : Bool) (stage : Nat := 0x80) : State :=
  hosted { owner := 1, stage := stage, runIf := [(0, true)], pages := [(1, page, priv, 0)] } { sealm := [(0, 0xFFF)] }
theorem meets_barPages (page : BarPage) (priv : Bool) (stage : Nat) :
    ((showing page priv stage).md 0).pages.find? (fun e => e.1 == (barReq true 8 none).addr / 4096) = some (0x1000 / 4096, page, priv, 0) ∧
    SMap.get false ((showing page priv stage).md 0).runIf 0 = true ∧ ((showing page priv stage).md 0).owner = (barReq true 8 none).port + 1 ∧
    (barReq true 8 none).trusted = true ∧ (barReq false 8 none).trusted = false ∧
    ((hosted { owner := 1, pages := [(1, page, true, 0)] }).md 0).runIf = [] := ⟨rfl, rfl, rfl, rfl, rfl, rfl⟩
theorem meets_barShown : (∀ page ∈ [BarPage.queue 0 3, .granule 0 0x1000, .management, .event 0, .staging 0x100], (showing page false).barHas page = true) ∧
    (∀ page ∈ [BarPage.granule 0 0x10000, .staging 0x3FFF001], (showing page false).barHas page = false) ∧ (barReq true 8 (some 1) false).posted = false := by decide +kernel
theorem meets_barUnmapped : ∀ e ∈ ((hosted {}).md 0).pages, e.1 ≠ (barReq true 8 none).addr / 4096 := fun _ h => absurd h (List.not_mem_nil)
theorem meets_notOwner (stage : Nat) : ((hosted { owner := 2, stage := stage }).md 0).owner ≠ (barReq true 8 none).port + 1 := by show (2 : Nat) ≠ 1; decide

theorem meets_go : ((hosted { owner := 1 }).md 0).owner ≠ 0 ∧ ((hosted { owner := 1 }).md 0).stage = 0 ∧ (64 : Nat) ≤ 65536 ∧
    ((hosted {}).md 0).owner = 0 := by decide +kernel
/-- Every die of module 0 at a stage. -/
def booting (stage : Nat) (m : Md := { stage := 0x10 }) : State :=
  { hosted m with dies := (List.range 8).map (fun d => (d, { stage := stage })) }
/-- Whether the parts of the bundle verify is not the model's to decide (log 45): each die finds all five good, or a first one that is not. -/
theorem meets_verify (good : Nat → Prop) : ((booting 0x10).die 0).stage = 0x10 ∧ ((booting 0x10).md 0).stage ≠ 0xFF ∧
    ((∀ i, i < 5 → good i) ∨ ∃ n, n < 5 ∧ ¬ good n ∧ ∀ i, i < n → good i) := by
  refine ⟨by decide +kernel, by decide +kernel, ?_⟩
  by_cases h : ∀ i, i < 5 → good i
  · exact Or.inl h
  · refine Or.inr ?_
    classical
    have h' : ∃ n, n < 5 ∧ ¬ good n := by
      by_contra hc
      exact h (fun i hi => by_contra (fun hg => hc ⟨i, hi, hg⟩))
    refine ⟨Nat.find h', (Nat.find_spec h').1, (Nat.find_spec h').2, fun i hi => ?_⟩
    by_contra hg
    exact Nat.find_min h' hi ⟨Nat.lt_trans hi (Nat.find_spec h').1, hg⟩
theorem dies_booting (n : Nat) (m : Md) : ∀ d, d / 8 = 0 → ((booting n m).die d).stage = n := by
  intro d h
  have : d < 8 := by omega
  interval_cases d <;> rfl
theorem meets_rootStart : (∀ d, d / 8 = 0 → 0x20 ≤ ((booting 0x20).die d).stage) ∧ ((booting 0x20).die 0).stage = 0x20 ∧ ((booting 0x20).md 0).stage ≠ 0xFF ∧
    ∀ chain named : Prop, (chain ∧ named) ∨ ¬ chain ∨ (chain ∧ ¬ named) :=
  ⟨fun d h => by rw [dies_booting _ _ d h], by decide +kernel, by decide +kernel, fun chain named => by by_cases chain <;> by_cases named <;> simp [*]⟩
theorem meets_training : (∀ d, d / 8 = 0 → 0x30 ≤ ((booting 0x30).die d).stage) ∧ ((booting 0x30).die 0).stage = 0x30 ∧ ((booting 0x30).md 0).stage ≠ 0xFF :=
  ⟨fun d h => by rw [dies_booting _ _ d h], by decide +kernel, by decide +kernel⟩
theorem meets_handover : (∀ d, d / 8 = 0 → 0x40 ≤ ((booting 0x40 { stage := 0x40 }).die d).stage) ∧ ((booting 0x40 { stage := 0x40 }).md 0).stage = 0x40 ∧
    (∀ d, d / 8 = 0 → 0x50 ≤ ((booting 0x50 { stage := 0x50 }).die d).stage) ∧ ((booting 0x50 { stage := 0x50 }).md 0).stage = 0x50 :=
  ⟨fun d h => by rw [dies_booting _ _ d h], by decide +kernel, fun d h => by rw [dies_booting _ _ d h], by decide +kernel⟩

/-- A message that asks for the version, and the system cores of module 0 at monitor level. -/
def message : SpdmMsg := { kind := .getVersion, body := [] }
def systems (m : Md) : State :=
  { hosted m with cores := (List.range 8).map (fun d => (d * 128 + 64, { c0 := { run := .running, y := { level := 1 } } })) }
theorem meets_rootRequests : ((systems { stage := 0x80, spdm := [(message, false)] }).md 0).spdm ≠ [] ∧ ((systems {}).core 64).c0.run = .running ∧
    ((systems {}).core 64).c0.y.level = 1 ∧ ((systems {}).core 64).c0.held = none ∧ ((systems { stage := 0x80 }).md 0).stage = 0x80 ∧ ((systems {}).md 0).stage ≠ 0x80 ∧
    ((systems { stage := 0x80 }).md 0).spdm.foldl (fun n q => n + q.1.body.length) message.body.length ≤ 65536 := by decide +kernel
theorem meets_activations (img sig : List Byte) : ((systems { stage := 0x80 }).md 0).activating = false ∧ ((systems { stage := 0x80 }).md 0).spdm = [] ∧
    (∀ d, d / 8 = 0 → ((systems { stage := 0x80 }).core (d * 128 + 64)).c0.run = .running ∧ ((systems { stage := 0x80 }).core (d * 128 + 64)).c0.y.level = 1 ∧
      ((systems { stage := 0x80 }).core (d * 128 + 64)).c0.held = none) ∧ ((systems { activating := true }).md 0).activating = true ∧
    (Config.slhVerify Config.strelevoKey img sig = true ∨ Config.slhVerify Config.strelevoKey img sig = false) := by
  refine ⟨rfl, rfl, ?_, rfl, ?_⟩
  · intro d h
    have : d < 8 := by omega
    interval_cases d <;> exact ⟨rfl, rfl, rfl⟩
  · cases Config.slhVerify Config.strelevoKey img sig <;> simp

/-- An idle machine whose cluster 0 is in this state, with an owner that tolerates so many ns. -/
def sleeping (c : Cluster) (lattol : Word := 1000000000) : State := { clusters := [(0, c)], mds := [(0, { lattol := lattol })], cycle := 180000 }
theorem meets_powerStates : (∀ p ∈ [Power.p0, .p1, .p2], (sleeping { power := p }).idleCluster 0 0 = true ∧ ((sleeping { power := p }).cluster (0 * 8 + 0)).waking = false ∧
      ((sleeping { power := p }).cluster (0 * 8 + 0)).due = false ∧ ((sleeping { power := p }).cluster (0 * 8 + 0)).power = p) ∧
    100 ≤ ((sleeping {}).md (0 / 8)).lattol.toNat ∧ 180000 ≤ ((sleeping { power := .p1 }).cycle - ((sleeping { power := .p1 }).cluster 0).since).toNat ∧
    1500 + 800 * (sleeping { power := .p1 }).retained 0 0 ≤ ((sleeping {}).md (0 / 8)).lattol.toNat := by
  refine ⟨?_, ?_, ?_, ?_⟩ <;> decide +kernel
theorem aligned_lines (s : State) (h : s.cores = []) : ∀ k, 0 * 128 + 0 * 8 ≤ k → k < 0 * 128 + 0 * 8 + 8 → ∀ l ∈ (s.core k).dcache, l.loc % 64 = 0 := by
  intro k _ _ l hl
  have e : (s.core k).dcache = [] := by unfold State.core; rw [h]; interval_cases k <;> rfl
  rw [e] at hl; exact absurd hl List.not_mem_nil
theorem meets_alignedLines : (∀ k, 0 * 128 + 0 * 8 ≤ k → k < 0 * 128 + 0 * 8 + 8 → ∀ l ∈ ((sleeping { power := .p1 }).core k).dcache, l.loc % 64 = 0) :=
  aligned_lines _ rfl
/-- A cluster is wanted by an event, has work, or sleeps too deeply for the tolerance, alone and in P3. -/
theorem meets_wanted : ((sleeping { power := .p1, due := true }).cluster (0 * 8 + 0)).due = true ∧
    ({ sleeping { power := .p2 } with cores := [(3, { c0 := { run := .granted } })] } : State).idleCluster 0 0 = false ∧
    ((sleeping { power := .p1 } 99).md (0 / 8)).lattol.toNat < Claims.wakeBound ((sleeping { power := .p1 }).cluster (0 * 8 + 0)) ∧
    ((sleeping { power := .p2, size := 42 } 36000).md (0 / 8)).lattol.toNat < Claims.wakeBound ((sleeping { power := .p2, size := 42 }).cluster (0 * 8 + 0)) + 2000 ∧
    ¬ ((sleeping { power := .p2, size := 42 } 36000).md (0 / 8)).lattol.toNat < Claims.wakeBound ((sleeping { power := .p2, size := 42 }).cluster (0 * 8 + 0)) := by
  refine ⟨?_, ?_, ?_, ?_, ?_⟩ <;> decide +kernel
theorem meets_wakes : (∀ p ∈ [Power.p1, .p2], ((sleeping { power := p, waking := true }).cluster (0 * 8 + 0)).waking = true ∧
      ((sleeping { power := p, waking := true }).cluster (0 * 8 + 0)).ready ≤ (sleeping { power := p, waking := true }).cycle ∧
      (sleeping { power := p, waking := true, ready := 180001 }).cycle < ((sleeping { power := p, waking := true, ready := 180001 }).cluster (0 * 8 + 0)).ready) ∧
    (∀ k, 0 * 128 + 0 * 8 ≤ k → k < 0 * 128 + 0 * 8 + 8 → ∀ l ∈ ((sleeping { power := .p2, waking := true }).core k).dcache, l.loc % 64 = 0) ∧
    ((sleeping {}).cluster (0 * 8 + 0)).waking = false := ⟨by decide +kernel, aligned_lines _ rfl, by decide +kernel⟩
/-- A cluster asleep for 6,000 cycles has 3 of its 42 MiB to re-encode, and its wake, the exit time of P2 for the rest, ends where R403 puts it. -/
theorem test_wake : ((after (.clusterWake 0 0) (sleeping { power := .p2, size := 42, since := 174000, due := true })).cluster 0).ready = 174000 + 8100 + 3 * 1440 := by decide +kernel
def asleep : State := { clusters := (List.range 8).map (fun k => (k, { power := .p2, size := 42 })), mds := [(0, { lattol := 1000000000 })] }
theorem meets_p3 : (asleep.die 0).p3 = false ∧ (∀ cl ∈ List.range 8, (asleep.cluster (0 * 8 + cl)).power = .p2 ∧ (asleep.cluster (0 * 8 + cl)).waking = false ∧
    (asleep.cluster (0 * 8 + cl)).due = false ∧ 1500 + 800 * (asleep.cluster (0 * 8 + cl)).size + 2000 ≤ (asleep.md (0 / 8)).lattol.toNat) ∧
    (∀ i ∈ List.range 64, (asleep.core (0 * 128 + i)).c0.run = .free ∧ (asleep.core (0 * 128 + i)).c1.run = .free) := by decide +kernel
theorem meets_patrol : homeDie (homePa 0 (3 * 2 ^ 45)) = 3 ∧ (let area := homePa (3 / 8) (bits (onSystem 2 regs).co.evtarea 51 0)
    ¬ (area ≤ homePa 0 (3 * 2 ^ 45) / 8 * 8 ∧ homePa 0 (3 * 2 ^ 45) / 8 * 8 < area + 65536)) := by decide +kernel
/-- A clean line of core 0, and a dirty one, in which the patrol of die 0 finds a bad word. -/
theorem meets_patrolLines : coreDie 0 = 0 ∧ ∀ l ∈ ([{ fullLine 0x200000 with dirty := 0 }, fullLine 0x200000] : List Line),
    (let s := task regs id (fun c => { c with dcache := [l] })
     FirstOf (fun m => m.loc / 64 == 0x200010 / 64) (s.core 0).dcache [] l [] ∧
     ¬ (homePa 0 (bits (s.core (0 * 128 + 64)).evtarea 51 0) ≤ 0x200010 / 8 * 8 ∧ 0x200010 / 8 * 8 < homePa 0 (bits (s.core (0 * 128 + 64)).evtarea 51 0) + 65536)) := by
  unfold FirstOf; decide +kernel

/-- Die 0 with job 0 under partition 3, sixteen reserve chunks, a cluster window; its first granule sealed under slot 1, where one word is written. -/
def sealing : State :=
  { withDie { sealm := [(0, 1)], keys := [(1, { v := true, key := 5 })], cwins := [(0, (0, 64))],
              parts := [(3, { w0 := 0x8000000000000000, w1 := 1, w3 := 0x0010000000000001 })], areas := [(8, 0x1000)] } {} with
    mem := cells 0x1000 [7] }
/-- A granule gives its unit another key as it becomes shared, and as the module is reset. -/
theorem meets_sealedUnits : sealing.keyAt 0x1000 = some 5 ∧ (sealUnit 0x1000).1 = 0x1000 ∧ homeDie 0x1000 / 8 = 0 ∧ sealing.keyAt 0x10000 = none ∧
    (let t := sealing.modDie 0 (fun d => { d with sealm := [(0, 0xFFF)] })
     t.keyAt 0x1000 = none ∧ 0x1000 ∈ t.rekeyed sealing ∧ 0x10000 ∉ t.rekeyed sealing) ∧ 0x1000 ∈ ({} : State).rekeyed sealing := by
  refine ⟨?_, ?_, ?_, ?_, ?_, ?_⟩ <;> decide +kernel
theorem meets_registerWrites : (sealing.die 0).partOf 0 = some (3, { w0 := 0x8000000000000000, w1 := 1, w3 := 0x0010000000000001 }) ∧ (sealing.die 0).failed = [] ∧
    16 ≤ bits (0x0010000000000001 : Word) 63 48 ∧ bits (0x000F000000000001 : Word) 63 48 < 16 ∧ (0, (0, 64)) ∈ (sealing.die 0).cwins ∧
    (SMap.get {} (sealing.die 0).parts 4).w0.getLsbD 63 = false ∧ (SMap.get {} (sealing.die 0).parts 3).w0.getLsbD 63 = true ∧
    bits (0x8000000000000001 : Word) 57 48 = bits (SMap.get {} (sealing.die 0).parts 3).w0 57 48 ∧
    (let u := queueOf (withDie { users := [(0, { size := 4, ridx := 3 })] } (task regs)) 0 0; (7 : Word).toNat ≤ u.ridx.toNat + u.size.toNat ∧ u.ridx.toNat + u.size.toNat < (8 : Word).toNat) ∧
    2 ^ 40 < bits (0x10000000001 : Word) 40 0 ∧ bits (0x10000000000 : Word) 40 0 ≤ 2 ^ 40 ∧ ((hosted { owner := 1 }).md 0).owner = 0 + 1 ∧ ((hosted { owner := 1 }).md 0).owner ≠ 1 + 1 := by decide +kernel
/-- Beside 4 KiB of areas in cluster 0 a window of 24 MiB less 4 KiB has room, and one of a byte more has none; the same of an area above a window. -/
theorem meets_clusterRoom :
    let d := sealing.die 0
    let held (e : Nat × Nat) : Nat := if e.1 % 8 = 0 then e.2 else 0
    (∀ e ∈ d.areas, e.1 ≠ 2 ^ 20) ∧ (d.areas.map held).sum = 0x1000 ∧ 0x1000 + 0x1000 + (0x17FE000 : Word).toNat ≤ 24 * 2 ^ 20 ∧ 24 * 2 ^ 20 < 0x1000 + 0x1000 + (0x17FE001 : Word).toNat ∧
    ((d.areas.filter (fun e => e.1 != 0 * 8 + 0)).map held).sum = 0x1000 ∧ (d.cwins.map (fun e => if e.1 % 8 = 0 then e.2.1 + e.2.2 else 0)).foldl Max.max 0 = 64 ∧
    0x1000 + 64 + (0x17FEFFF : Word).toNat / 4096 * 4096 ≤ 24 * 2 ^ 20 ∧ 24 * 2 ^ 20 < 0x1000 + 64 + (0x17FF000 : Word).toNat / 4096 * 4096 := by decide +kernel
theorem meets_bankKeys : (∃ i part, (sealing.die 0).partOfCore (0 * 128 + 0) = some (i, part)) ∧ (sealing.core 0).c0.run = .free ∧ (sealing.core 0).c1.run = .free ∧
    (sealing.core 0).tenant = none ∧ (sealing.core 0).keyed = none ∧ (sealing.die 0).partOfCore (0 * 128 + 1) = none := ⟨⟨_, _, rfl⟩, by decide +kernel⟩
/-- A growth that failed for job 0. -/
theorem meets_failedGrowth : (let d : Die := { sealing.die 0 with failed := [(0, 1, 0, 2)] }
    d.failed = [] ++ (0, 1, 0, 2) :: [] ∧ d.partOf 0 = some (3, { w0 := 0x8000000000000000, w1 := 1, w3 := 0x0010000000000001 })) := by decide +kernel
/-! ## Squall -/

/-- Job 5 runs on core 0 of die 0, whose switch out or in stands at a phase. Die 0 is the only die of the switch, or, with die 8 as the coordinator, its first. -/
def squalling (out : Bool) (phase : Phase) (tok : Tok := .none) (coord : Nat := 0) : Switch :=
  { job := 5, out := out, phase := phase, dies := if coord = 0 then [0] else [0, coord], coord := coord, tok := tok,
    desc := [if out then 0x8000000000050000 else 0x4000000014000000, 0x100000, 0, 0x100000, 1] }
def gangState (w : Switch) (d : Die := {}) (r : Run := .running) : State :=
  withDie { d with sw := [w] } (task { regs with jobId := 5 } (fun c => { c with run := r, t := { c.t with job := 5 } }))
theorem gang_places : (gangState (squalling true .idle)).jobPlaces 0 5 = [⟨0, 0⟩] ∧ (gangState (squalling true .idle)).jobCores 0 5 = [0] := by decide +kernel
theorem meets_quiesces : ∀ coord ∈ [0, 8], (let w := squalling true .idle .quiesce coord
    let s := gangState w
    (s.die 0).sw.find? (fun w => w.out && w.tok == .quiesce) = some w ∧ w.phase = .idle ∧ s.asleep (range (0 * 8) 8) = false ∧
    (s.ctxAt ⟨0, 0⟩).y.level = 0 ∧ (s.driftAt ⟨0, 0⟩).2 = false ∧ (s.die 0).comms = [] ∧ (s.die 0).slices = [] ∧ (s.ctxAt ⟨0, 0⟩).loads = false ∧
    w.next 0 = (if coord = 0 then none else some 8) ∧ (s.die 0).window.length < 256) := by decide +kernel
/-- The same with a remote load on its way: `ld.z32`. -/
def loading : State :=
  let i : Iss := { live := true, head := 0x20, words := [0x0010C907], slot := 5, req := some (8, 0, 1), sent := true }
  { gangState (squalling true .idle .quiesce) with cores := [(0, { c0 := { run := .running, held := some i, t := { job := 5 } } })] }
theorem meets_loading : (loading.ctxAt ⟨0, 0⟩).loads = true ∧ (loading.ctxAt ⟨0, 0⟩).held.map (·.resp) = some none ∧
    loading.jobPlaces 0 5 = [⟨0, 0⟩] ∧ (loading.ctxAt ⟨0, 0⟩).y.level = 0 ∧ (loading.driftAt ⟨0, 0⟩).2 = false := by decide +kernel
/-- A packet of the job in the station at which it came in, and one made on the die. -/
def gangPacket (ing : Nat) : Packet := { steered with job := 5, ing := ing, dst := 9, out := 1 }
theorem meets_sweeps : ∀ ing ∈ [0, 3, 8], (let w := squalling true .quiesced
    let s := { gangState w with net := [gangPacket ing] }
    (s.die 0).sw.find? (fun w => w.out && (w.phase == .quiesced || w.phase == .swept || w.phase == .saved)) = some w ∧ w.phase = .quiesced ∧ Claims.RoomForLate s 0 ∧
    s.net = [] ++ gangPacket ing :: [] ∧ Claims.StandsFor 0 w.job (gangPacket ing) ∧ (gangPacket ing).payload.length ≤ 4096 ∧ (s.die 0).lane0 ++ (s.die 0).lane1 = [] ∧
    (s.die 0).egress = [] ∧ w.recs = []) := by unfold Claims.RoomForLate Claims.StandsFor; decide +kernel
def gangKey (ctr : Word) : KeySlot := { v := true, kind := 1, dflt := true, job := 5, ctr := ctr }
theorem meets_saves : (let w := squalling true .swept
    let s := gangState w { keys := [(7, gangKey 4)] }
    (s.die 0).sw.find? (fun w => w.out && w.phase == .swept) = some w ∧ (s.core 0).dcache = [] ∧ (s.die 0).defaultKey w.job = some (7, gangKey 4) ∧
    Claims.Rising (s.die 0).keys ∧ bits (s.ctxAt ⟨0, 0⟩).r.jobId 9 0 = w.job ∧ (s.die 0).savedJobs = [] ∧ (s.die 0).comms = [] ∧ (s.jobCores 0 w.job).length ≤ 256 ∧
    w.dies.length ≤ 256 ∧ w.recs = [] ∧ (s.cluster 0).buffer = [] ∧ (s.die 0).station = []) := by unfold Claims.Rising; decide +kernel
def reports (w : Switch) : Bool := !w.sent && (w.phase == .saved || w.phase == .loaded) && (w.coord != 0 || (w.back && w.dies.all (fun d => d == 0 || w.reports.contains d)))
theorem meets_reports : (∀ w ∈ [squalling true .saved .none 8, { squalling true .saved with back := true }, { squalling true .saved .none 8 with coord := 0, back := true, reports := [8] }],
      ((gangState w).die 0).sw.find? reports = some w ∧ ((gangState w).die 0).window.length < 256) ∧
    (∀ w ∈ [squalling true .saved, { squalling true .saved .none 8 with coord := 0, back := true }],
      w.coord = 0 ∧ (w.back = false ∨ ¬ ∀ d ∈ w.dies, d = 0 ∨ d ∈ w.reports)) := by unfold reports; decide +kernel
theorem meets_closes : ∀ coord ∈ [0, 8], (let w := squalling true .saved .close coord
    let s := gangState w
    (s.die 0).sw.find? (fun w => w.out && w.tok == .close && (w.phase == .saved || w.phase == .closed)) = some w ∧ w.phase = .saved ∧ w.job ≠ 0 ∧ Claims.Sole s 0 w ∧
    Claims.RoomForLate s 0 ∧ (s.die 0).window.length < 256 ∧ swIn w.desc = false) := by unfold Claims.Sole Claims.RoomForLate; decide +kernel
theorem meets_latePackets : (let s := gangState (squalling true .closed) { closed := [5] }
    (gangPacket 0).job ∈ (s.die 0).closed ∧ (s.die 0).late.length < 4096) ∧ (gangPacket 0).job ∉ ((gangState (squalling true .closed)).die 0).closed := by decide +kernel
theorem meets_lateFull (l : List (Nat × SweepRec)) (h : 4096 ≤ l.length) :
    4096 ≤ ((gangState (squalling true .closed) { closed := [5], late := l }).die 0).late.length := h

/-- What was saved of the job: core 1 with a held context and a byte of its scratchpad, and one word of the area. -/
def kept : Saved :=
  { job := 5, part := 0, area := 0x100000, ctr := 5, cores := [(1, { c0 := { run := .held } })], scratch := [⟨homeScratch 1 0, 7⟩], flows := [oneFlow], subqs := [],
    overflow := {}, pool := 0, used := [], comms := [], phasers := [], parked := [], station := [⟨remKey 8 1 64, [1], 1, 0, 0⟩], window := [], replies := [], sets := [], trigs := [], sweep := [],
    rest := [(0x100000, [0])] }
def restoring (w : Switch) (ctr : Word) : State := gangState w { savedJobs := [kept], keys := [(7, gangKey ctr)], sealm := [(0x10, 0xFFF)], closed := [5] } .free
def opens (w : Switch) : Bool := !w.out && (w.tok == .quiesce || w.phase == .opened && (w.tok == .load || (w.coord == 0 && w.back)))
/-- The area is found as it was written, or its counter has been passed, or a byte of it has changed. -/
theorem meets_areas : (let w := squalling false .idle .quiesce
    (restoring w 5).areaStatus 0 w = 0 ∧ (restoring w 6).areaStatus 0 w = 4 ∧ ({ restoring w 5 with mem := cells 0x100000 [9] } : State).areaStatus 0 w = 3) := by decide +kernel
theorem meets_opens : ∀ coord ∈ [0, 8], (let w := squalling false .idle .quiesce coord
    ((restoring w 5).die 0).sw.find? opens = some w ∧ w.tok = .quiesce ∧ w.phase ≠ .opened ∧ (restoring w 5).asleep (range (0 * 8) 8) = false ∧
    ((restoring w 5).die 0).window.length < 256) := by unfold opens; decide +kernel
theorem meets_answeredTokens : ∀ status ∈ [0, 4], (let w := { squalling false .opened with back := true, status := status }
    let s := restoring w 5
    (s.die 0).sw.find? opens = some w ∧ w.tok = .none ∧ (s.die 0).window.length + w.dies.length ≤ 256 ∧ w.job ≠ 0 ∧ Claims.Sole s 0 w ∧ s.net = []) := by
  unfold opens Claims.Sole; decide +kernel
theorem meets_restores : (let w := squalling false .opened .load
    let s := restoring w 5
    (s.die 0).sw.find? opens = some w ∧ w.tok = .load ∧ (s.die 0).savedJobs.find? (fun v => v.job == w.job && v.area == w.area) = some kept ∧
    s.placeSets 0 kept = some [] ∧ (s.core 1).c0.run = .free ∧ (s.core 1).c1.run = .free ∧ (kept.cores.map (·.1)).Nodup ∧ (kept.scratch.map (·.1)).Nodup ∧
    (∀ c ∈ kept.scratch, 2 ^ 62 ≤ c.1) ∧ (s.die 0).late = []) := by
  unfold opens; refine ⟨?_, ?_, ?_, ?_, ?_, ?_, ?_, ?_, ?_, ?_⟩ <;> decide +kernel
/-- Nothing was lost, or a packet; a response of the job is still on its way. -/
theorem meets_resumes : ∀ coord ∈ [0, 8], ∀ lost ∈ [0, 3], (let w := squalling false .loaded .close coord
    let s := gangState w { lateLost := [(5, lost)] } .held
    (s.die 0).sw.find? (fun w => !w.out && w.tok == .close && (w.phase == .loaded || w.phase == .closed)) = some w ∧ w.phase = .loaded ∧ s.net = [] ∧
    SMap.get 0 (s.die 0).lateLost 5 = lost ∧ (s.die 0).supers.has 5 = false ∧ (s.jobPlaces 0 5).Nodup ∧ s.jobPlaces 0 5 = [⟨0, 0⟩] ∧
    (let p := { answer 0x10 [] with job := 5 }; Claims.Come 0 p ∧ p.job = w.job ∧ p.request = false)) := by
  unfold Claims.Come; decide +kernel

/-! ## The machine as a whole -/

/-- Root on the system core of die 0 at 0x2000, where `add g3, g4, g5` stands. -/
def rootCode : State :=
  { onSystem 2 { regs with pc := 0x2000 } id (fun c => { c with last := 1 }) with mem := cells 0x2000 [0x0094830100000102], turns := [.core 64] }
/-- A bundle of one slot as latched. -/
def latched1 (slot : Nat) (word : Lane) : State :=
  let r : Regs := { regs with pc := 0x1000 }
  { task r with iss := { live := true, baddr := 0x1000, head := (1#32 <<< slot), words := [word], lat := r, sync := r } }
theorem meets_stepTurn : (∃ i rest, ({ task regs with turns := [.event (.powerP1Enter 0 0)] } : State).turns = .event i :: rest) ∧ rootCode.turns = .core 64 :: [] ∧
    (rootCode.core 64).last = 1 ∧ (rootCode.core 64).c0.run = .running ∧ (rootCode.core 64).c0.pend = [] ∧ (rootCode.core 64).c0.held = none ∧
    (rootCode.core 64).c0.y.level = 2 := ⟨⟨_, _, rfl⟩, rfl, rfl, rfl, rfl, rfl, rfl⟩
theorem meets_stepBlocks : ∀ va, rootCode.blockAt rootCode.cur.core (rootCode.xctxAt rootCode.cur).asid va = none := fun _ => rfl
theorem meets_stepFetch : (match (({ rootCode with turns := [], cur := ⟨64, 0⟩ } : State).modCx (fun c => { c with held := none })).fetchBundle with
    | .ok s' => s'.iss.scanned && s'.cx.bfaults.isEmpty && !s'.arrayFull && (match s'.runBundle with | .next t => !t.iss.wait && t.cx.r.rg 3 == 12 | _ => false)
    | .error _ => false) = true := by decide +kernel
/-- A compute core's turn, while no activation holds it. -/
theorem meets_stepCompute : isSystem 3 = false ∧ (({} : State).md (coreDie 3 / 8)).activating = false := by decide +kernel
theorem meets_stepSlots : Claims.Fresh (latched1 1 0x00948301).iss ∧ (latched1 1 0x00948301).iss.pendingSlot 1 = true ∧
    decodeSlot (slotClass 1) ((latched1 1 0x00948301).iss.word 1) = .ok (.add 3 4 5 0 true) ∧ (latched1 1 0x00948301).iss.acts 1 (.add 3 4 5 0 true) = true ∧
    (latched1 1 0x00948301).iss.pres = 2 ^ 1 ∧ ((latched1 1 0x00948301).planBad 1).isNone = true := by
  unfold Claims.Fresh; refine ⟨?_, ?_, rfl, ?_, ?_, ?_⟩ <;> decide +kernel
theorem meets_stepControl : Claims.Fresh (latched1 0 0xFFFF8509).iss ∧ (latched1 0 0xFFFF8509).iss.pres = 1 ∧
    decodeSlot .C ((latched1 0 0xFFFF8509).iss.word 0) = .ok (.bnz 5 (-4)) ∧ (latched1 0 0xFFFF8509).iss.acts 0 (.bnz 5 (-4)) = true := by
  unfold Claims.Fresh; refine ⟨?_, ?_, rfl, ?_⟩ <;> decide +kernel
theorem meets_memoryForm : State.reset.memOk = true ∧ (rootCode.memOk = true) := by decide +kernel
/-- The step runs what root's code says (R24, R174). -/
theorem test_step : (match step rootCode with | .next t => (t.core 64).c0.r.rg 3 == 12 && (t.core 64).c0.r.pc == 0x2008 | _ => false) = true := by decide +kernel

/-! ## Segment headers -/

/-- A span of two parts. -/
theorem getVa_add (s : State) (x : XCtx) (m n : Nat) : ∀ va a b, s.getVa x va m = .ok a → s.getVa x (va + m) n = .ok b → s.getVa x va (m + n) = .ok (a ++ b) := by
  induction m with
  | zero =>
    intro va a b ha hb
    simp only [State.getVa, Except.ok.injEq] at ha
    subst ha
    simpa using hb
  | succ m ih =>
    intro va a b ha hb
    rw [Nat.succ_add]
    simp only [State.getVa] at ha ⊢
    split at ha
    · rename_i b₁ t h₁ h₂
      rw [h₁, ih (va + 1) t b h₂ (by rw [Nat.add_assoc, Nat.add_comm 1 m]; exact hb)]
      simp only [Except.ok.injEq] at ha
      subst ha
      simp
    · simp at ha
    · simp at ha
/-- A span of blocks of 64 bytes. -/
theorem getVa_blocks (s : State) (x : XCtx) (va : Nat) (f : Nat → List Byte) :
    ∀ k, (∀ i, i < k → (match s.getVa x (va + 64 * i) 64 with | .ok b => b == f i | .error _ => false) = true) →
      s.getVa x va (64 * k) = .ok ((List.range k).flatMap f) := by
  intro k
  induction k with
  | zero => intro _; rfl
  | succ k ih =>
    intro h
    have hk := h k (Nat.lt_succ_self k)
    have hk' : s.getVa x (va + 64 * k) 64 = .ok (f k) := by
      split at hk
      · rename_i b hb; rw [hb, eq_of_beq hk]
      · simp at hk
    rw [List.range_succ, List.flatMap_append, Nat.mul_succ]
    simpa using getVa_add s x (64 * k) 64 va _ _ (ih (fun i hi => h i (Nat.lt_succ_of_lt hi))) hk'

/-- The monitor with a header at 0x2000 (g4): one word, and zeros after it, so that zeros stand at 0x2040 (g5). -/
def headed : State :=
  { withDie { sealm := [(0, 0xFFF)] } (onSystem 1 { regs with g := [(4, 0x2000), (5, 0x2040)] } id (fun c => { c with tlb := [⟨0, 0, 21, .ordinary, 0, 0, 0, true, true, false, true⟩] })) with
    mem := cells 0x2000 [0x100000001] }
def headerOf (i : Nat) : List Byte := (if i = 0 then bytesOf 8 0x100000001 else List.replicate 8 0) ++ List.replicate 56 0
theorem meets_segmaps : isSystem headed.cur.core = true ∧ (headed.eaBad (headed.ra 4) 0x2000 .rd).isNone = true ∧ (headed.eaBad (headed.ra 5) 0x2000 .rd).isNone = true ∧
    512 * (0x100000001 : Word).toNat % 2 ^ 41 = 512 ∧ (headed.spanBad (0x2000 + 0x2000) 512 .rd).isNone = true ∧ vaOf (headed.ra 4) = 0x2000 ∧ vaOf (headed.ra 5) = 0x2040 := by
  refine ⟨?_, ?_, ?_, ?_, ?_, ?_, ?_⟩ <;> decide +kernel
theorem header_blocks : ∀ i, i < 129 → (match headed.getVa headed.xc (0x2000 + 64 * i) 64 with | .ok b => b == headerOf i | .error _ => false) = true := by
  decide +kernel
theorem meets_segmapGood : headerBad (headed.span 0x2000 0x2000) = false := by
  rw [State.span, show headed.getVa headed.xc 0x2000 0x2000 = _ from
    getVa_blocks headed headed.xc 0x2000 headerOf 128 (fun i h => header_blocks i (Nat.lt_succ_of_lt h))]
  decide +kernel
theorem meets_segmapBad : headerBad (headed.span 0x2040 0x2000) = true := by
  rw [State.span, show headed.getVa headed.xc 0x2040 0x2000 = _ from
    getVa_blocks headed headed.xc 0x2040 (fun i => headerOf (i + 1)) 128 (fun i h => by
      have := header_blocks (i + 1) (Nat.succ_lt_succ h)
      rwa [Nat.mul_succ, Nat.add_comm (64 * i) 64, ← Nat.add_assoc] at this)]
  decide +kernel


end Sys2Proof.Tests
end

section
/-! Register files: what a scalar or predicate register reads after a write (R48, R49). -/

namespace Sys2Proof.Machine

@[simp] theorem Regs.rg_zero (r : Regs) : r.rg 0 = 0 := rfl
@[simp] theorem Regs.rp_zero (r : Regs) : r.rp 0 = BitVec.allOnes 64 := rfl
@[simp] theorem Regs.setG_zero (r : Regs) (v : Word) : r.setG 0 v = r := rfl
@[simp] theorem Regs.setP_zero (r : Regs) (v : Word) : r.setP 0 v = r := rfl

@[simp] theorem Regs.rg_setG_self (r : Regs) (n : Nat) (v : Word) (h : n ≠ 0) : (r.setG n v).rg n = v := by
  simp [Regs.setG, Regs.rg, h]

theorem Regs.rg_setG_ne (r : Regs) (m n : Nat) (v : Word) (h : m ≠ n) : (r.setG n v).rg m = r.rg m := by
  by_cases hn : n = 0
  · rw [hn, Regs.setG_zero]
  · simp [Regs.setG, Regs.rg, hn, SMap.get_put_ne _ _ _ _ _ h]

end Sys2Proof.Machine

open Sys2Proof.Machine

/-- Settles O1: index 0 reads its constant whatever the file lists and discards a write, and any other g register reads what was put at it. -/
theorem hardwiredRegistersReadTheirConstants : Obligations.HardwiredRegistersReadTheirConstants := by
  intro s v
  refine ⟨Regs.rg_zero _, Regs.rg_zero _, Regs.rp_zero _, Regs.rp_zero _, fun n => ?_, fun n => ⟨?_, fun k hk _ => ⟨?_, fun m hm => ?_⟩⟩⟩
  · rw [Regs.setG_zero]
  · rw [Regs.setP_zero]
  · exact Regs.rg_setG_self _ k v hk
  · exact Regs.rg_setG_ne _ m k v hm

end

section
/-! Stores through a context's translation change no register: of a core they move lines of its data cache and nothing else (R237, R238, R251).
The bytes a trap leaves behind, pushed rows and the fault record, are such stores (R58, R317). -/

namespace Sys2Proof.Machine

/-- Of the cores nothing but their data caches changes; the bundle in issue, its place and its latches stand. -/
structure State.KeepsCores (s t : State) : Prop where
  cur : t.cur = s.cur
  iss : t.iss = s.iss
  core : ∀ k, t.core k = { s.core k with dcache := (t.core k).dcache }

theorem State.KeepsCores.refl (s : State) : s.KeepsCores s := ⟨rfl, rfl, fun _ => rfl⟩

/-- A change outside the cores and the bundle in issue. -/
theorem State.KeepsCores.of_cores {s t : State} (hcur : t.cur = s.cur) (hiss : t.iss = s.iss) (hcores : t.cores = s.cores) : s.KeepsCores t :=
  ⟨hcur, hiss, fun k => by rw [State.core, hcores]; rfl⟩

theorem State.KeepsCores.trans {s t u : State} (h : s.KeepsCores t) (h' : t.KeepsCores u) : s.KeepsCores u :=
  ⟨h'.cur.trans h.cur, h'.iss.trans h.iss, fun k => by rw [h'.core k, h.core k]⟩

theorem State.KeepsCores.foldl {α : Type} (f : State → α → State) (h : ∀ (s : State) a, s.KeepsCores (f s a)) (l : List α) (s : State) :
    s.KeepsCores (l.foldl f s) := by
  induction l generalizing s with
  | nil => exact .refl s
  | cons a l ih => exact (h s a).trans (ih (f s a))

theorem State.KeepsCores.ctxAt {s t : State} (h : s.KeepsCores t) (p : Place) : t.ctxAt p = s.ctxAt p := by
  rw [State.ctxAt, h.core p.core]
  rfl

theorem State.KeepsCores.cx {s t : State} (h : s.KeepsCores t) : t.cx = s.cx := by
  rw [State.cx, h.cur, h.ctxAt, State.cx]

/-! ## The updates a store is made of -/

theorem State.keepsCores_modDie (s : State) (k : Nat) (f : Die → Die) : s.KeepsCores (s.modDie k f) := .of_cores rfl rfl rfl
theorem State.keepsCores_modCluster (s : State) (k : Nat) (f : Cluster → Cluster) : s.KeepsCores (s.modCluster k f) := .of_cores rfl rfl rfl

theorem State.keepsCores_modCore (s : State) (k : Nat) (f : Core → Core) (h : ∀ c, f c = { c with dcache := (f c).dcache }) :
    s.KeepsCores (s.modCore k f) := by
  refine ⟨rfl, rfl, fun n => ?_⟩
  by_cases hn : n = k
  · subst hn
    rw [State.core_modCore]
    exact h _
  · rw [State.core_modCore_ne _ _ _ _ hn]

theorem State.keepsCores_setByte (s : State) (a : Nat) (v : Byte) : s.KeepsCores (s.setByte a v) := .of_cores rfl rfl rfl

theorem State.keepsCores_setBytes (bs : List Byte) (s : State) (a : Nat) : s.KeepsCores (s.setBytes a bs) := by
  induction bs generalizing s a with
  | nil => exact .refl s
  | cons b bs ih => exact (s.keepsCores_setByte a b).trans (ih _ (a + 1))

theorem State.keepsCores_homeWrite (s : State) (a : Nat) (bs : List Byte) : s.KeepsCores (s.homeWrite a bs) :=
  (State.keepsCores_setBytes bs s a).trans (.of_cores rfl rfl rfl)

/-! ## The buffers and the data cache -/

theorem State.keepsCores_dieWrite (s : State) (die : Nat) (w : BufW) : s.KeepsCores (s.dieWrite die w) := by
  unfold State.dieWrite
  split
  · exact s.keepsCores_modDie _ _
  · exact s.keepsCores_homeWrite _ _

theorem State.keepsCores_putBuffer (s : State) (w : BufW) : s.KeepsCores (s.putBuffer w) := by
  unfold State.putBuffer
  split
  · exact s.keepsCores_dieWrite _ _
  · exact s.keepsCores_modCluster _ _

theorem State.keepsCores_staleFills (s : State) (core : Nat) : s.KeepsCores (s.staleFills core) := by
  unfold State.staleFills
  split
  · exact s.keepsCores_modDie _ _
  · exact .refl s

theorem State.keepsCores_staleLine (s : State) (core loc : Nat) : s.KeepsCores (s.staleLine core loc) := by
  unfold State.staleLine
  dsimp only
  split
  · exact s.keepsCores_modDie _ _
  · exact .refl s

theorem State.keepsCores_writeBack (s : State) (core : Nat) (l : Line) : s.KeepsCores (s.writeBack core l) := by
  unfold State.writeBack
  split
  · exact .refl s
  · exact ((State.KeepsCores.foldl _ (fun s _ => s.keepsCores_putBuffer _) _ s).trans
      (State.keepsCores_modCore _ _ _ fun _ => rfl)).trans (State.keepsCores_staleLine _ _ _)

theorem State.keepsCores_invalidate (s : State) (core : Nat) (p : Line → Bool) : s.KeepsCores (s.invalidate core p) :=
  ((State.KeepsCores.foldl _ (fun s l => s.keepsCores_writeBack core l) _ s).trans
    (State.keepsCores_modCore _ _ _ fun _ => rfl)).trans (State.keepsCores_staleFills _ _)

theorem State.keepsCores_dropStale (s : State) (x : XCtx) (va loc : Nat) : s.KeepsCores (s.dropStale x va loc) := by
  unfold State.dropStale
  split
  · split
    · exact s.keepsCores_invalidate _ _
    · exact .refl s
  · exact .refl s

theorem State.keepsCores_makeRoom (s : State) (core : Nat) : s.KeepsCores (s.makeRoom core) := by
  unfold State.makeRoom
  dsimp only
  split
  · exact .refl s
  · split
    · have hfresh : s.KeepsCores { s with fresh := s.fresh + 1 } := .of_cores rfl rfl rfl
      exact hfresh.trans (State.keepsCores_invalidate _ _ _)
    · exact .refl s

theorem State.keepsCores_allocLine (s : State) (x : XCtx) (va loc : Nat) : s.KeepsCores (s.allocLine x va loc) := by
  refine (s.keepsCores_dropStale x va loc).trans ?_
  unfold State.allocLine
  dsimp only
  split
  · split
    · exact .refl _
    · exact State.keepsCores_modCore _ _ _ fun _ => rfl
  · exact (State.keepsCores_makeRoom _ _).trans (State.keepsCores_modCore _ _ _ fun _ => rfl)

theorem State.keepsCores_cachedWrite (bs : List Byte) (s : State) (core loc : Nat) : s.KeepsCores (s.cachedWrite core loc bs) := by
  induction bs generalizing s loc with
  | nil => exact .refl s
  | cons b bs ih => exact (s.keepsCores_modCore _ _ fun _ => rfl).trans (ih (s.cachedSet core loc b) (loc + 1))

/-! ## Stores at a virtual address -/

theorem State.keepsCores_writeAt (s : State) (x : XCtx) (va : Nat) (t : Xl) (bs : List Byte) : s.KeepsCores (s.writeAt x va t bs) := by
  have hcached := (s.keepsCores_allocLine x va t.loc).trans (State.keepsCores_cachedWrite bs _ x.core t.loc)
  unfold State.writeAt
  split
  · exact hcached
  · exact hcached
  · exact s.keepsCores_homeWrite _ _

theorem State.keepsCores_putVa (fuel : Nat) (s : State) (x : XCtx) (va : Nat) (bs : List Byte) : s.KeepsCores (s.putVa x va bs fuel) := by
  induction fuel generalizing s va bs with
  | zero => exact .refl s
  | succ fuel ih =>
    unfold State.putVa
    dsimp only
    split
    · exact .refl s
    · refine State.KeepsCores.trans ?_ (ih _ _ _)
      split
      · split
        · exact s.keepsCores_writeAt _ _ _ _
        · exact .refl s
      · exact .refl s

theorem State.keepsCores_pushRow (s : State) (x : XCtx) (port : Port) (w : Push) : s.KeepsCores (s.pushRow x port w) := by
  unfold State.pushRow
  split
  · refine State.KeepsCores.foldl _ (fun s i => ?_) _ s
    split
    · split
      · exact s.keepsCores_writeAt _ _ _ _
      · exact .refl s
    · exact .refl s
  · exact .refl s

theorem State.keepsCores_pushAll (s : State) (x : XCtx) (i : Iss) : s.KeepsCores (s.pushAll x i) :=
  State.KeepsCores.foldl _ (fun s _ => s.keepsCores_pushRow _ _ _) _ s

@[simp] theorem State.doPushes_cx (s : State) : s.doPushes.cx = s.cx := (s.keepsCores_pushAll s.xc s.iss).cx

@[simp] theorem State.doPushes_iss (s : State) : s.doPushes.iss = { s.iss with push := [] } := by
  rw [State.doPushes, State.modIss_iss, (s.keepsCores_pushAll s.xc s.iss).iss]

@[simp] theorem State.doPushes_cur (s : State) : s.doPushes.cur = s.cur := (s.keepsCores_pushAll s.xc s.iss).cur

/-! ## Taking an exception at monitor level (R316) -/

@[simp] theorem State.loadBounds_iss (s : State) (p : Place) (va : Nat) : (s.loadBounds p va).iss = s.iss := by
  unfold State.loadBounds
  dsimp only
  split <;> rfl

/-- Of the context in issue a reload of the scratchpad bounds changes only those (R373). -/
theorem State.loadBounds_cx (s : State) (va : Nat) :
    ∃ lo hi, (s.loadBounds s.cur va).cx = { s.cx with y := { s.cx.y with splo := lo, sphi := hi } } := by
  unfold State.loadBounds
  dsimp only
  split
  · exact ⟨_, _, State.cx_modCx s _⟩
  · exact ⟨_, _, rfl⟩

/-- A context that enters its monitor: at TVEC and monitor level, with no bundle held. -/
def Ctx.enterMonitor (c : Ctx) : Ctx := { c with r := { c.r with pc := c.y.tvec }, y := { c.y with level := 1 }, held := none, off := false }

/-- A trap that its context takes itself first stores the pushed rows and the record, then enters the monitor (R316). -/
theorem State.trapAt_eq_of_trapsHere (s : State) (cause slot : Nat) (addr aux ret : Word) (h : Claims.TrapsHere s) (hc : cause / 256 ≠ 0x0F) :
    ∃ w, (s.doPushes.modIss (fun i => { i with trapped := true })).KeepsCores w ∧
      s.trapAt cause slot addr aux ret = (w.modCx Ctx.enterMonitor).loadBounds s.cur (vaOf s.cx.y.tvec) := by
  obtain ⟨hlevel, htpol⟩ := h
  unfold State.trapAt
  simp only [hlevel, htpol, hc, ne_eq, not_true_eq_false, decide_false, Bool.and_false, Bool.or_false, Bool.false_eq_true, if_false]
  exact ⟨_, State.keepsCores_putVa 2048 _ _ _ _, rfl⟩

/-- What such a trap leaves in the latches and in its context: of the registers it changes the pc alone. -/
theorem State.trapAt_of_trapsHere (s : State) (cause slot : Nat) (addr aux ret : Word) (h : Claims.TrapsHere s) (hc : cause / 256 ≠ 0x0F) :
    (s.trapAt cause slot addr aux ret).iss = { s.iss with push := [], trapped := true } ∧
    ∃ lo hi, (s.trapAt cause slot addr aux ret).cx =
      { s.cx.enterMonitor with y := { s.cx.enterMonitor.y with splo := lo, sphi := hi } } := by
  obtain ⟨w, hw, heq⟩ := s.trapAt_eq_of_trapsHere cause slot addr aux ret h hc
  have hcur : s.cur = (w.modCx Ctx.enterMonitor).cur := by rw [State.modCx_cur, hw.cur, State.modIss_cur, State.doPushes_cur]
  have hcx : (w.modCx Ctx.enterMonitor).cx = s.cx.enterMonitor := by rw [State.cx_modCx, hw.cx, State.cx_modIss, State.doPushes_cx]
  rw [heq]
  refine ⟨?_, ?_⟩
  · rw [State.loadBounds_iss, State.modCx_iss, hw.iss, State.modIss_iss, State.doPushes_iss]
  · rw [hcur, ← hcx]
    exact State.loadBounds_cx _ _

theorem State.takeTrap_of_trapsHere (s : State) (cause : Nat) (addr : Word) (h : Claims.TrapsHere s) (hc : cause / 256 ≠ 0x0F) :
    (s.takeTrap cause addr).iss.trapped = true ∧ (s.takeTrap cause addr).cx.r = { s.cx.r with pc := s.cx.y.tvec } := by
  obtain ⟨hiss, lo, hi, hcx⟩ := s.trapAt_of_trapsHere cause s.iss.slot addr 0 s.iss.baddr h hc
  rw [State.takeTrap, hiss, hcx]
  exact ⟨rfl, rfl⟩

/-! ## The binding table (R225, R226) -/

theorem Core.setCtx_ctx (c : Core) (x : Nat) : c.setCtx x (c.ctx x) = c := by
  unfold Core.ctx Core.setCtx
  split <;> rfl

theorem State.keepsAllButRegs_self (s : State) : Claims.KeepsAllButRegs s s :=
  ⟨⟨fun _ => rfl, rfl, fun _ _ => rfl⟩, (Core.setCtx_ctx s.co s.cur.ctx).symm, rfl⟩

/-- A change of the registers of the context in issue changes nothing else. -/
theorem State.keepsAllButRegs_modR (s : State) (f : Regs → Regs) : Claims.KeepsAllButRegs s (s.modR f) := by
  refine ⟨⟨fun _ => rfl, rfl, fun k hk => State.core_modCore_ne s _ k _ hk⟩, ?_, ?_⟩
  · rw [State.cx_modR]
    exact State.core_modCore s s.cur.core _
  · rw [State.cx_modR]

/-- A region that `bind` accepts: base and length in units of 64 bytes, the length above 0 and at most 2⁴⁰ (R225). -/
def BindShaped (base len : Word) : Prop := base.toNat % 64 = 0 ∧ len.toNat % 64 = 0 ∧ len ≠ 0 ∧ len.toNat ≤ 2 ^ 40

/-- A region meets no entry of a table that is bound to another handle (R225). -/
def BindApart (tab : List Bind) (base len : Word) (h : Nat) : Prop :=
  ∀ t ∈ tab, t.h ≠ h → ¬ (base.toNat < t.base.toNat + t.len.toNat ∧ t.base.toNat < base.toNat + len.toNat)

theorem bindApart_iff (tab : List Bind) (base len : Word) (h : Nat) :
    tab.any (fun t => t.h != h && base.toNat < t.base.toNat + t.len.toNat && t.base.toNat < base.toNat + len.toNat) = false ↔
      BindApart tab base len h := by
  simp [BindApart]

/-- A region that passes the checks joins the table, unless the same entry stands there. -/
theorem execBind_of_accepted (a l : BitVec 5) (b : BitVec 6) (s : State) (hshape : BindShaped (s.rs a) (s.rs l)) (hb : s.handleBad b = false)
    (hapart : BindApart s.cx.r.binds (s.rs a) (s.rs l) b.toNat) :
    execBind a l b s =
      if (⟨s.rs a, s.rs l, b.toNat⟩ : Bind) ∈ s.cx.r.binds then .next s
      else if 16 ≤ s.cx.r.binds.length then .next (s.takeTrap 0x0603 (s.rs a))
      else .next (s.modR (fun r => { r with binds := r.binds ++ [⟨s.rs a, s.rs l, b.toNat⟩] })) := by
  obtain ⟨hbase, hlen, hpos, hmax⟩ := hshape
  have hany := (bindApart_iff _ _ _ _).2 hapart
  unfold execBind
  simp only [hbase, hlen, hpos, hb, hany, Nat.not_lt.2 hmax, ne_eq, not_true_eq_false, decide_false, Bool.or_self, Bool.false_eq_true,
    if_false, List.contains_iff_mem, ge_iff_le]

/-- A region that fails a check traps, with a cause of the groups alignment or footprint. -/
theorem execBind_of_refused (a l : BitVec 5) (b : BitVec 6) (s : State)
    (h : ¬ (BindShaped (s.rs a) (s.rs l) ∧ s.handleBad b = false ∧ BindApart s.cx.r.binds (s.rs a) (s.rs l) b.toNat)) :
    ∃ cause addr, cause / 256 ≠ 0x0F ∧ execBind a l b s = .next (s.takeTrap cause addr) := by
  unfold execBind
  dsimp only
  split
  · exact ⟨0x0801, _, by decide, rfl⟩
  split
  · exact ⟨0x0801, _, by decide, rfl⟩
  split
  · exact ⟨0x0601, _, by decide, rfl⟩
  split
  · exact ⟨0x0602, _, by decide, rfl⟩
  next hbase hlen hbad hany =>
    refine absurd ⟨?_, by simpa using hbad, (bindApart_iff _ _ _ _).1 (by simpa using hany)⟩ h
    simp only [ne_eq, not_not, Bool.or_eq_true, decide_eq_true_eq, not_or, gt_iff_lt, Nat.not_lt] at hbase hlen
    obtain ⟨⟨hunits, hpos⟩, hmax⟩ := hlen
    exact ⟨hbase, hunits, hpos, hmax⟩

end Sys2Proof.Machine

open Sys2Proof Sys2Proof.Machine Sys2Proof.Claims

/-- Settles O11: the checks of `bind` split into those that accept a region, after which the table keeps or gains its entry, and those that trap;
a trap changes no register but the pc. -/
theorem bindingTableHoldsItsRegions : Obligations.BindingTableHoldsItsRegions := by
  refine ⟨by decide, fun s a l b => ⟨fun hshape hb hapart hroom => ?_, fun htrap hfail => ?_⟩, fun s a => ?_⟩
  · show ∃ t, execBind a l b s = .next t ∧ _
    rw [execBind_of_accepted a l b s hshape hb hapart]
    by_cases hin : (⟨s.rs a, s.rs l, b.toNat⟩ : Bind) ∈ s.cx.r.binds
    · rw [if_pos hin, if_pos hin]
      exact ⟨s, rfl, s.keepsAllButRegs_self, rfl, rfl⟩
    · rw [if_neg hin, if_neg hin, if_neg (Nat.not_le.2 (hroom.resolve_right hin))]
      exact ⟨_, rfl, s.keepsAllButRegs_modR _, rfl, by rw [State.cx_modR]⟩
  · have htraps : ∃ cause addr, cause / 256 ≠ 0x0F ∧ execBind a l b s = .next (s.takeTrap cause addr) := by
      by_cases hok : BindShaped (s.rs a) (s.rs l) ∧ s.handleBad b = false ∧ BindApart s.cx.r.binds (s.rs a) (s.rs l) b.toNat
      · obtain ⟨hshape, hb, hapart⟩ := hok
        obtain hs | hh | hap | ⟨hfull, hnew⟩ := hfail
        · exact absurd hshape hs
        · exact absurd hh (by simp [hb])
        · exact absurd hapart hap
        · exact ⟨0x0603, s.rs a, by decide, by rw [execBind_of_accepted a l b s hshape hb hapart, if_neg hnew, if_pos hfull]⟩
      · exact execBind_of_refused a l b s hok
    obtain ⟨cause, addr, hc, heq⟩ := htraps
    exact ⟨_, heq, s.takeTrap_of_trapsHere cause addr htrap hc⟩
  · exact ⟨_, rfl, s.keepsAllButRegs_modR _, rfl, by rw [State.cx_modR]⟩

end
